-- ==== Sys2Proof/Word.lean ====
section
/-! DEFINITION. The word of the KB3080's faces and its plainest arithmetic (spec 00, sections 6.1 to 6.3). -/

namespace Sys2Proof

/-- A word is 32 bits (00, section 6.2). -/
abbrev Word := BitVec 32

/-- R2: the difference of two microsecond stamps, taken modulo 2^32 and read as a signed number. -/
def stampDiff (a b : Word) : Int := (a - b).toInt

/-- The microsecond instant `us` after `a`; the count wraps (R2). -/
def stampAfter (a : Word) (us : Nat) : Word := a + BitVec.ofNat 32 us

end Sys2Proof
end

