-- ==== Sys2Proof/Config.lean ====
section
/-! DEFINITION. What the part fixes: durations, sizes and scales that rules of the spec name by figure, and the
model's own choices of scale (each with its log entry). -/

namespace Sys2Proof.Config

/-- Microseconds in a millisecond, a second and a minute. -/
def msUs : Nat := 1000
def secUs : Nat := 1000000
def minUs : Nat := 60000000

/-- R23: the status staleness timer, 100 ms. -/
def statusStaleUs : Nat := 100000
/-- R27: the retry window, 60 s, which is not a parameter. -/
def retryWindowUs : Nat := 60000000
/-- R84, R85: the CLOSE and TRIP pulses, 100 ms. -/
def pulseUs : Nat := 100000
/-- R76: the filter of the BRK_CLOSED inputs. -/
def breakerFilterUs : Nat := 5000
/-- R96: TRIP is held for 100 ms after RESET_N returns high. -/
def tripHoldUs : Nat := 100000
/-- R84: the close confirm timer runs for the breaker close time plus 200 ms. -/
def closeConfirmExtraUs : Nat := 200000
/-- R89: the open confirm timer, 200 ms. -/
def openConfirmUs : Nat := 200000
/-- R103: the energise timer runs for the energise ramp plus 5 s. -/
def energiseExtraUs : Nat := 5000000
/-- R116: the reverse power timer, 1 s. -/
def reversePowerUs : Nat := 1000000
/-- R183: the unlock timer after the first write and after the second. -/
def unlockFirstUs : Nat := 1000000
def unlockOpenUs : Nat := 10000000
/-- R192: a TIMEBASE frame every 1,000 µs. -/
def timebaseFrameUs : Nat := 1000

/-- DESIGN CHOICE (log 10): frequencies are held in millionths of a mHz, so that a slew rate in mHz/s is that many
units per microsecond. -/
def freqUnit : Nat := 1000000
/-- DESIGN CHOICE (log 10): phases are held in quanta, 2e15 to a turn: one microsecond at f mHz gains exactly
2,000,000 f of them. -/
def turnQ : Nat := 2000000000000000
/-- Quanta in one phase unit (1/65,536 turn): 5^15. -/
def unitQ : Nat := 30517578125
/-- Quanta gained in one microsecond at one mHz. -/
def quantaPerMhzUs : Nat := 2000000

/-- DESIGN CHOICE (log 11): setpoints are held in mW, so that a ramp rate in kW/s is that many units per
microsecond. -/
def powerUnit : Nat := 1000000

/-- R47: bounds of every glide target, in mHz. -/
def freqMin : Nat := 45000
def freqMax : Nat := 65000

/-- The station page (R162): byte address 0xFFFC00, 256 words. -/
def stationPageBase : Nat := 0xFFFC00
def topOfMemory : Nat := 0x1000000

/-- DESIGN CHOICE, unsafe (log 4): what a word of plant memory that nothing has written reads as. -/
def memoryUnwritten : Word := 0

/-- R153: the CRC-32 polynomial 0x04C11DB7 with its bits in the order least significant first. -/
def crcPoly : Word := 0xEDB88320

/-- R145: slots of the holding queue. -/
def billingSlots : Nat := 3
def eventSlots : Nat := 6

end Sys2Proof.Config
end

