-- ==== Sys2Proof/Syntax.lean ====
section
/-! DEFINITION. The commands: one constructor of `Instr` for each row of spec/opcode_table.json, and the names its
operands need. -/

namespace Sys2Proof

/-- Berths B0 to B2. -/
inductive Berth | b0 | b1 | b2
  deriving DecidableEq, Repr

/-- Modules M0 to M7. -/
inductive ModuleId | m0 | m1 | m2 | m3 | m4 | m5 | m6 | m7
  deriving DecidableEq, Repr

/-- The tag a transfer carries: the three masters, and tag 3, which names none (00, section 4). -/
inductive Tag | supervisor | meter | link | unknown
  deriving DecidableEq, Repr

/-- The kinds of measurement slot (R58). -/
inductive SlotKind | shipPhasor | shorePhasor | feederPower
  deriving DecidableEq, Repr

/-- What a transfer does: a read of `len` words, or a write of its data words (R161). -/
inductive Access
  | read (len : Nat)
  | write (data : List Word)
  deriving DecidableEq, Repr

/-- A transfer on the master face (R161): its tag, byte address and access. -/
structure Transfer where
  tag : Tag
  addr : BitVec 24
  access : Access
  deriving DecidableEq, Repr

/-- The number of words of a transfer's burst. -/
def Transfer.len (t : Transfer) : Nat :=
  match t.access with
  | .read n => n
  | .write ws => ws.length

/-- The commands. Each constructor is the row of the table whose mnemonic LAWS.json gives it; its docstring names the
row's rule. -/
inductive Instr
  /-- R188; the operands are the BRK_CLOSED levels of B0, B1 and B2 at the release (R95). -/
  | powerOnReset (closed0 closed1 closed2 : Bool)
  /-- R96. -/
  | lineReset
  /-- R142. -/
  | lineResetRelease
  /-- R96. -/
  | tripHoldEnd
  /-- R76. -/
  | breakerViewRise (b : Berth)
  /-- R76. -/
  | breakerViewFall (b : Berth)
  /-- R161. -/
  | transferAccept (t : Transfer)
  /-- R171: a SUPERVISOR read of the record word of tag `k`. -/
  | refusedRecordRead (k : Tag)
  /-- R172. -/
  | memoryFaceDone
  /-- R60: a METER write of one record at the `k`-th 16-byte place of berth `b`'s MEASURE window. -/
  | measurementRecord (b : Berth) (k : Nat) (w0 w1 w2 w3 : Word)
  /-- R21: a LINK write of module `m`'s eight-word status record. -/
  | moduleStatusRecord (m : ModuleId) (ws : List Word)
  /-- R23. -/
  | moduleStatusStale (m : ModuleId)
  /-- R33. -/
  | retryWaitExpiry (m : ModuleId)
  /-- R34. -/
  | retryWindowExpiry (m : ModuleId)
  /-- R29. -/
  | blankingExpiry (m : ModuleId)
  /-- R11. -/
  | claimTimerExpiry (b : Berth)
  /-- R66. -/
  | slotStalenessExpiry (b : Berth) (k : SlotKind)
  /-- R70. -/
  | bridgeTimerExpiry (b : Berth)
  /-- R50. -/
  | glideNearTarget (b : Berth)
  /-- R45. -/
  | glideTargetReached (b : Berth)
  /-- R103. -/
  | energiseRampComplete (b : Berth)
  /-- R104. -/
  | energiseTimerExpiry (b : Berth)
  /-- R114. -/
  | deEnergisingComplete (b : Berth)
  /-- R17. -/
  | setpointKwStep (b : Berth)
  /-- R106. -/
  | rampEnd (b : Berth)
  /-- R105. -/
  | syncTimerExpiry (b : Berth)
  /-- R111. -/
  | parallelTimerExpiry (b : Berth)
  /-- R115. -/
  | overloadTimerExpiry (b : Berth)
  /-- R116. -/
  | reversePowerTimerExpiry (b : Berth)
  /-- R83. -/
  | closeDueExpiry (b : Berth)
  /-- R84. -/
  | closePulseExpiry (b : Berth)
  /-- R85. -/
  | tripPulseExpiry (b : Berth)
  /-- R88. -/
  | closeConfirmExpiry (b : Berth)
  /-- R90. -/
  | openConfirmExpiry (b : Berth)
  /-- R93. -/
  | deadTimeExpiry (b : Berth)
  /-- R125. -/
  | stationTick
  /-- R183. -/
  | unlockTimerExpiry
  /-- R186. -/
  | heartbeatTimerExpiry
  /-- R157. -/
  | coalescingTimerExpiry
  /-- R152. -/
  | journalWriteStart
  /-- R152. -/
  | journalClaimDone
  /-- R102: a SUPERVISOR write of berth page word 0 with this kind and tag, and of the words after it. -/
  | connect (b : Berth) (tag : BitVec 16) (rest : List Word)
  /-- R105. -/
  | sync (b : Berth) (tag : BitVec 16) (rest : List Word)
  /-- R108. -/
  | gensOff (b : Berth) (tag : BitVec 16) (rest : List Word)
  /-- R109. -/
  | gensOn (b : Berth) (tag : BitVec 16) (rest : List Word)
  /-- R113. -/
  | abort (b : Berth) (tag : BitVec 16) (rest : List Word)
  /-- R114. -/
  | disconnect (b : Berth) (tag : BitVec 16) (rest : List Word)
  /-- R118. -/
  | clear (b : Berth) (tag : BitVec 16) (rest : List Word)
  /-- R99: a SUPERVISOR write of berth page words `first`, `first` + 1, … among 1 to 7. -/
  | requestShadowWrite (b : Berth) (first : Nat) (ws : List Word)
  /-- R163: a write of COMMIT with this mask, bit 0 (WINDOWS) named. -/
  | commitWindows (mask : Word)
  /-- R182: bit 1 (BERTHS) named. -/
  | commitBerths (mask : Word)
  /-- R3: bit 2 (POOL) named. -/
  | commitPool (mask : Word)
  /-- R149: bit 3 (JOURNAL) named. -/
  | commitJournal (mask : Word)
  /-- R36: bit 4 (PROTECTION) named. -/
  | commitProtection (mask : Word)
  /-- R129: bit 5 (METROLOGY) named. -/
  | commitMetrology (mask : Word)
  /-- R185: bit 6 (ATTENTION) named. -/
  | commitAttention (mask : Word)
  /-- R186. -/
  | heartbeat (v : Word)
  /-- R184. -/
  | eventAck (v : Word)
  /-- R183. -/
  | unlock (v : Word)
  /-- R150. -/
  | journalCmdStart
  /-- R150. -/
  | journalCmdStop
  /-- R155. -/
  | journalCmdReset
  /-- R156. -/
  | journalConsume (n : Word)
  /-- R126. -/
  | timeSetDay (d : Word)
  /-- R126. -/
  | timeSetSecond (v : Word)
  /-- R39: the module index field of MODULE_SERVICE. -/
  | clearLockout (idx : BitVec 4)
  /-- R40. -/
  | takeOut (idx : BitVec 4)
  /-- R40: the row RETURN. -/
  | returnModule (idx : BitVec 4)
  /-- R175: a SUPERVISOR write of station page words from word `first` on. -/
  | stationPageWrite (first : Nat) (ws : List Word)
  /-- R100: a SUPERVISOR write of berth page word 0 with a kind that is none of the seven. -/
  | unknownRequestKind (b : Berth) (kind : BitVec 8) (tag : BitVec 16) (rest : List Word)
  /-- R38: a MODULE_SERVICE write whose action code is none of the three. -/
  | unknownServiceAction (idx : BitVec 4) (action : BitVec 8)
  /-- R179: a write of COMMIT whose mask names none of the seven sections. -/
  | commitNamingNoSection (mask : Word)
  deriving DecidableEq, Repr

end Sys2Proof
end

