-- ==== Sys2Proof/WellFormed.lean ====
section
/-! DEFINITION. Which commands are commands of the part: the operands a row's rule allows. -/

namespace Sys2Proof

/-- 00 section 6.2, R161: a transfer is a word-aligned burst of 1 to 8 words. -/
def Transfer.wellFormed (t : Transfer) : Bool :=
  t.addr.toNat % 4 == 0 && 1 ≤ t.len && t.len ≤ 8

/-- R175: station page words with no behaviour of their own when written: the configuration words 0 to 215, word 252
and the words that are only ever read by substitution. -/
def plainStationWord (n : Nat) : Bool :=
  n < 216 || n == 217 || (222 ≤ n && n ≤ 226) || (230 ≤ n && n ≤ 252) || n == 254 || n == 255

/-- A berth page write of word 0 carries at most the seven words after it (R99). -/
def burstRest (rest : List Word) : Bool := rest.length ≤ 7

/-- The commands whose operands their rows allow. -/
def Instr.wellFormed : Instr → Bool
  | .transferAccept t => t.wellFormed
  | .measurementRecord _ k _ _ _ _ => 16 * k + 16 ≤ 1048576
  | .moduleStatusRecord _ ws => ws.length == 8
  | .connect _ _ rest => burstRest rest
  | .sync _ _ rest => burstRest rest
  | .gensOff _ _ rest => burstRest rest
  | .gensOn _ _ rest => burstRest rest
  | .abort _ _ rest => burstRest rest
  | .disconnect _ _ rest => burstRest rest
  | .clear _ _ rest => burstRest rest
  | .unknownRequestKind _ kind _ rest => burstRest rest && (kind.toNat == 0 || 8 ≤ kind.toNat)
  | .requestShadowWrite _ first ws => 1 ≤ first && 1 ≤ ws.length && first + ws.length ≤ 8
  | .commitWindows mask => mask.getLsbD 0
  | .commitBerths mask => mask.getLsbD 1
  | .commitPool mask => mask.getLsbD 2
  | .commitJournal mask => mask.getLsbD 3
  | .commitProtection mask => mask.getLsbD 4
  | .commitMetrology mask => mask.getLsbD 5
  | .commitAttention mask => mask.getLsbD 6
  | .commitNamingNoSection mask => mask &&& 0x7F == 0
  | .stationPageWrite first ws =>
      1 ≤ ws.length && ws.length ≤ 8 && (List.range ws.length).all fun i => plainStationWord (first + i)
  | .unknownServiceAction _ action => action.toNat == 0 || 4 ≤ action.toNat
  | .powerOnReset _ _ _ | .lineReset | .lineResetRelease | .tripHoldEnd => true
  | .breakerViewRise _ | .breakerViewFall _ | .refusedRecordRead _ | .memoryFaceDone => true
  | .moduleStatusStale _ | .retryWaitExpiry _ | .retryWindowExpiry _ | .blankingExpiry _ => true
  | .claimTimerExpiry _ | .slotStalenessExpiry _ _ | .bridgeTimerExpiry _ => true
  | .glideNearTarget _ | .glideTargetReached _ => true
  | .energiseRampComplete _ | .energiseTimerExpiry _ | .deEnergisingComplete _ => true
  | .setpointKwStep _ | .rampEnd _ | .syncTimerExpiry _ | .parallelTimerExpiry _ => true
  | .overloadTimerExpiry _ | .reversePowerTimerExpiry _ => true
  | .closeDueExpiry _ | .closePulseExpiry _ | .tripPulseExpiry _ => true
  | .closeConfirmExpiry _ | .openConfirmExpiry _ | .deadTimeExpiry _ => true
  | .stationTick | .unlockTimerExpiry | .heartbeatTimerExpiry | .coalescingTimerExpiry => true
  | .journalWriteStart | .journalClaimDone => true
  | .heartbeat _ | .eventAck _ | .unlock _ | .journalCmdStart | .journalCmdStop | .journalCmdReset => true
  | .journalConsume _ | .timeSetDay _ | .timeSetSecond _ => true
  | .clearLockout _ | .takeOut _ | .returnModule _ => true

end Sys2Proof
end

