-- ==== Sys2Proof/Machine/State.lean ====
section
/-! DEFINITION. The state of the KB3080 as plain data: every record, timer, queue and mark the spec names, block by
block, and its value after power-on reset. -/

namespace Sys2Proof.Machine

/-! ## Containers for a fixed number of like things -/

/-- One value for each berth. -/
structure PerBerth (α : Type) where
  b0 : α
  b1 : α
  b2 : α
  deriving DecidableEq, Repr

/-- The value of a berth. -/
def PerBerth.get {α : Type} (p : PerBerth α) : Berth → α
  | .b0 => p.b0
  | .b1 => p.b1
  | .b2 => p.b2

/-- Replace the value of a berth. -/
def PerBerth.set {α : Type} (p : PerBerth α) (b : Berth) (v : α) : PerBerth α :=
  match b with
  | .b0 => { p with b0 := v }
  | .b1 => { p with b1 := v }
  | .b2 => { p with b2 := v }

/-- The same value for each berth. -/
def PerBerth.all {α : Type} (v : α) : PerBerth α := ⟨v, v, v⟩

/-- Apply a function to each berth's value. -/
def PerBerth.map {α β : Type} (p : PerBerth α) (f : α → β) : PerBerth β := ⟨f p.b0, f p.b1, f p.b2⟩

/-- One value for each module. -/
structure PerModule (α : Type) where
  m0 : α
  m1 : α
  m2 : α
  m3 : α
  m4 : α
  m5 : α
  m6 : α
  m7 : α
  deriving DecidableEq, Repr

/-- The value of a module. -/
def PerModule.get {α : Type} (p : PerModule α) : ModuleId → α
  | .m0 => p.m0
  | .m1 => p.m1
  | .m2 => p.m2
  | .m3 => p.m3
  | .m4 => p.m4
  | .m5 => p.m5
  | .m6 => p.m6
  | .m7 => p.m7

/-- Replace the value of a module. -/
def PerModule.set {α : Type} (p : PerModule α) (m : ModuleId) (v : α) : PerModule α :=
  match m with
  | .m0 => { p with m0 := v }
  | .m1 => { p with m1 := v }
  | .m2 => { p with m2 := v }
  | .m3 => { p with m3 := v }
  | .m4 => { p with m4 := v }
  | .m5 => { p with m5 := v }
  | .m6 => { p with m6 := v }
  | .m7 => { p with m7 := v }

/-- The same value for each module. -/
def PerModule.all {α : Type} (v : α) : PerModule α := ⟨v, v, v, v, v, v, v, v⟩

/-- Apply a function to each module's value. -/
def PerModule.map {α β : Type} (p : PerModule α) (f : α → β) : PerModule β :=
  ⟨f p.m0, f p.m1, f p.m2, f p.m3, f p.m4, f p.m5, f p.m6, f p.m7⟩

/-- One value for each tag. -/
structure PerTag (α : Type) where
  supervisor : α
  meter : α
  link : α
  unknown : α
  deriving DecidableEq, Repr

/-- The value of a tag. -/
def PerTag.get {α : Type} (p : PerTag α) : Tag → α
  | .supervisor => p.supervisor
  | .meter => p.meter
  | .link => p.link
  | .unknown => p.unknown

/-- Replace the value of a tag. -/
def PerTag.set {α : Type} (p : PerTag α) (t : Tag) (v : α) : PerTag α :=
  match t with
  | .supervisor => { p with supervisor := v }
  | .meter => { p with meter := v }
  | .link => { p with link := v }
  | .unknown => { p with unknown := v }

/-- The same value for each tag. -/
def PerTag.all {α : Type} (v : α) : PerTag α := ⟨v, v, v, v⟩

/-- One value for each of the four tariff bands. -/
structure PerBand (α : Type) where
  band0 : α
  band1 : α
  band2 : α
  band3 : α
  deriving DecidableEq, Repr

/-- Combine two sets of band values, band by band. -/
def PerBand.zip {α β γ : Type} (f : α → β → γ) (p : PerBand α) (q : PerBand β) : PerBand γ :=
  ⟨f p.band0 q.band0, f p.band1 q.band1, f p.band2 q.band2, f p.band3 q.band3⟩

/-- Apply a function to each band's value. -/
def PerBand.map {α β : Type} (p : PerBand α) (f : α → β) : PerBand β :=
  ⟨f p.band0, f p.band1, f p.band2, f p.band3⟩

/-- The value of a band number (0 to 3). -/
def PerBand.get {α : Type} (p : PerBand α) : Nat → α
  | 0 => p.band0
  | 1 => p.band1
  | 2 => p.band2
  | _ => p.band3

/-- Change the value of a band number (0 to 3). -/
def PerBand.upd {α : Type} (p : PerBand α) (n : Nat) (f : α → α) : PerBand α :=
  match n with
  | 0 => { p with band0 := f p.band0 }
  | 1 => { p with band1 := f p.band1 }
  | 2 => { p with band2 := f p.band2 }
  | _ => { p with band3 := f p.band3 }

/-! ## Time -/

/-- A timer (00, section 6.3): stopped, or running with the microseconds left, or held with them (R117). A running
timer with none left has elapsed and expires at this instant. -/
inductive Timer
  | stopped
  | running (left : Nat)
  | held (left : Nat)
  deriving DecidableEq, Repr

/-- The station time (R2): day number and second of day. -/
structure StationTime where
  day : Word
  second : Nat
  deriving DecidableEq, Repr

/-! ## Module Pool Controller (01, 02) -/

/-- R3: the run state of an ASSIGNED module. -/
inductive RunState | joining | running | retryWaitFast | retryWaitSlow | blockedByBerth
  deriving DecidableEq, Repr

/-- R3, R4: a module's pool state; its berth and run state are present exactly when it is ASSIGNED. -/
inductive Standing
  | available
  | assigned (b : Berth) (r : RunState)
  | lockedOut
  | outOfService
  deriving DecidableEq, Repr

/-- R19: the commanded mode. -/
inductive CmdMode | off | blocked | form | follow
  deriving DecidableEq, Repr

/-- The module state of a status record (11.2). -/
inductive ModuleState | ready | running | fault
  deriving DecidableEq, Repr

/-- One value for each of the four fault flags of a status record (R27). -/
structure PerFlag (α : Type) where
  overcurrent : α
  overtemp : α
  dcLink : α
  gate : α
  deriving DecidableEq, Repr

/-- R3: the content of the last accepted status record. -/
structure StatusReport where
  state : ModuleState
  flags : PerFlag Bool
  current : Word
  power : Word
  temperature : Word
  seq : BitVec 16
  deriving DecidableEq, Repr

/-- R3, R27: the record of one module. -/
structure Module where
  present : Bool
  rating : Nat
  standing : Standing
  returning : Bool
  mode : CmdMode
  share : Int
  deglitch : PerFlag Nat
  blankExpiry : Option Word
  retryWait : Timer
  fastCount : Nat
  slowCount : Nat
  retryWindow : Timer
  latest : Option StatusReport
  staleTimer : Timer
  stale : Bool
  fit : Bool
  badCount : Nat
  deriving DecidableEq, Repr

/-- R25, R41: a module after power-on reset. -/
def Module.reset : Module :=
  { present := false, rating := 0, standing := .available, returning := false, mode := .off, share := 0
    deglitch := ⟨0, 0, 0, 0⟩, blankExpiry := none, retryWait := .stopped, fastCount := 0, slowCount := 0
    retryWindow := .stopped, latest := none, staleTimer := .stopped, stale := false, fit := false, badCount := 0 }

/-- R9: a claim, with its claim timer (R11). -/
structure Claim where
  berth : Berth
  demand : Nat
  reserve : Nat
  timer : Timer
  deriving DecidableEq, Repr

/-- R27, R97, R186: the PROTECTION parameters in force. -/
structure Protection where
  deglitch : Nat
  blankingMs : Nat
  fastDelayMs : Nat
  fastCount : Nat
  slowDelayS : Nat
  slowCount : Nat
  heartbeatMs : Nat
  overloadMs : Nat
  reverseKw : Nat
  deriving DecidableEq, Repr

/-- R27, R97: the defaults. The spec gives the heartbeat period none: DESIGN CHOICE 0 (log 31); it is not used before
a PROTECTION commit (R186). -/
def Protection.default : Protection :=
  { deglitch := 2, blankingMs := 100, fastDelayMs := 1000, fastCount := 2, slowDelayS := 60, slowCount := 1
    heartbeatMs := 0, overloadMs := 2000, reverseKw := 300 }

/-- R38: the outcomes of a service request. -/
inductive ServiceOutcome | none | done | refusedState | refusedAssigned | badRequest
  deriving DecidableEq, Repr

/-- R38: the MODULE_SERVICE result word. -/
structure ServiceResult where
  idx : BitVec 4
  action : BitVec 8
  outcome : ServiceOutcome
  count : BitVec 8
  deriving DecidableEq, Repr

/-! ## Berth parameters (03 R43, 04 R58, 05 R75, 06 R97, 01 R11) -/

/-- One berth parameter set, in the order and units of 11.3. -/
structure BerthParams where
  configured : Bool
  voltMax : Nat
  slipTarget : Nat
  slipTolerance : Nat
  angleMax : Nat
  closeTimeMs : Nat
  deadTimeS : Nat
  rampRate : Nat
  releaseKw : Nat
  parallelS : Nat
  syncTimeoutS : Nat
  energiseRampS : Nat
  slew : Nat
  islandSlew : Nat
  stalenessMs : Nat
  claimTimeoutMin : Nat
  deriving DecidableEq, Repr

/-- The default set (R182: its configured flag is clear). -/
def BerthParams.default : BerthParams :=
  { configured := false, voltMax := 3, slipTarget := 80, slipTolerance := 50, angleMax := 10, closeTimeMs := 60
    deadTimeS := 5, rampRate := 500, releaseKw := 200, parallelS := 180, syncTimeoutS := 60, energiseRampS := 5
    slew := 200, islandSlew := 50, stalenessMs := 200, claimTimeoutMin := 0 }

/-! ## Berth Reference Oscillator (03) -/

/-- R43: the modes; HOLD is an effective mode only. -/
inductive OscMode | nominal | trackSlip | trackLock | island | hold
  deriving DecidableEq, Repr

/-- R43: a berth reference oscillator. `freq` and `target` are in millionths of a mHz, `phase` in quanta (log 10);
`gliding` says whether f is moving (log 30). -/
structure Osc where
  running : Bool
  freq : Nat
  phase : Nat
  requested : OscMode
  effective : OscMode
  beforeHold : Option OscMode
  target : Nat
  lock : Bool
  lastError : Option Int
  gliding : Bool
  deriving DecidableEq, Repr

/-- R44: the stopped values. -/
def Osc.stopped : Osc :=
  { running := false, freq := 0, phase := 0, requested := .nominal, effective := .nominal, beforeHold := none
    target := 0, lock := false, lastError := none, gliding := false }

/-! ## Measurement Intake (04) -/

/-- R58: freshness of a kind slot. -/
inductive Freshness | noData | fresh | stale
  deriving DecidableEq, Repr

/-- R59: the payload of a phasor, with its timestamp. -/
structure Phasor where
  freq : Nat
  volt : Nat
  phase : Nat
  stamp : Word
  deriving DecidableEq, Repr

/-- R59: the payload of a feeder record whose values were taken. -/
structure Feeder where
  power : Int
  epoch : BitVec 8
  register : Word
  stamp : Word
  deriving DecidableEq, Repr

/-- R58: a kind slot. -/
structure Slot (α : Type) where
  fresh : Freshness
  latest : Option α
  timer : Timer
  deriving DecidableEq, Repr

/-- R66: a slot with no data. -/
def Slot.empty {α : Type} : Slot α := { fresh := .noData, latest := none, timer := .stopped }

/-- R58: the counters of a berth's stream. -/
structure Counters where
  badRecord : Nat
  timeBad : Nat
  outOfOrder : Nat
  implausible : Nat
  meterStatus : Nat
  gap : Nat
  deriving DecidableEq, Repr

/-- R58: the last meter register reading taken. -/
structure RegisterBase where
  value : Word
  epoch : BitVec 8
  deriving DecidableEq, Repr

/-- R58: one berth's stream, slots and register record. -/
structure Meas where
  baselineSet : Bool
  expected : BitVec 8
  counters : Counters
  ship : Slot Phasor
  shore : Slot Phasor
  feeder : Slot Feeder
  base : Option RegisterBase
  bridge : Timer
  staleBetween : Bool
  deriving DecidableEq, Repr

/-- R74. -/
def Meas.reset : Meas :=
  { baselineSet := false, expected := 0, counters := ⟨0, 0, 0, 0, 0, 0⟩, ship := Slot.empty, shore := Slot.empty
    feeder := Slot.empty, base := none, bridge := .stopped, staleBetween := false }

/-! ## Synchronising Unit (05) -/

/-- R75: the outcome of the latest window evaluation; the voltage difference and the slip are absent where none could be
computed (log 52). -/
structure WindowResult where
  holds : Bool
  c1 : Bool
  c2 : Bool
  c3 : Bool
  c4 : Bool
  c5 : Bool
  voltDiff : Option Int
  slip : Option Int
  deriving DecidableEq, Repr

/-- R75: the close prediction. -/
structure Prediction where
  coincidence : Word
  due : Word
  deriving DecidableEq, Repr

/-- R75, R86: the result of the latest confirmed close; the angle is absent when unknown. -/
structure LastClose where
  angle : Option Int
  timeUs : Nat
  rough : Bool
  deriving DecidableEq, Repr

/-- R75, R76: a Synchronising Unit with its BRK_CLOSED input. `level` is the input as it stands, `heldUs` the
microseconds for which it has differed from the view without interruption (log 8). `pulseStart` is the instant the latest
close pulse began, from which R86 measures. -/
structure Sync where
  level : Bool
  heldUs : Nat
  view : Bool
  prev : Option Phasor
  residual : Option Nat
  window : WindowResult
  prediction : Option Prediction
  closeDue : Timer
  closeUsed : Bool
  closePulse : Timer
  tripPulse : Timer
  closeConfirm : Timer
  openConfirm : Timer
  secondTrip : Bool
  deadTime : Timer
  lastClose : Option LastClose
  closeCount : BitVec 16
  pulseStart : Word
  deriving DecidableEq, Repr

/-- R95: window result fails with no condition met. The spec gives no voltage difference and no slip after reset: the model
holds them absent, which reads 0 (DESIGN CHOICE, log 52). -/
def WindowResult.none : WindowResult :=
  { holds := false, c1 := false, c2 := false, c3 := false, c4 := false, c5 := false
    voltDiff := Option.none, slip := Option.none }

/-- R95, with the breaker view taken from the level of BRK_CLOSED and the given dead-time timer. -/
def Sync.reset (closed : Bool) (dead : Timer) : Sync :=
  { level := closed, heldUs := 0, view := closed, prev := none, residual := none, window := WindowResult.none, prediction := none
    closeDue := .stopped, closeUsed := false, closePulse := .stopped, tripPulse := .stopped, closeConfirm := .stopped
    openConfirm := .stopped, secondTrip := false, deadTime := dead, lastClose := none, closeCount := 0
    pulseStart := 0 }

/-- R75: the watch states; the state follows the berth's and is computed (log 30). -/
inductive WatchState | notWatching | watching | armed | closeWait | closedWatch | openWait
  deriving DecidableEq, Repr

/-! ## Handover Sequencer (06) -/

/-- R98: the thirteen states. -/
inductive BerthState
  | idle | waitingModules | energising | energised | matching | armed | closing
  | parallelIn | shoreOnly | parallelOut | opening | deEnergising | tripped
  deriving DecidableEq, Repr

/-- R97: the ship profile. -/
structure ShipProfile where
  shipCode : Word
  callNumber : BitVec 16
  nominalFreq : Nat
  nominalVolt : Nat
  demand : Nat
  reserve : Nat
  deriving DecidableEq, Repr

/-- R100: the seven requests. -/
inductive RequestKind | connect | sync | gensOff | gensOn | abort | disconnect | clear
  deriving DecidableEq, Repr

/-- R97: the request in progress. -/
structure Request where
  kind : RequestKind
  tag : BitVec 16
  deriving DecidableEq, Repr

/-- R101: outcomes of a request, and NONE before the first. -/
inductive ReqOutcome
  | none | done | failed | timeout | aborted
  | refusedState | refusedParam | refusedBusy | refusedLost | refusedTimeUnset | refusedBacklog
  deriving DecidableEq, Repr

/-- R101: the causes a result may carry. -/
inductive Cause
  | claimTimeout | syncTimeout | energiseFailed | closeFailed | openFailed | uncommandedClose | overload
  | externalOpen | abort | lost | loadReturned | handoverTimeout | reversePower
  deriving DecidableEq, Repr

/-- R97: causes of TRIPPED. -/
inductive TripCause | energiseFailed | overload | openFailed | uncommandedClose
  deriving DecidableEq, Repr

/-- R97: causes of a controlled open. -/
inductive OpenCause | loadReturned | handoverTimeout | overload | reversePower
  deriving DecidableEq, Repr

/-- R101: the last result. `kind` is the request kind's code as word 0 carried it, 0 before the first (log 24). -/
structure LastResult where
  kind : BitVec 8
  tag : BitVec 16
  outcome : ReqOutcome
  cause : Option Cause
  overtaken : Option (BitVec 16)
  deriving DecidableEq, Repr

/-- R97: the ramp direction. -/
inductive Direction | level | rising | falling
  deriving DecidableEq, Repr

/-- R97, R103, R114: where the voltage setpoint stands: 0, rising from 0 for so many microseconds, at nominal, or
falling from nominal for so many microseconds. -/
inductive VoltRamp
  | zero
  | rising (us : Nat)
  | nominal
  | falling (us : Nat)
  deriving DecidableEq, Repr

/-- R97: the berth context. `setpoint` is in mW (log 11), `target` in kW; `sharedKw` is the whole-kW setpoint that the
shares were last computed from (R17). The pending parameter set flag is whether `State.pendingParams` holds a set. -/
structure Seq where
  state : BerthState
  entry : Word
  profile : Option ShipProfile
  shadow : List Word
  current : Option Request
  last : LastResult
  count : BitVec 16
  tripCause : Option TripCause
  openCause : Option OpenCause
  setpoint : Nat
  target : Nat
  dir : Direction
  staleHold : Bool
  lostHold : Bool
  volt : VoltRamp
  energise : Timer
  syncT : Timer
  parallel : Timer
  overload : Timer
  reverse : Timer
  firstEnergised : Bool
  sharedKw : Nat
  deriving DecidableEq, Repr

/-- R123, with the state entry instant of the release of the reset. -/
def Seq.reset (entry : Word) : Seq :=
  { state := .idle, entry := entry, profile := none, shadow := List.replicate 7 0, current := none
    last := { kind := 0, tag := 0, outcome := .none, cause := none, overtaken := none }, count := 0
    tripCause := none, openCause := none, setpoint := 0, target := 0, dir := .level, staleHold := false
    lostHold := false, volt := .zero, energise := .stopped, syncT := .stopped, parallel := .stopped
    overload := .stopped, reverse := .stopped, firstEnergised := false, sharedKw := 0 }

/-! ## Tariff Clock and Billing Sessions (07) -/

/-- R127: an entry of a tariff schedule. -/
structure TariffEntry where
  start : Nat
  band : Nat
  deriving DecidableEq, Repr

/-- R124: a metrology set; the demand interval in minutes, the bridge limit in seconds. -/
structure Metrology where
  schedule : List TariffEntry
  intervalMin : Nat
  bridgeS : Nat
  deriving DecidableEq, Repr

/-- R140: the default set. -/
def Metrology.default : Metrology := { schedule := [⟨0, 0⟩], intervalMin := 15, bridgeS := 60 }

/-- R124: the Tariff Clock. -/
structure Clock where
  time : StationTime
  tickInstant : Word
  timeUnset : Bool
  stagedDay : Option Word
  inForce : Metrology
  pending : Option Metrology
  nextBoundary : StationTime
  deriving DecidableEq, Repr

/-- R140. -/
def Clock.reset : Clock :=
  { time := ⟨0, 0⟩, tickInstant := 0, timeUnset := true, stagedDay := none, inForce := Metrology.default
    pending := none, nextBoundary := ⟨0, 900⟩ }

/-- R131: energies in Wh, of an accumulator or of a session's closed intervals. -/
structure Energies where
  bands : PerBand (BitVec 64)
  bridged : BitVec 64
  unattributed : BitVec 64
  deriving DecidableEq, Repr

/-- No energy. -/
def Energies.zero : Energies := ⟨⟨0, 0, 0, 0⟩, 0, 0⟩

/-- R131: the open-interval accumulator. -/
structure Accumulator where
  start : StationTime
  energy : Energies
  gap : Bool
  timeStep : Bool
  metrology : Bool
  deriving DecidableEq, Repr

/-- R131: an open session. -/
structure Session where
  number : BitVec 16
  shipCode : Word
  callNumber : BitVec 16
  demand : Nat
  opened : StationTime
  totals : Energies
  peak : Nat
  intervals : BitVec 16
  interruptions : Nat
  parallels : Nat
  gaps : Nat
  trips : Nat
  acc : Accumulator
  deriving DecidableEq, Repr

/-! ## Journal Writer (08) -/

/-- R144: the event codes. -/
inductive EventCode
  | connected | paralleled | shoreOnly | returned | externalOpen | tripped | released | roughClose | moduleLockout
  | supervisorLost | supervisorRestored | timeStep | meterRestart | resetRecovered
  deriving DecidableEq, Repr

/-- R131: the interval flags. -/
structure IntervalFlags where
  partialInterval : Bool
  timeStep : Bool
  gap : Bool
  merged : Bool
  metrology : Bool
  deriving DecidableEq, Repr

/-- R136: the content of an INTERVAL, its energies and demand as the record's words (11.6). -/
structure IntervalBody where
  flags : IntervalFlags
  start : StationTime
  stop : StationTime
  bands : PerBand Word
  bridged : Word
  unattributed : Word
  demand : Word
  deriving DecidableEq, Repr

/-- R144: what a record carries, by kind: the payload words of 11.6, an INTERVAL's content, or an EVENT's code,
qualifier and words from w5 on. -/
inductive Body
  | sessionOpen (ws : List Word)
  | interval (body : IntervalBody)
  | sessionClose (ws : List Word)
  | configChange (ws : List Word)
  | event (code : EventCode) (qualifier : Nat) (ws : List Word)
  deriving DecidableEq, Repr

/-- R144: a journal record before the start of its write; no berth means the station. -/
structure Record where
  berth : Option Berth
  session : BitVec 16
  time : StationTime
  body : Body
  deriving DecidableEq, Repr

/-- R152: the record being written: its sixteen words, what its completion brings into force, the number of its
present claim (1 to 3), and whether that claim has been granted. -/
structure Writing where
  words : List Word
  chain : Word
  lostTaken : Nat
  claim : Nat
  granted : Bool
  deriving DecidableEq, Repr

/-- R150. -/
inductive Channel | initial | started | stopPending | stopped
  deriving DecidableEq, Repr

/-- R157. -/
inductive Coalescing | waitingFirst | running | signalled
  deriving DecidableEq, Repr

/-- R149: ring length and write-back byte address, from the JOURNAL section. -/
structure Ring where
  length : Nat
  writeBack : Nat
  deriving DecidableEq, Repr

/-- The Journal Writer (R145 to R157). -/
structure Journal where
  queue : List Record
  writing : Option Writing
  channel : Channel
  ring : Option Ring
  produce : Nat
  consume : Nat
  nextSeq : Word
  chain : Word
  lost : Nat
  refusals : Nat
  coalescing : Coalescing
  coalTimer : Timer
  threshold : Nat
  coalTimeMs : Nat
  deriving DecidableEq, Repr

/-- R159. -/
def Journal.reset : Journal :=
  { queue := [], writing := none, channel := .initial, ring := none, produce := 0, consume := 0, nextSeq := 0
    chain := 0, lost := 0, refusals := 0, coalescing := .waitingFirst, coalTimer := .stopped, threshold := 8
    coalTimeMs := 500 }

/-! ## Window Unit (09) -/

/-- R163: the kinds of a window entry. -/
inductive WindowKind | none | measure | berthPage | moduleCmd | moduleStat | journal
  deriving DecidableEq, Repr

/-- R163: an entry of the window table. -/
structure WindowEntry where
  base : Nat
  size : Nat
  kind : WindowKind
  berth : Nat
  deriving DecidableEq, Repr

/-- R174: an entry after reset. -/
def WindowEntry.none : WindowEntry := { base := 0, size := 0, kind := .none, berth := 0 }

/-- R165, R171: why a transfer was refused, and NONE. -/
inductive RefuseCause | none | badTag | span | denied | badShape
  deriving DecidableEq, Repr

/-- R171: a refused-transfer record. -/
structure RefusedRecord where
  count : Nat
  cause : RefuseCause
  deriving DecidableEq, Repr

/-- R161: the response to a transfer, with the words a read returns. -/
inductive Response
  | done (words : List Word)
  | refused
  deriving DecidableEq, Repr

/-- R172: what waits in the pass list. A read's memory-face transfer has one word for each entry of `fill`: the word
substituted at acceptance, or none where memory's word is to be returned. Its first and last words are memory words;
`before` and `after` are the substituted words of the burst outside that span (R167). -/
inductive PassLoad
  | read (before : List Word) (fill : List (Option Word)) (after : List Word)
  | write (data : List Word)
  deriving DecidableEq, Repr

/-- R172: a transfer of the pass list; its memory-face transfer starts at byte address `addr`. -/
structure PassItem where
  tag : Tag
  addr : Nat
  load : PassLoad
  deriving DecidableEq, Repr

/-- R173: what the memory face carries. A journal claim carries its words to a byte address; `live` is cleared when
the record's write is abandoned while the face carries it (R155). -/
inductive FaceLoad
  | pass (item : PassItem)
  | journal (addr : Nat) (words : List Word) (live : Bool)
  deriving DecidableEq, Repr

/-- The Window Unit, and plant memory behind the memory face as (word number, word) pairs (log 4). -/
structure Bus where
  table : List WindowEntry
  firstCommit : Bool
  refused : PerTag RefusedRecord
  passList : List PassItem
  face : Option FaceLoad
  passCount : Nat
  resp : PerTag (Option Response)
  mem : List (Nat × Word)
  deriving DecidableEq, Repr

/-- R174; that the memory face carries nothing is the model's (DESIGN CHOICE, log 31), and so are the responses. -/
def Bus.reset : Bus :=
  { table := List.replicate 12 WindowEntry.none, firstCommit := false, refused := PerTag.all ⟨0, .none⟩
    passList := [], face := none, passCount := 0, resp := PerTag.all none, mem := [] }

/-! ## Station Page Controller (10) -/

/-- 10.1: the seven sections. -/
inductive Section | windows | berths | pool | journal | protection | metrology | attention
  deriving DecidableEq, Repr

/-- R177: outcomes of a commit, and NONE. -/
inductive CommitOutcome | none | accepted | badCrc | badRange | badState | locked | noJournalRoom
  deriving DecidableEq, Repr

/-- R187: the COMMIT_RESULT word but for the unlock state and the sections accepted. -/
structure CommitResult where
  outcome : CommitOutcome
  mask : Word
  sect : Option Section
  index : Nat
  count : BitVec 8
  deriving DecidableEq, Repr

/-- R183: the unlock state, with the unlock value of FIRST_TAKEN. In CLOSED and OPEN, and so at reset, no value is held: the
spec gives the field none there, and nothing reads it (DESIGN CHOICE, log 31). -/
inductive Unlock
  | closed
  | firstTaken (value : Word)
  | opened
  deriving DecidableEq, Repr

/-- R186: supervisor presence. -/
inductive Presence | inactive | awaiting | present | lost
  deriving DecidableEq, Repr

/-- 00 section 7: the cause of the latest reset. -/
inductive ResetCause | powerOn | line
  deriving DecidableEq, Repr

/-- The Station Page Controller (R175, R183 to R187). `lostUs` is the time for which the station has been lost. -/
structure Page where
  shadow : List Word
  shadowCrc : Word
  result : CommitResult
  accepted : BitVec 7
  unlock : Unlock
  unlockTimer : Timer
  summary : BitVec 16
  enable : BitVec 16
  presence : Presence
  hbTimer : Timer
  lastHeartbeat : Word
  lostUs : Nat
  cause : ResetCause
  deriving DecidableEq, Repr

/-- R188, with the reset cause. -/
def Page.reset (cause : ResetCause) : Page :=
  { shadow := List.replicate 216 0, shadowCrc := 0
    result := { outcome := .none, mask := 0, sect := none, index := 0, count := 0 }, accepted := 0
    unlock := .closed, unlockTimer := .stopped, summary := 0, enable := 0xFFFF, presence := .inactive
    hbTimer := .stopped, lastHeartbeat := 0, lostUs := 0, cause := cause }

/-! ## The machine -/

/-- The state of the block, and the queue of commands that wait, first in first out. -/
structure State where
  now : Word
  tbPhase : Nat
  tbValue : Option Word
  resetLow : Bool
  tripHold : Timer
  mods : PerModule Module
  claims : List Claim
  prot : Protection
  service : ServiceResult
  params : PerBerth BerthParams
  pendingParams : PerBerth (Option BerthParams)
  osc : PerBerth Osc
  meas : PerBerth Meas
  sync : PerBerth Sync
  seq : PerBerth Seq
  clock : Clock
  sessions : PerBerth (Option Session)
  sessionCounter : BitVec 16
  carried : Option StationTime
  jour : Journal
  bus : Bus
  page : Page
  pending : List Instr
  deriving DecidableEq, Repr

/-- R41: the MODULE_SERVICE result word after reset. -/
def ServiceResult.reset : ServiceResult := { idx := 0, action := 0, outcome := .none, count := 0 }

/-- The machine right after power-on reset (R25, R41, R57, R74, R95, R123, R140, R159, R174, R188, R192), its breakers
open (DESIGN CHOICE, log 9): the dead-time timers start at the release with the default 5 s (R95). -/
def State.reset : State :=
  { now := 0, tbPhase := 0, tbValue := none, resetLow := false, tripHold := .stopped
    mods := PerModule.all Module.reset, claims := [], prot := Protection.default, service := ServiceResult.reset
    params := PerBerth.all BerthParams.default, pendingParams := PerBerth.all none
    osc := PerBerth.all Osc.stopped, meas := PerBerth.all Meas.reset
    sync := PerBerth.all (Sync.reset false (.running 5000000)), seq := PerBerth.all (Seq.reset 0)
    clock := Clock.reset, sessions := PerBerth.all none, sessionCounter := 0, carried := none
    jour := Journal.reset, bus := Bus.reset, page := Page.reset .powerOn, pending := [] }

/-! ## How a step stops -/

/-- The part has no fault that stops it (log 7): no command faults, so this type has no constructor. -/
inductive Fault
  deriving DecidableEq, Repr

/-- Why a command has no meaning here. -/
inductive Refusal
  /-- Raised by an arm of `exec` for a command without a meaning yet; safe, since nothing can be proved of it. -/
  | notModelled (mnemonic : String)
  /-- Raised by `acceptTransfer` for operands that no burst of the master face can have: an address that is not
  word-aligned, or a length outside 1 to 8 (R161, log 7); safe, since the part is never given such a transfer. -/
  | illFormed
  deriving DecidableEq, Repr

/-- What a command's meaning answers. -/
abbrev Result := Host.Outcome State Fault Refusal

end Sys2Proof.Machine
end

