-- ==== Sys2Proof/Machine/Operands.lean ====
section
/-! DEFINITION. How the chip reads and fills words (11): bit fields, codes, and the records and requests that a
master's words spell. -/

namespace Sys2Proof

/-- All berths in the order B0, B1, B2. -/
def Berth.list : List Berth := [.b0, .b1, .b2]

/-- The berth's number. -/
def Berth.num : Berth → Nat
  | .b0 => 0
  | .b1 => 1
  | .b2 => 2

/-- The berth of a number. -/
def Berth.ofNat? : Nat → Option Berth
  | 0 => some .b0
  | 1 => some .b1
  | 2 => some .b2
  | _ => none

/-- All modules in ascending index. -/
def ModuleId.list : List ModuleId := [.m0, .m1, .m2, .m3, .m4, .m5, .m6, .m7]

/-- The module's index. -/
def ModuleId.num : ModuleId → Nat
  | .m0 => 0
  | .m1 => 1
  | .m2 => 2
  | .m3 => 3
  | .m4 => 4
  | .m5 => 5
  | .m6 => 6
  | .m7 => 7

/-- The module of an index. -/
def ModuleId.ofNat? : Nat → Option ModuleId
  | 0 => some .m0
  | 1 => some .m1
  | 2 => some .m2
  | 3 => some .m3
  | 4 => some .m4
  | 5 => some .m5
  | 6 => some .m6
  | 7 => some .m7
  | _ => none

/-- The tag's number. -/
def Tag.num : Tag → Nat
  | .supervisor => 0
  | .meter => 1
  | .link => 2
  | .unknown => 3

namespace Machine

/-! ## Bit fields (11) -/

/-- The field of a word that starts at bit `lo` and is `len` bits wide. -/
def field (w : Word) (lo len : Nat) : Nat := (w.extractLsb' lo len).toNat

/-- A value placed in a word at bit `lo`, its low `len` bits kept (R191; log 29). -/
def put (lo len v : Nat) : Word := BitVec.ofNat 32 ((v % 2 ^ len) <<< lo)

/-- A signed value placed in a word at bit `lo` in two's complement, `len` bits wide. -/
def putInt (lo len : Nat) (v : Int) : Word := put lo len (v % (2 ^ len : Int)).toNat

/-- A flag placed in a word. -/
def putBit (lo : Nat) (v : Bool) : Word := if v then BitVec.ofNat 32 (1 <<< lo) else 0

/-- A word with several fields placed. -/
def fields (ws : List Word) : Word := ws.foldl (· ||| ·) 0

/-- Word `n` of a list of words; 0 past its end. -/
def wordAt (ws : List Word) (n : Nat) : Word := ws.getD n 0

/-- The sum of the 16-bit halves of a record, modulo 2^16 (00, section 6.2). -/
def checkSum (ws : List Word) : Nat :=
  (ws.foldl (fun a w => a + field w 0 16 + field w 16 16) 0) % 65536

/-! ## Codes (11.2) -/

def BerthState.code : BerthState → Nat
  | .idle => 0
  | .waitingModules => 1
  | .energising => 2
  | .energised => 3
  | .matching => 4
  | .armed => 5
  | .closing => 6
  | .parallelIn => 7
  | .shoreOnly => 8
  | .parallelOut => 9
  | .opening => 10
  | .deEnergising => 11
  | .tripped => 12

def RequestKind.code : RequestKind → Nat
  | .connect => 1
  | .sync => 2
  | .gensOff => 3
  | .gensOn => 4
  | .abort => 5
  | .disconnect => 6
  | .clear => 7

/-- R100 check 1: the request kinds by code; every other code names none. -/
def RequestKind.ofCode? : Nat → Option RequestKind
  | 1 => some .connect
  | 2 => some .sync
  | 3 => some .gensOff
  | 4 => some .gensOn
  | 5 => some .abort
  | 6 => some .disconnect
  | 7 => some .clear
  | _ => none

def ReqOutcome.code : ReqOutcome → Nat
  | .none => 0
  | .done => 1
  | .failed => 2
  | .timeout => 3
  | .aborted => 4
  | .refusedState => 5
  | .refusedParam => 6
  | .refusedBusy => 7
  | .refusedLost => 8
  | .refusedTimeUnset => 9
  | .refusedBacklog => 10

def Cause.code : Cause → Nat
  | .claimTimeout => 1
  | .syncTimeout => 2
  | .energiseFailed => 3
  | .closeFailed => 4
  | .openFailed => 5
  | .uncommandedClose => 6
  | .overload => 7
  | .externalOpen => 8
  | .abort => 9
  | .lost => 10
  | .loadReturned => 11
  | .handoverTimeout => 12
  | .reversePower => 13

/-- A trip cause as the cause of a result. -/
def TripCause.toCause : TripCause → Cause
  | .energiseFailed => .energiseFailed
  | .overload => .overload
  | .openFailed => .openFailed
  | .uncommandedClose => .uncommandedClose

/-- An open cause as the cause of a result. -/
def OpenCause.toCause : OpenCause → Cause
  | .loadReturned => .loadReturned
  | .handoverTimeout => .handoverTimeout
  | .overload => .overload
  | .reversePower => .reversePower

/-- The code of a cause that may be absent (0). -/
def causeCode : Option Cause → Nat
  | none => 0
  | some c => c.code

def OscMode.code : OscMode → Nat
  | .nominal => 0
  | .trackSlip => 1
  | .trackLock => 2
  | .island => 3
  | .hold => 4

def WatchState.code : WatchState → Nat
  | .notWatching => 0
  | .watching => 1
  | .armed => 2
  | .closeWait => 3
  | .closedWatch => 4
  | .openWait => 5

def Direction.code : Direction → Nat
  | .level => 0
  | .rising => 1
  | .falling => 2

def Freshness.code : Freshness → Nat
  | .noData => 0
  | .fresh => 1
  | .stale => 2

def Standing.code : Standing → Nat
  | .available => 0
  | .assigned _ _ => 1
  | .lockedOut => 2
  | .outOfService => 3

def RunState.code : RunState → Nat
  | .joining => 1
  | .running => 2
  | .retryWaitFast => 3
  | .retryWaitSlow => 4
  | .blockedByBerth => 5

def CmdMode.code : CmdMode → Nat
  | .off => 0
  | .blocked => 1
  | .form => 2
  | .follow => 3

def ModuleState.code : ModuleState → Nat
  | .ready => 1
  | .running => 2
  | .fault => 3

/-- R190: a status record's module state; 0 is taken as READY. -/
def ModuleState.ofCode : Nat → ModuleState
  | 2 => .running
  | 3 => .fault
  | _ => .ready

def EventCode.code : EventCode → Nat
  | .connected => 1
  | .paralleled => 2
  | .shoreOnly => 3
  | .returned => 4
  | .externalOpen => 5
  | .tripped => 6
  | .released => 7
  | .roughClose => 8
  | .moduleLockout => 9
  | .supervisorLost => 10
  | .supervisorRestored => 11
  | .timeStep => 12
  | .meterRestart => 13
  | .resetRecovered => 14

/-- Demand intervals in packed fields (11.2). -/
def intervalCode : Nat → Nat
  | 5 => 0
  | 10 => 1
  | 15 => 2
  | 20 => 3
  | 30 => 4
  | _ => 5

def ServiceOutcome.code : ServiceOutcome → Nat
  | .none => 0
  | .done => 1
  | .refusedState => 2
  | .refusedAssigned => 3
  | .badRequest => 4

def RefuseCause.code : RefuseCause → Nat
  | .none => 0
  | .badTag => 1
  | .span => 2
  | .denied => 3
  | .badShape => 4

def CommitOutcome.code : CommitOutcome → Nat
  | .none => 0
  | .accepted => 1
  | .badCrc => 2
  | .badRange => 3
  | .badState => 4
  | .locked => 5
  | .noJournalRoom => 6

def Unlock.code : Unlock → Nat
  | .closed => 0
  | .firstTaken _ => 1
  | .opened => 2

def Section.bit : Section → Nat
  | .windows => 0
  | .berths => 1
  | .pool => 2
  | .journal => 3
  | .protection => 4
  | .metrology => 5
  | .attention => 6

/-- COMMIT_RESULT's section field: 0 none, else 1 + the mask bit number (11.3). -/
def sectionCode : Option Section → Nat
  | none => 0
  | some s => s.bit + 1

def Presence.code : Presence → Nat
  | .inactive => 0
  | .awaiting => 1
  | .present => 2
  | .lost => 3

def Channel.code : Channel → Nat
  | .initial => 0
  | .started => 1
  | .stopPending => 2
  | .stopped => 3

def Coalescing.code : Coalescing → Nat
  | .waitingFirst => 0
  | .running => 1
  | .signalled => 2

/-- A window kind by code (11.3). -/
def WindowKind.ofCode? : Nat → Option WindowKind
  | 0 => some .none
  | 1 => some .measure
  | 2 => some .berthPage
  | 3 => some .moduleCmd
  | 4 => some .moduleStat
  | 5 => some .journal
  | _ => Option.none

/-! ## Records and requests -/

/-- 11.5: a measurement record's fields. -/
structure MeasRecord where
  kind : Option SlotKind
  berth : Nat
  seq : BitVec 8
  stamp : Word
  checkOk : Bool
  phasor : Phasor
  feeder : Feeder
  meterStatus : Nat
  deriving DecidableEq, Repr

/-- 11.2: the measurement kinds by code. -/
def SlotKind.ofCode? : Nat → Option SlotKind
  | 1 => some .shipPhasor
  | 2 => some .shorePhasor
  | 3 => some .feederPower
  | _ => none

/-- A 16-bit field read as a signed value. -/
def signed16 (n : Nat) : Int := (BitVec.ofNat 16 n).toInt

/-- 11.5: the four words of a measurement record. -/
def parseMeas (w0 w1 w2 w3 : Word) : MeasRecord :=
  { kind := SlotKind.ofCode? (field w0 0 2), berth := field w0 2 2, seq := w0.extractLsb' 8 8, stamp := w1
    checkOk := checkSum [w0, w1, w2, w3] == 0
    phasor := { freq := field w2 0 16, volt := field w2 16 16, phase := field w3 0 16, stamp := w1 }
    feeder := { power := signed16 (field w2 0 16), epoch := w2.extractLsb' 16 8, register := w3, stamp := w1 }
    meterStatus := field w2 24 8 }

/-- 11.5: the content of a module status record. -/
def parseStatus (ws : List Word) : StatusReport :=
  let w0 := wordAt ws 0
  { state := ModuleState.ofCode (field w0 0 2)
    flags := ⟨w0.getLsbD 8, w0.getLsbD 9, w0.getLsbD 10, w0.getLsbD 11⟩
    current := wordAt ws 1, power := wordAt ws 2, temperature := wordAt ws 3, seq := w0.extractLsb' 16 16 }

/-- 11.4, R97: the ship profile that the request shadow (words 1 to 7) spells, if it lies in range. -/
def parseProfile (shadow : List Word) : Option ShipProfile :=
  let w2 := wordAt shadow 1
  let p : ShipProfile :=
    { shipCode := wordAt shadow 0, callNumber := w2.extractLsb' 0 16, reserve := field w2 16 2
      nominalFreq := (wordAt shadow 2).toNat, nominalVolt := (wordAt shadow 3).toNat
      demand := (wordAt shadow 4).toNat }
  if (p.nominalFreq = 50000 ∨ p.nominalFreq = 60000) ∧ (p.nominalVolt = 6600 ∨ p.nominalVolt = 11000) ∧
      1000 ≤ p.demand ∧ p.demand ≤ 16000 ∧ p.demand % 100 = 0 ∧ p.reserve ≤ 2 then
    some p
  else none

/-- 11.4: word 0 of a berth page, from a request's kind and tag. -/
def requestWord (kind : Nat) (tag : BitVec 16) : Word := put 0 8 kind ||| put 16 16 tag.toNat

/-- Consecutive words with the number of each, from word `first` on (R169: ascending order). -/
def numbered : Nat → List Word → List (Nat × Word)
  | _, [] => []
  | n, w :: ws => (n, w) :: numbered (n + 1) ws

end Machine

end Sys2Proof
end

