-- ==== Sys2Proof/Machine/Flags.lean ====
section
/-! DEFINITION. The flags and marks of the part: the event summary and ATTENTION, the CLOSE and TRIP lines, the
watch state, interval flags and fault flags as they stand in words. -/

namespace Sys2Proof.Machine

/-! ## Event summary (R184) -/

/-- The sixteen bits of the event summary. -/
inductive SummaryBit
  | journalReady
  | requestDone (b : Berth)
  | berthTrip (b : Berth)
  | measureStale (b : Berth)
  | moduleLockout | configDone | eventsLost | refusedTransfer | supervisorLost | resetRecovered
  deriving DecidableEq, Repr

/-- 11.3: the position of a summary bit. -/
def SummaryBit.pos : SummaryBit → Nat
  | .journalReady => 0
  | .requestDone b => 1 + b.num
  | .berthTrip b => 4 + b.num
  | .measureStale b => 7 + b.num
  | .moduleLockout => 10
  | .configDone => 11
  | .eventsLost => 12
  | .refusedTransfer => 13
  | .supervisorLost => 14
  | .resetRecovered => 15

/-- The bit as a mask. -/
def SummaryBit.mask (k : SummaryBit) : BitVec 16 := 1#16 <<< k.pos

/-- Whether a bit is set in the event summary. -/
def State.summaryBit (s : State) (k : SummaryBit) : Bool := s.page.summary.getLsbD k.pos

/-- R184: set a summary bit; a bit that is set stays set. -/
def setSummary (k : SummaryBit) (s : State) : State :=
  { s with page := { s.page with summary := s.page.summary ||| k.mask } }

/-- R185: the ATTENTION line. -/
def State.attention (s : State) : Bool := !s.resetLow && (s.page.summary &&& s.page.enable) != 0

/-! ## Timers -/

/-- Whether a timer is running (elapsed or not). -/
def Timer.isRunning : Timer → Bool
  | .running _ => true
  | _ => false

/-- Whether a timer has elapsed: its expiry falls at this instant. -/
def Timer.isDue : Timer → Bool
  | .running 0 => true
  | _ => false

/-- One microsecond passes (a held timer keeps its remaining time, R117). -/
def Timer.tick : Timer → Timer
  | .running (n + 1) => .running n
  | t => t

/-- R117: hold a running timer. -/
def Timer.hold : Timer → Timer
  | .running n => .held n
  | t => t

/-- The microseconds left. -/
def Timer.left : Timer → Nat
  | .stopped => 0
  | .running n => n
  | .held n => n

/-- 11.2: timer condition. -/
def Timer.code : Timer → Nat
  | .stopped => 0
  | .running _ => 1
  | .held _ => 2

/-! ## Breaker lines and the watch state -/

/-- R84: CLOSE is high exactly while its pulse runs. -/
def Sync.closeHigh (u : Sync) : Bool := u.closePulse.isRunning

/-- R96: whether the trip hold drives TRIP: RESET_N is low, or the 100 ms after it run. -/
def State.inHold (s : State) : Bool := s.resetLow || s.tripHold.isRunning

/-- R84: the CLOSE output of a berth. -/
def State.closeLine (s : State) (b : Berth) : Bool := (s.sync.get b).closeHigh

/-- R85, R96: the TRIP output of a berth. -/
def State.tripLine (s : State) (b : Berth) : Bool := (s.sync.get b).tripPulse.isRunning || s.inHold

/-- R75: the watch state follows the berth state. -/
def watchOf (st : BerthState) (u : Sync) : WatchState :=
  match st with
  | .matching => .watching
  | .armed => .armed
  | .closing => .closeWait
  | .parallelIn | .shoreOnly | .parallelOut => .closedWatch
  | .opening => .openWait
  | .tripped => if u.secondTrip && u.tripPulse.isRunning then .openWait else .notWatching
  | .idle | .waitingModules | .energising | .energised | .deEnergising => .notWatching

/-- The watch state of a berth. -/
def State.watch (s : State) (b : Berth) : WatchState := watchOf (s.seq.get b).state (s.sync.get b)

/-! ## Berth states by class -/

/-- 00 section 8: an active berth is in any state from ENERGISING to DE_ENERGISING, TRIPPED excepted. -/
def BerthState.isActive : BerthState → Bool
  | .idle | .waitingModules | .tripped => false
  | _ => true

/-- R91: the breaker-closed states. -/
def BerthState.isClosed : BerthState → Bool
  | .parallelIn | .shoreOnly | .parallelOut | .opening => true
  | _ => false

/-- R115: states in which overload is judged. -/
def BerthState.judgesOverload : BerthState → Bool
  | .energising | .energised | .matching | .armed | .parallelIn | .shoreOnly | .parallelOut => true
  | _ => false

/-- R116: states in which reverse power is judged. -/
def BerthState.judgesReverse : BerthState → Bool
  | .parallelIn | .shoreOnly | .parallelOut => true
  | _ => false

/-- PARALLEL_IN and PARALLEL_OUT. -/
def BerthState.isParallel : BerthState → Bool
  | .parallelIn | .parallelOut => true
  | _ => false

/-- MATCHING and ARMED, in which the sync window is evaluated (R78). -/
def BerthState.isWatching : BerthState → Bool
  | .matching | .armed => true
  | _ => false

/-! ## Flags in words -/

/-- 11.6: interval flags at bits 8 to 12 of word 0. -/
def IntervalFlags.word (f : IntervalFlags) : Word :=
  fields [putBit 8 f.partialInterval, putBit 9 f.timeStep, putBit 10 f.gap, putBit 11 f.merged, putBit 12 f.metrology]

/-- R146: the flags of two merged intervals joined, with MERGED added. -/
def IntervalFlags.join (f g : IntervalFlags) : IntervalFlags :=
  { partialInterval := f.partialInterval || g.partialInterval, timeStep := f.timeStep || g.timeStep
    gap := f.gap || g.gap, merged := true, metrology := f.metrology || g.metrology }

/-- R22 step 3: whether a status record shows any fault flag. -/
def PerFlag.any (f : PerFlag Bool) : Bool := f.overcurrent || f.overtemp || f.dcLink || f.gate

/-- 11.6: the cause of a lockout: fault flags at bits 0 to 3, COMMS at 4. -/
def lockoutCause (f : PerFlag Bool) (comms : Bool) : Word :=
  fields [putBit 0 f.overcurrent, putBit 1 f.overtemp, putBit 2 f.dcLink, putBit 3 f.gate, putBit 4 comms]

end Sys2Proof.Machine
end

