-- ==== Sys2Proof/Machine/Ops.lean ====
section
/-! DEFINITION. The named operations over the state's records, and over plant memory. -/

namespace Sys2Proof.Machine

/-! ## Updating one record of the state -/

/-- Change the record of a module. -/
def State.updMod (s : State) (m : ModuleId) (f : Module → Module) : State :=
  { s with mods := s.mods.set m (f (s.mods.get m)) }

/-- Change a berth's oscillator. -/
def State.updOsc (s : State) (b : Berth) (f : Osc → Osc) : State :=
  { s with osc := s.osc.set b (f (s.osc.get b)) }

/-- Change a berth's measurement record. -/
def State.updMeas (s : State) (b : Berth) (f : Meas → Meas) : State :=
  { s with meas := s.meas.set b (f (s.meas.get b)) }

/-- Change a berth's Synchronising Unit. -/
def State.updSync (s : State) (b : Berth) (f : Sync → Sync) : State :=
  { s with sync := s.sync.set b (f (s.sync.get b)) }

/-- Change a berth's context. -/
def State.updSeq (s : State) (b : Berth) (f : Seq → Seq) : State :=
  { s with seq := s.seq.set b (f (s.seq.get b)) }

/-- Replace a berth's session record. -/
def State.setSession (s : State) (b : Berth) (x : Option Session) : State :=
  { s with sessions := s.sessions.set b x }

/-- Change a berth's open session; a notice for a berth without one is disregarded (R135). -/
def State.updSession (s : State) (b : Berth) (f : Session → Session) : State :=
  s.setSession b ((s.sessions.get b).map f)

/-- Apply an operation to each berth in the order B0, B1, B2. -/
def forBerths (f : Berth → State → State) (s : State) : State := f .b2 (f .b1 (f .b0 s))

/-- Apply an operation to each module in ascending index. -/
def forModules (f : ModuleId → State → State) (s : State) : State :=
  f .m7 (f .m6 (f .m5 (f .m4 (f .m3 (f .m2 (f .m1 (f .m0 s)))))))

/-! ## Saturating counts -/

/-- A count that stops at 65,535. -/
def sat16 (n : Nat) : Nat := min n 65535

/-- A count that stops at 255. -/
def sat8 (n : Nat) : Nat := min n 255

/-! ## Plant memory (log 4) -/

/-- The word at a word number. -/
def memRead : List (Nat × Word) → Nat → Word
  | [], _ => Config.memoryUnwritten
  | (a, v) :: rest, k => if k = a then v else if k < a then Config.memoryUnwritten else memRead rest k

/-- Write one word, keeping the canonical form: numbers strictly rising, no entry that reads as unwritten. -/
def memWrite : List (Nat × Word) → Nat → Word → List (Nat × Word)
  | [], k, v => if v = Config.memoryUnwritten then [] else [(k, v)]
  | (a, w) :: rest, k, v =>
    if k = a then (if v = Config.memoryUnwritten then rest else (k, v) :: rest)
    else if k < a then (if v = Config.memoryUnwritten then (a, w) :: rest else (k, v) :: (a, w) :: rest)
    else (a, w) :: memWrite rest k v

/-- Write consecutive words from word number `k` on. -/
def memWriteBurst : List (Nat × Word) → Nat → List Word → List (Nat × Word)
  | m, _, [] => m
  | m, k, v :: vs => memWriteBurst (memWrite m k v) (k + 1) vs

/-- Whether every number in the list is above `lo` and rising, and no entry reads as unwritten. -/
def memWfFrom : Option Nat → List (Nat × Word) → Bool
  | _, [] => true
  | lo, (a, v) :: rest =>
    (match lo with
      | none => true
      | some l => decide (l < a)) && v != Config.memoryUnwritten && memWfFrom (some a) rest

/-- The canonical form of plant memory. -/
def memWf (m : List (Nat × Word)) : Bool := memWfFrom none m

/-- The word of plant memory at a byte address. -/
def State.memWord (s : State) (addr : Nat) : Word := memRead s.bus.mem (addr / 4)

/-! ## The two CRCs (R153, R178) -/

/-- One bit of the CRC register, least significant first. -/
def crcBit (c : Word) : Word := if c.getLsbD 0 then (c >>> 1) ^^^ Config.crcPoly else c >>> 1

/-- One byte. -/
def crcByte (c : Word) (x : BitVec 8) : Word :=
  crcBit (crcBit (crcBit (crcBit (crcBit (crcBit (crcBit (crcBit (c ^^^ x.setWidth 32))))))))

/-- One word as four bytes, least significant byte first. -/
def crcWord (c w : Word) : Word :=
  crcByte (crcByte (crcByte (crcByte c (w.extractLsb' 0 8)) (w.extractLsb' 8 8)) (w.extractLsb' 16 8))
    (w.extractLsb' 24 8)

/-- The CRC-32 of a list of words: initial value all ones, result inverted. -/
def crc32 (ws : List Word) : Word := ~~~ (ws.foldl crcWord 0xFFFFFFFF)

/-! ## Station times -/

/-- The seconds from one station time to a later one; the day wraps modulo 2^32 (R125, R136). -/
def secondsBetween (a b : StationTime) : Nat :=
  ((b.day - a.day).toNat * 86400 + b.second) - a.second

/-- Nearest whole number, halves up (log 14). -/
def divNearest (n d : Nat) : Nat := (n + d / 2) / d

end Sys2Proof.Machine
end

