-- ==== Sys2Proof/Machine/Journal.lean ====
section
/-! DEFINITION. The Journal Writer (08): admission to the holding queue, the record's words and chain value, the ring,
the channel, coalescing; and the memory-face arbiter (09, R173) that grants its claims. -/

namespace Sys2Proof.Machine

/-! ## Classes of record (R144, R145) -/

/-- A billing record of berth `b`. -/
def Record.isBilling (b : Berth) (r : Record) : Bool :=
  r.berth == some b &&
    match r.body with
    | .sessionOpen _ | .interval _ | .sessionClose _ => true
    | .configChange _ | .event _ _ _ => false

/-- An INTERVAL record. -/
def Record.isInterval (r : Record) : Bool :=
  match r.body with
  | .interval _ => true
  | _ => false

/-- A CONFIG_CHANGE record. -/
def Record.isMetrology (r : Record) : Bool :=
  match r.body with
  | .configChange _ => true
  | _ => false

/-- An EVENT record. -/
def Record.isEvent (r : Record) : Bool :=
  match r.body with
  | .event _ _ _ => true
  | _ => false

/-- Billing records of a berth held, the record being written included. -/
def billingHeld (q : List Record) (b : Berth) : Nat := q.countP (Record.isBilling b)

/-- EVENT records held. -/
def eventsHeld (q : List Record) : Nat := q.countP Record.isEvent

/-- CONFIG_CHANGE records held. -/
def metrologyHeld (q : List Record) : Nat := q.countP Record.isMetrology

/-- R139, R146: whether any billing record of the berth is held. -/
def State.backlog (s : State) (b : Berth) : Bool := billingHeld s.jour.queue b != 0

/-- R148: room for a CONFIG_CHANGE: the metrology slot is free and no INTERVAL of any berth is held. -/
def State.journalRoom (s : State) : Bool :=
  metrologyHeld s.jour.queue == 0 && s.jour.queue.all fun r => !r.isInterval

/-! ## Admission (R145 to R148) -/

/-- R146: two INTERVALs of one session as one. -/
def IntervalBody.merge (old new : IntervalBody) : IntervalBody :=
  { flags := old.flags.join new.flags, start := old.start, stop := new.stop
    bands := PerBand.zip (· + ·) old.bands new.bands, bridged := old.bridged + new.bridged
    unattributed := old.unattributed + new.unattributed
    demand := if new.demand.toNat ≤ old.demand.toNat then old.demand else new.demand }

/-- R146: merge an INTERVAL of berth `b` into the newest one of the list, if it holds one. -/
def mergeNewest (b : Berth) (time : StationTime) (new : IntervalBody) : List Record → Option (List Record)
  | [] => none
  | r :: rest =>
    match mergeNewest b time new rest with
    | some rest' => some (r :: rest')
    | none =>
      match r.body with
      | .interval old =>
        if r.berth = some b then some ({ r with time := time, body := .interval (old.merge new) } :: rest) else none
      | _ => none

/-- R146: the record being written, at the head, takes no merge. -/
def mergeInto (writing : Bool) (b : Berth) (time : StationTime) (new : IntervalBody) (q : List Record) :
    Option (List Record) :=
  match writing, q with
  | true, r :: rest => (mergeNewest b time new rest).map (r :: ·)
  | _, q => mergeNewest b time new q

/-- Replace the holding queue. -/
def State.withQueue (s : State) (q : List Record) : State := { s with jour := { s.jour with queue := q } }

/-- R145, R146: append a billing record in one of its berth's three slots. The slots always suffice in a run (R146);
a record that would find none is not admitted (log 25). -/
def admitBilling (b : Berth) (r : Record) (s : State) : State :=
  if billingHeld s.jour.queue b < Config.billingSlots then s.withQueue (s.jour.queue ++ [r]) else s

/-- R146: admit an INTERVAL of berth `b`, merging it where it may merge. -/
def admitInterval (b : Berth) (r : Record) (new : IntervalBody) (s : State) : State :=
  match mergeInto s.jour.writing.isSome b r.time new s.jour.queue with
  | some q => s.withQueue q
  | none => admitBilling b r s

/-- R147: admit an EVENT, or drop and count it. -/
def admitEvent (r : Record) (s : State) : State :=
  if eventsHeld s.jour.queue < Config.eventSlots then s.withQueue (s.jour.queue ++ [r])
  else setSummary .eventsLost { s with jour := { s.jour with lost := sat16 (s.jour.lost + 1) } }

/-- R148: admit a CONFIG_CHANGE in the metrology slot. -/
def admitConfig (r : Record) (s : State) : State :=
  if metrologyHeld s.jour.queue = 0 then s.withQueue (s.jour.queue ++ [r]) else s

/-- The number of the berth's open session, 0 for none (R132). -/
def State.sessionNumber (s : State) (b : Berth) : BitVec 16 :=
  match s.sessions.get b with
  | some x => x.number
  | none => 0

/-- R144, R147: produce an EVENT of a berth, or of the station. -/
def emitEvent (code : EventCode) (qualifier : Nat) (b : Option Berth) (ws : List Word) (s : State) : State :=
  admitEvent
    { berth := b
      session := match b with
        | some x => s.sessionNumber x
        | none => 0
      time := s.clock.time, body := .event code qualifier ws } s

/-! ## Words of a record (11.6) -/

/-- The kind code. -/
def Body.code : Body → Nat
  | .sessionOpen _ => 1
  | .interval _ => 2
  | .sessionClose _ => 3
  | .configChange _ => 4
  | .event _ _ _ => 5

/-- Exactly `n` words: the given ones, then zeros (R191). -/
def padTo (n : Nat) (ws : List Word) : List Word := (ws ++ List.replicate n 0).take n

/-- An INTERVAL's payload words. -/
def IntervalBody.words (i : IntervalBody) : List Word :=
  [i.start.day, put 0 32 i.start.second, i.stop.day, put 0 32 i.stop.second, i.bands.band0, i.bands.band1,
    i.bands.band2, i.bands.band3, i.bridged, i.unattributed, i.demand]

/-- Words 4 to 14, with the lost count of an EVENT (R147). -/
def Body.payload (lost : Nat) : Body → List Word
  | .sessionOpen ws => padTo 11 ws
  | .interval i => padTo 11 i.words
  | .sessionClose ws => padTo 11 ws
  | .configChange ws => padTo 11 ws
  | .event code q ws => padTo 11 (fields [put 0 8 code.code, put 8 8 q, put 16 16 lost] :: ws)

/-- Word 0. -/
def Record.word0 (r : Record) : Word :=
  fields
    [put 0 3 r.body.code,
      put 4 2 (match r.berth with
        | some b => b.num
        | none => 3),
      (match r.body with
        | .interval i => i.flags.word
        | _ => 0),
      put 16 16 r.session.toNat]

/-- Words 0 to 14 of a record with its sequence number and lost count (R152). -/
def Record.words (r : Record) (seq : Word) (lost : Nat) : List Word :=
  [r.word0, seq, r.time.day, put 0 32 r.time.second] ++ r.body.payload lost

/-- R153: the chain value of a record: the CRC over the prefix and words 0 to 14. -/
def chainValue (chain : Word) (words : List Word) : Word := crc32 (chain :: words)

/-! ## The ring (R149) -/

/-- The unconsumed count of a ring of length `l`. -/
def unconsumed (l p c : Nat) : Nat := (p + l - c) % l

/-- The ring length, 0 before the ring is configured (R156). -/
def Journal.len (j : Journal) : Nat :=
  match j.ring with
  | some r => r.length
  | none => 0

/-- R149: the ring is configured when a WINDOWS and a JOURNAL commit have been accepted since the last reset. -/
def State.ringConfigured (s : State) : Bool := s.bus.firstCommit && s.jour.ring.isSome

/-- The window table's entry of a kind. -/
def findWindow (t : List WindowEntry) (k : WindowKind) : Option WindowEntry := t.find? fun e => e.kind == k

/-- The base of the JOURNAL window in force. -/
def State.journalBase (s : State) : Nat :=
  match findWindow s.bus.table .journal with
  | some e => e.base
  | none => 0

/-- R152: when a record's write begins: STARTED, none being written, queue not empty, ring not full. -/
def State.canWrite (s : State) : Bool :=
  s.jour.channel == .started && s.jour.writing.isNone && !s.jour.queue.isEmpty && s.ringConfigured &&
    unconsumed s.jour.len s.jour.produce s.jour.consume + 1 != s.jour.len

/-- R152: the address and words of each of a write's three claims. -/
def claimBurst (s : State) (w : Writing) : Nat × List Word :=
  match w.claim with
  | 1 => (s.journalBase + 64 * s.jour.produce, w.words.take 8)
  | 2 => (s.journalBase + 64 * s.jour.produce + 32, w.words.drop 8)
  | _ =>
    ((match s.jour.ring with
        | some r => r.writeBack
        | none => 0), [put 0 32 ((s.jour.produce + 1) % s.jour.len)])

/-! ## The memory-face arbiter (R173) -/

/-- The journal claim that waits, if one does. -/
def waitingClaim (s : State) : Option Writing :=
  match s.jour.writing with
  | some w => if w.granted then none else some w
  | none => none

/-- R173: grant the face to the journal claim. -/
def grantJournal (w : Writing) (s : State) : State :=
  { s with
    jour := { s.jour with writing := some { w with granted := true } }
    bus := { s.bus with face := some (.journal (claimBurst s w).1 (claimBurst s w).2 true), passCount := 0 } }

/-- R173: grant the face to the head of the pass list. -/
def grantPass (item : PassItem) (rest : List PassItem) (s : State) : State :=
  { s with bus := { s.bus with face := some (.pass item), passList := rest, passCount := min (s.bus.passCount + 1) 4 } }

/-- R173: decide a grant, when the face is free and a claim waits. -/
def grant (s : State) : State :=
  if s.bus.face.isSome then s
  else
    match s.bus.passList, waitingClaim s with
    | [], none => s
    | [], some w => grantJournal w s
    | item :: rest, none => grantPass item rest s
    | item :: rest, some w => if s.bus.passCount = 4 then grantJournal w s else grantPass item rest s

/-! ## Writing a record (R152) -/

/-- R152: the write of the head record begins: its content is completed and its first claim is made. -/
def startWrite (s : State) : State :=
  match s.jour.queue with
  | [] => s
  | r :: _ =>
    let lost := if r.isEvent then s.jour.lost else 0
    let ws := r.words s.jour.nextSeq lost
    let chain := chainValue s.jour.chain ws
    grant { s with
      jour := { s.jour with
        writing := some { words := ws ++ [chain], chain := chain, lostTaken := lost, claim := 1, granted := false } } }

/-- R157: whether a record announces itself at once: a SESSION_CLOSE, or an EVENT TRIPPED. -/
def Record.isUrgent (r : Record) : Bool :=
  match r.body with
  | .sessionClose _ => true
  | .event .tripped _ _ => true
  | _ => false

/-- R157: JOURNAL_READY is set and the coalescing state becomes SIGNALLED, its timer stopped. -/
def signalReady (s : State) : State :=
  setSummary .journalReady { s with jour := { s.jour with coalescing := .signalled, coalTimer := .stopped } }

/-- R157: what is judged at each completion of a record's write. -/
def judgeReady (r : Record) (s : State) : State :=
  let s := if s.jour.coalescing = .waitingFirst then
      { s with jour := { s.jour with
          coalescing := .running, coalTimer := .running (s.jour.coalTimeMs * Config.msUs) } }
    else s
  if s.jour.threshold ≤ unconsumed s.jour.len s.jour.produce s.jour.consume ∨ r.isUrgent = true then signalReady s
  else s

/-- R152: the write completes at the end of its third claim. -/
def completeWrite (w : Writing) (s : State) : State :=
  match s.jour.queue with
  | [] => { s with jour := { s.jour with writing := none } }
  | r :: rest =>
    judgeReady r { s with
      jour := { s.jour with
        queue := rest, writing := none, produce := (s.jour.produce + 1) % s.jour.len
        nextSeq := s.jour.nextSeq + 1, chain := w.chain, lost := s.jour.lost - w.lostTaken
        channel := if s.jour.channel = .stopPending then .stopped else s.jour.channel } }

/-- R152: the memory face has carried a claim of the record being written: the next claim is made, or the write
completes. -/
def claimCarried (s : State) : State :=
  match s.jour.writing with
  | none => s
  | some w =>
    if w.claim < 3 then
      { s with jour := { s.jour with writing := some { w with claim := w.claim + 1, granted := false } } }
    else completeWrite w s

/-- R155, R160: abandon the write in progress. A burst the face already carries completes in memory; the record stays
at the head of the queue. -/
def abandonWrite (s : State) : State :=
  { s with
    jour := { s.jour with writing := none }
    bus := { s.bus with face := match s.bus.face with
      | some (.journal a ws _) => some (.journal a ws false)
      | f => f } }

end Sys2Proof.Machine
end

