-- ==== Sys2Proof/Machine/Billing.lean ====
section
/-! DEFINITION. Billing Sessions (07, sections 7.5 to 7.9): opening, accruing, closing of intervals and sessions. -/

namespace Sys2Proof.Machine

/-- R127: the band of the last entry that starts at or before the second of day. -/
def bandAt (sched : List TariffEntry) (second : Nat) : Nat :=
  sched.foldl (fun b e => if e.start ≤ second then e.band else b) 0

/-- R127: the band in force. -/
def State.band (s : State) : Nat := bandAt s.clock.inForce.schedule s.clock.time.second

/-! ## Energies -/

/-- Sum of two sets of energies, modulo 2^64. -/
def Energies.add (a b : Energies) : Energies :=
  ⟨PerBand.zip (· + ·) a.bands b.bands, a.bridged + b.bridged, a.unattributed + b.unattributed⟩

/-- The sum of the four band energies. -/
def Energies.bandSum (e : Energies) : Nat :=
  e.bands.band0.toNat + e.bands.band1.toNat + e.bands.band2.toNat + e.bands.band3.toNat

/-- R70: where a difference goes. -/
inductive Assignment
  | toBand (n : Nat) (bridged : Bool)
  | unattributed
  deriving DecidableEq, Repr

/-- R134: add a difference to an accumulator's energies. -/
def Energies.accrue (e : Energies) (wh : Word) : Assignment → Energies
  | .toBand n false => { e with bands := e.bands.upd n (· + wh.setWidth 64) }
  | .toBand n true => { e with bands := e.bands.upd n (· + wh.setWidth 64), bridged := e.bridged + wh.setWidth 64 }
  | .unattributed => { e with unattributed := e.unattributed + wh.setWidth 64 }

/-- R134: a difference reaches the berth's open session. A session carried across a line reset takes none (R142): no
record reaches the intake while RESET_N is low. -/
def accrue (b : Berth) (wh : Word) (a : Assignment) (s : State) : State :=
  s.updSession b fun x => { x with acc := { x.acc with energy := x.acc.energy.accrue wh a } }

/-! ## Notices (R135) -/

/-- A gap notice. -/
def noteGap (b : Berth) (s : State) : State :=
  s.updSession b fun x => { x with gaps := sat16 (x.gaps + 1), acc := { x.acc with gap := true } }

/-- A confirmed close. -/
def noteParallel (b : Berth) (s : State) : State :=
  s.updSession b fun x => { x with parallels := sat16 (x.parallels + 1) }

/-- An entry to TRIPPED. -/
def noteTrip (b : Berth) (s : State) : State := s.updSession b fun x => { x with trips := sat16 (x.trips + 1) }

/-- The berth leaves SHORE_ONLY other than to PARALLEL_OUT. -/
def noteInterruption (b : Berth) (s : State) : State :=
  s.updSession b fun x => { x with interruptions := sat16 (x.interruptions + 1) }

/-! ## Opening (R132, R133) -/

/-- R132: the number after `n`; 0 is not given. -/
def nextSessionNumber (n : BitVec 16) : BitVec 16 := if n = 0xFFFF then 1 else n + 1

/-- An accumulator that starts at a time. -/
def Accumulator.startAt (t : StationTime) (metrology : Bool) : Accumulator :=
  { start := t, energy := Energies.zero, gap := false, timeStep := false, metrology := metrology }

/-- R133: open the berth's session from its ship profile. -/
def openSession (b : Berth) (p : ShipProfile) (s : State) : State :=
  let n := nextSessionNumber s.sessionCounter
  let t := s.clock.time
  let x : Session :=
    { number := n, shipCode := p.shipCode, callNumber := p.callNumber, demand := p.demand, opened := t
      totals := Energies.zero, peak := 0, intervals := 0, interruptions := 0, parallels := 0, gaps := 0, trips := 0
      acc := Accumulator.startAt t false }
  admitBilling b
    { berth := some b, session := n, time := t
      body := .sessionOpen
        [p.shipCode, fields [put 0 16 p.callNumber.toNat, put 16 2 p.reserve], put 0 32 p.demand,
          put 0 32 p.nominalFreq, put 0 32 p.nominalVolt, t.day, put 0 32 t.second,
          fields [put 0 2 s.band, put 8 8 s.clock.inForce.intervalMin]] }
    ({ s with sessionCounter := n }.setSession b (some x))

/-! ## Closing an interval (R136, R137) -/

/-- R136: average demand in kW; an interval of length 0 has 0. -/
def averageDemand (sum len : Nat) : Nat := if len = 0 then 0 else sum * 3600 / (1000 * len)

/-- R136: whether an interval is PARTIAL by its start and length, for a demand interval of `minutes`. -/
def partialBy (minutes startSecond len : Nat) : Bool := !(startSecond % (minutes * 60) == 0 && len == minutes * 60)

/-- R136 steps 1 to 3: the INTERVAL that closes a session's accumulator at `stop`, and the session with its totals,
count and peak; `forced` sets PARTIAL in every case, `step` sets TIME_STEP (R137, R138). -/
def closeInterval (minutes : Nat) (stop : StationTime) (forced step : Bool) (x : Session) : IntervalBody × Session :=
  let len := secondsBetween x.acc.start stop
  let demand := averageDemand x.acc.energy.bandSum len
  let part := forced || partialBy minutes x.acc.start.second len
  ({ flags := { partialInterval := part, timeStep := step || x.acc.timeStep, gap := x.acc.gap, merged := false
                metrology := x.acc.metrology }
     start := x.acc.start, stop := stop, bands := x.acc.energy.bands.map (·.setWidth 32)
     bridged := x.acc.energy.bridged.setWidth 32, unattributed := x.acc.energy.unattributed.setWidth 32
     demand := put 0 32 demand },
   { x with
     totals := x.totals.add x.acc.energy, intervals := x.intervals + 1
     peak := if part then x.peak else max x.peak demand })

/-- R136, R137: the berth's open session closes its accumulator at `stop` and restarts it at `restart`. -/
def splitInterval (stop restart : StationTime) (step : Bool) (b : Berth) (s : State) : State :=
  match s.sessions.get b with
  | none => s
  | some x =>
    let r := closeInterval s.clock.inForce.intervalMin stop step step x
    admitInterval b { berth := some b, session := x.number, time := s.clock.time, body := .interval r.1 } r.1
      (s.setSession b (some { r.2 with acc := Accumulator.startAt restart false }))

/-- R130: mark the open interval of the berth's session METROLOGY. -/
def markMetrology (b : Berth) (s : State) : State :=
  s.updSession b fun x => { x with acc := { x.acc with metrology := true } }

/-! ## Closing a session (R138, R142) -/

/-- R138: SESSION_CLOSE's payload words (11.6); `cause` is 1 RELEASED, 2 RESET. -/
def closeWords (x : Session) (cause : Nat) (t : StationTime) : List Word :=
  [fields [put 0 17 t.second, put 24 2 cause], t.day, x.totals.bands.band0.setWidth 32,
    x.totals.bands.band1.setWidth 32, x.totals.bands.band2.setWidth 32, x.totals.bands.band3.setWidth 32,
    x.totals.bridged.setWidth 32, x.totals.unattributed.setWidth 32,
    fields [put 0 16 x.peak, put 16 16 x.intervals.toNat],
    fields [put 0 16 x.interruptions, put 16 16 x.parallels], fields [put 0 16 x.gaps, put 16 16 x.trips]]

/-- R138: the berth's open session closes at `stop` with its final INTERVAL, PARTIAL in every case, and its
SESSION_CLOSE. -/
def closeSession (b : Berth) (cause : Nat) (stop : StationTime) (s : State) : State :=
  match s.sessions.get b with
  | none => s
  | some x =>
    let r := closeInterval s.clock.inForce.intervalMin stop true false x
    let s := admitInterval b { berth := some b, session := x.number, time := s.clock.time, body := .interval r.1 } r.1 s
    let s := admitBilling b
      { berth := some b, session := x.number, time := s.clock.time, body := .sessionClose (closeWords r.2 cause stop) } s
    s.setSession b none

end Sys2Proof.Machine
end

