-- ==== Sys2Proof/Machine/Oscillator.lean ====
section
/-! DEFINITION. The Berth Reference Oscillators (03): how frequency and phase move, mode requests, glide targets, the
phase error, the switch of the effective mode, HOLD and the lock flag. -/

namespace Sys2Proof.Machine

/-! ## Phases -/

/-- R48 step 1, R81 step 1: a phasor's phase projected from its stamp to an instant, in quanta, not yet wrapped. -/
def Phasor.phaseAt (p : Phasor) (t : Word) : Int :=
  p.phase * Config.unitQ + p.freq * stampDiff t p.stamp * Config.quantaPerMhzUs

/-- A phase difference in quanta taken modulo a turn and read as signed. -/
def signedTurn (x : Int) : Int :=
  let r := x % Config.turnQ
  if (Config.turnQ : Int) ≤ 2 * r then r - Config.turnQ else r

/-- R48 step 2, R81 step 2: the oscillator's phase less the projected ship phase, in quanta, signed. -/
def Osc.lead (o : Osc) (p : Phasor) (t : Word) : Int := signedTurn (o.phase - p.phaseAt t)

/-- R48 step 3: the phase error δ, rounded toward zero to a whole phase unit. -/
def Osc.phaseError (o : Osc) (p : Phasor) (t : Word) : Int := Int.tdiv (o.lead p t) Config.unitQ

/-- R56: the frequency as read, rounded down to a whole mHz. -/
def Osc.readFreq (o : Osc) : Nat := o.freq / Config.freqUnit

/-- R56: the phase as read, rounded down to a whole phase unit. -/
def Osc.readPhase (o : Osc) : Nat := o.phase / Config.unitQ

/-! ## Modes -/

/-- The modes that follow the ship phasor. -/
def OscMode.isTracking : OscMode → Bool
  | .trackSlip | .trackLock => true
  | .nominal | .island | .hold => false

/-- What an oscillator is given by its neighbours: the profile's nominal frequency, the slip target, the latest ship
phasor while its slot is fresh (absent otherwise), and the present instant. -/
structure OscEnv where
  nominal : Nat
  slip : Nat
  ship : Option Phasor
  now : Word
  deriving DecidableEq, Repr

/-- R46: the governing mode. -/
def Osc.governing (fresh : Bool) (o : Osc) : OscMode :=
  if o.requested.isTracking && !fresh then o.effective else o.requested

/-- R51: SOURCE_UNAVAILABLE. -/
def Osc.sourceUnavailable (fresh : Bool) (o : Osc) : Bool := o.running && o.requested.isTracking && !fresh

/-- R47: a target in mHz bounded to 45,000 to 65,000, in the units of the state. -/
def boundFreq (mHz : Int) : Nat :=
  (max (Config.freqMin : Int) (min (Config.freqMax : Int) mHz)).toNat * Config.freqUnit

/-- R49: the pull of TRACK_LOCK in mHz. -/
def pull (d : Int) : Int := max (-100) (min 100 (Int.tdiv (d * 720) 65536))

/-- R47: the target of a mode. -/
def Osc.targetOf (e : OscEnv) (o : Osc) : OscMode → Nat
  | .nominal | .island => boundFreq e.nominal
  | .trackSlip =>
    match e.ship with
    | some p => boundFreq (p.freq + e.slip)
    | none => o.target
  | .trackLock =>
    match e.ship with
    | some p => boundFreq (p.freq - pull (o.lastError.getD 0))
    | none => o.target
  | .hold => o.freq

/-- R46, R47: the glide target becomes the target of the governing mode. -/
def Osc.retarget (e : OscEnv) (o : Osc) : Osc :=
  let t := o.targetOf e (o.governing e.ship.isSome)
  { o with target := t, gliding := o.freq != t }

/-! ## Completion of a switch (R50), HOLD (R52, R53) and the lock flag (R54) -/

/-- The distance of f from the glide target. -/
def Osc.distance (o : Osc) : Nat := (o.freq - o.target) + (o.target - o.freq)

/-- R50, R53: whether a switch to NOMINAL, TRACK_SLIP or ISLAND, or the end of a HOLD under one of them, completes at
this instant. -/
def Osc.settles (fresh : Bool) (o : Osc) : Bool :=
  o.running && o.requested != o.effective && o.requested != .trackLock && o.governing fresh == o.requested &&
    decide (o.distance ≤ 10 * Config.freqUnit)

/-- R50, R54: the effective mode becomes the requested one, which is not TRACK_LOCK. -/
def Osc.settle (fresh : Bool) (o : Osc) : Osc :=
  if o.settles fresh then { o with effective := o.requested, beforeHold := none, lock := false } else o

/-- R50, R54: a switch to TRACK_LOCK completes where the phase error just computed is within 2°. A request for TRACK_LOCK
that finds TRACK_LOCK effective, or that ends a HOLD in it, leaves the lock flag as it was until the next accepted phasor
(DESIGN CHOICE, log 51). -/
def Osc.settleLock (d : Int) (o : Osc) : Osc :=
  if o.requested = .trackLock ∧ o.effective ≠ .trackLock ∧ o.effective ≠ .hold ∧ d.natAbs ≤ 364 then
    { o with effective := .trackLock, lock := true }
  else o

/-- R53: HOLD ends in the mode before hold when a tracking mode is requested and the slot is fresh. -/
def Osc.endHold (fresh : Bool) (o : Osc) : Osc :=
  if o.effective = .hold ∧ o.requested.isTracking = true ∧ fresh = true then
    match o.beforeHold with
    | some m => { o with effective := m, beforeHold := none }
    | none => o
  else o

/-- R54: the lock flag against the phase error just computed. -/
def Osc.judgeLock (d : Int) (o : Osc) : Osc :=
  if o.effective = .trackLock then
    { o with lock := if o.lock then decide (d.natAbs ≤ 910) else decide (d.natAbs ≤ 364) }
  else o

/-! ## Events of an oscillator -/

/-- R44: the oscillator starts at the profile's nominal frequency. -/
def Osc.start (nominal : Nat) : Osc :=
  { Osc.stopped with running := true, freq := boundFreq nominal, target := boundFreq nominal }

/-- R46, R49: a mode request. A request for TRACK_LOCK while the ship phasor slot is not fresh computes no phase error, even
where the slot holds a phasor, and keeps the last one (DESIGN CHOICE, log 50). -/
def Osc.request (e : OscEnv) (m : OscMode) (o : Osc) : Osc :=
  if o.running = false ∨ o.requested = m then o
  else
    let o := ({ o with requested := m }).endHold e.ship.isSome
    match m, e.ship with
    | .trackLock, some p =>
      let d := o.phaseError p e.now
      (({ o with lastError := some d }).retarget e).settleLock d
    | _, _ => (o.retarget e).settle e.ship.isSome

/-- R48 to R50, R53, R54: an accepted ship phasor, whose slot is fresh. -/
def Osc.takePhasor (e : OscEnv) (p : Phasor) (o : Osc) : Osc :=
  if o.running = false then o
  else
    let d := o.phaseError p e.now
    let o := ({ o with lastError := some d }).endHold true
    (((o.retarget e).settle true).settleLock d).judgeLock d

/-- R52: the ship phasor slot has gone stale. -/
def Osc.goStale (e : OscEnv) (o : Osc) : Osc :=
  if o.running = false then o
  else if o.effective.isTracking then
    ({ o with effective := .hold, beforeHold := some o.effective, lock := false }).retarget e
  else o.retarget e

/-- R45: f moves toward the glide target by at most `d`. -/
def moveToward (f t d : Nat) : Nat := if f < t then min t (f + d) else max t (f - d)

/-- R45: the slew rate of the governing mode, in mHz/s. -/
def Osc.slewRate (p : BerthParams) (fresh : Bool) (o : Osc) : Nat :=
  if o.governing fresh = .island then p.islandSlew else p.slew

/-- R45: one microsecond of a running oscillator: the phase gains the mean of the starting and ending frequencies. -/
def Osc.tick (slew : Nat) (o : Osc) : Osc :=
  if o.running then
    let f := moveToward o.freq o.target slew
    { o with freq := f, phase := (o.phase + o.freq + f) % Config.turnQ }
  else o

/-! ## A berth's oscillator in the state -/

/-- Whether the berth's ship phasor slot is fresh. -/
def State.shipFresh (s : State) (b : Berth) : Bool := (s.meas.get b).ship.fresh == .fresh

/-- The nominal frequency of the berth's ship profile, in mHz. -/
def State.nominalFreq (s : State) (b : Berth) : Nat :=
  match (s.seq.get b).profile with
  | some p => p.nominalFreq
  | none => 0

/-- The nominal voltage of the berth's ship profile, in V. -/
def State.nominalVolt (s : State) (b : Berth) : Nat :=
  match (s.seq.get b).profile with
  | some p => p.nominalVolt
  | none => 0

/-- The contracted demand of the berth's ship profile, in kVA. -/
def State.demand (s : State) (b : Berth) : Nat :=
  match (s.seq.get b).profile with
  | some p => p.demand
  | none => 0

/-- What the berth's oscillator is given at this instant. -/
def State.oscEnv (s : State) (b : Berth) : OscEnv :=
  { nominal := s.nominalFreq b, slip := (s.params.get b).slipTarget
    ship := if s.shipFresh b then (s.meas.get b).ship.latest else none, now := s.now }

/-- R46: the mode requested on entry to a berth state that runs the oscillator. -/
def modeRequest : BerthState → Option OscMode
  | .energising | .energised | .deEnergising | .tripped => some .nominal
  | .matching | .armed | .closing => some .trackSlip
  | .parallelIn | .parallelOut | .opening => some .trackLock
  | .shoreOnly => some .island
  | .idle | .waitingModules => none

/-- R44, R46: the berth's oscillator on entry of the berth to a state. -/
def oscEnter (b : Berth) (st : BerthState) (s : State) : State :=
  match modeRequest st with
  | none => if st = .idle then s.updOsc b fun _ => Osc.stopped else s
  | some m =>
    if st = .energising ∧ (s.osc.get b).running = false then s.updOsc b fun _ => Osc.start (s.nominalFreq b)
    else s.updOsc b (Osc.request (s.oscEnv b) m)

end Sys2Proof.Machine
end

