-- ==== Sys2Proof/Machine/PoolBase.lean ====
section
/-! DEFINITION. The Converter Module Pool (01, 02) below the level of the pool try: commanded modes, blanking,
capacities, shares, entry to a berth and release from it, blocking and rejoining. -/

namespace Sys2Proof.Machine

/-! ## Commanded mode (R19) and blanking (R29) -/

/-- R19: the module mode of a berth state; OFF stands for none. -/
def BerthState.moduleMode : BerthState → CmdMode
  | .energising | .energised | .matching | .armed | .closing | .shoreOnly | .deEnergising => .form
  | .parallelIn | .parallelOut | .opening => .follow
  | .tripped => .blocked
  | .idle | .waitingModules => .off

/-- R19: the commanded mode that a module's standing calls for. -/
def State.commandedMode (s : State) : Standing → CmdMode
  | .assigned _ .retryWaitFast | .assigned _ .retryWaitSlow | .assigned _ .blockedByBerth => .blocked
  | .assigned b .joining | .assigned b .running => (s.seq.get b).state.moduleMode
  | .available | .lockedOut | .outOfService => .off

/-- R29: the blanking expiry after a blanking event: the later of its present value and now plus the blanking time. -/
def blankedUntil (now : Word) (ms : Nat) (old : Option Word) : Option Word :=
  if ms = 0 then old
  else
    let e := stampAfter now (ms * Config.msUs)
    match old with
    | none => some e
    | some x => if 0 < stampDiff e x then some e else some x

/-- R29: a blanking event of a module. -/
def blank (m : ModuleId) (s : State) : State :=
  s.updMod m fun r => { r with blankExpiry := blankedUntil s.now s.prot.blankingMs r.blankExpiry }

/-- R19: a module's commanded mode follows its standing; a change is a blanking event. -/
def refreshMode (m : ModuleId) (s : State) : State :=
  let want := s.commandedMode (s.mods.get m).standing
  if (s.mods.get m).mode = want then s else blank m (s.updMod m fun r => { r with mode := want })

/-- The berth a module is assigned to. -/
def Standing.berth? : Standing → Option Berth
  | .assigned b _ => some b
  | .available | .lockedOut | .outOfService => none

/-- The run state of an ASSIGNED module. -/
def Standing.run? : Standing → Option RunState
  | .assigned _ r => some r
  | .available | .lockedOut | .outOfService => none

/-- Whether a module serves berth `b`. -/
def Module.serves (b : Berth) (r : Module) : Bool := r.standing.berth? == some b

/-- R19: the commanded modes of a berth's modules follow its state. -/
def refreshModes (b : Berth) (s : State) : State :=
  forModules (fun m s => if (s.mods.get m).serves b then refreshMode m s else s) s

/-- R29: a blanking event of every module of a berth. -/
def blankBerth (b : Berth) (s : State) : State :=
  forModules (fun m s => if (s.mods.get m).serves b then blank m s else s) s

/-! ## Capacities (R6) -/

/-- R6: whether a module is a healthy module of berth `b`. -/
def Module.healthyFor (b : Berth) (r : Module) : Bool :=
  r.standing == .assigned b .running &&
    match r.latest with
    | some x => x.state == .running
    | none => false

/-- R6: run states whose modules count in the standing capacity. -/
def RunState.stands : RunState → Bool
  | .blockedByBerth => false
  | .joining | .running | .retryWaitFast | .retryWaitSlow => true

/-- R6: whether a module counts in the standing capacity of berth `b`. -/
def Module.standsFor (b : Berth) (r : Module) : Bool :=
  match r.standing with
  | .assigned c x => c == b && x.stands
  | .available | .lockedOut | .outOfService => false

/-- The sum of the ratings of the modules that a test picks. -/
def State.sumRatings (s : State) (pick : Module → Bool) : Nat :=
  ModuleId.list.foldl (fun a m => if pick (s.mods.get m) then a + (s.mods.get m).rating else a) 0

/-- R6: the berth's healthy capacity. -/
def State.healthy (s : State) (b : Berth) : Nat := s.sumRatings (Module.healthyFor b)

/-- R6: the berth's standing capacity. -/
def State.standingCap (s : State) (b : Berth) : Nat := s.sumRatings (Module.standsFor b)

/-! ## Shares (R17) -/

/-- The setpoint as a whole kW, rounded down. -/
def Seq.wholeKw (q : Seq) : Nat := q.setpoint / Config.powerUnit

/-- R17: the proportional share of a rating. -/
def proportion (p h rating : Nat) : Nat := if h = 0 then 0 else p * rating / h

/-- R17: the lowest-index healthy module of a berth. -/
def State.firstHealthy (s : State) (b : Berth) : Option ModuleId :=
  ModuleId.list.find? fun m => (s.mods.get m).healthyFor b

/-- R17: the remainder left by rounding down. -/
def State.shareRemainder (s : State) (b : Berth) (p h : Nat) : Nat :=
  p - ModuleId.list.foldl
    (fun a m => if (s.mods.get m).healthyFor b then a + proportion p h (s.mods.get m).rating else a) 0

/-- R17: the share that a module of berth `b` takes. -/
def State.shareOf (s : State) (b : Berth) (m : ModuleId) : Int :=
  let q := s.seq.get b
  if q.state.moduleMode = .follow ∧ (s.mods.get m).healthyFor b = true then
    let p := q.wholeKw
    let h := s.healthy b
    (proportion p h (s.mods.get m).rating : Int) +
      (if s.firstHealthy b = some m then (s.shareRemainder b p h : Int) else 0)
  else 0

/-- R29: a share step that blanks: more than one tenth of the rating. -/
def bigStep (old new : Int) (rating : Nat) : Bool := decide (rating < 10 * (new - old).natAbs)

/-- R17, R29: set a module's share. -/
def setShare (m : ModuleId) (share : Int) (s : State) : State :=
  let r := s.mods.get m
  let s' := s.updMod m fun r => { r with share := share }
  if bigStep r.share share r.rating then blank m s' else s'

/-- R17: recompute the shares of a berth's modules. -/
def recomputeShares (b : Berth) (s : State) : State :=
  let s' := forModules
    (fun m t => if (s.mods.get m).serves b then setShare m (s.shareOf b m) t else t) s
  s'.updSeq b fun q => { q with sharedKw := q.wholeKw }

/-! ## Entering and leaving a berth (R4, R30) -/

/-- R30: on every entry to JOINING the status staleness timer starts again with 100 ms. -/
def enterJoining (b : Berth) (m : ModuleId) (s : State) : State :=
  refreshMode m (s.updMod m fun r =>
    { r with standing := .assigned b .joining, staleTimer := .running Config.statusStaleUs })

/-- R4: a module leaves ASSIGNED for another pool state. -/
def leaveBerth (dest : Standing) (m : ModuleId) (s : State) : State :=
  refreshMode m (s.updMod m fun r => { r with standing := dest, returning := false, share := 0 })

/-- R15: a module of a berth that completes DE_ENERGISING is released. -/
def releaseModule (m : ModuleId) (s : State) : State :=
  (leaveBerth .available m s).updMod m fun r =>
    { r with retryWait := .stopped, fastCount := 0, slowCount := 0, retryWindow := .stopped, blankExpiry := none }

/-- R15: release of all the modules of a berth. -/
def releaseModules (b : Berth) (s : State) : State :=
  forModules (fun m s => if (s.mods.get m).serves b then releaseModule m s else s) s

/-- R14: the JOINING and RUNNING modules of a berth that enters TRIPPED are blocked, with share 0. -/
def blockModules (b : Berth) (s : State) : State :=
  forModules
    (fun m s =>
      let r := s.mods.get m
      if r.standing = .assigned b .joining ∨ r.standing = .assigned b .running then
        refreshMode m (s.updMod m fun r => { r with standing := .assigned b .blockedByBerth, share := 0 })
      else s) s

/-- R14: the blocked modules of a berth that leaves TRIPPED on CLEAR take JOINING. -/
def unblockModules (b : Berth) (s : State) : State :=
  forModules
    (fun m s => if (s.mods.get m).standing = .assigned b .blockedByBerth then enterJoining b m s else s) s

/-! ## Candidates and allocation (R7) -/

/-- R7: a candidate: present, AVAILABLE and fit. -/
def Module.isCandidate (r : Module) : Bool := r.present && r.standing == .available && r.fit

/-- The modules that a test picks with their ratings, in ascending index. -/
def State.pickModules (s : State) (pick : Module → Bool) : List (ModuleId × Nat) :=
  (ModuleId.list.filter fun m => pick (s.mods.get m)).map fun m => (m, (s.mods.get m).rating)

/-- R7: take in order until the ratings sum to at least the need; what is taken and what is left. -/
def takeDemand : Nat → List (ModuleId × Nat) → Option (List ModuleId × List (ModuleId × Nat))
  | 0, l => some ([], l)
  | _ + 1, [] => none
  | n + 1, (m, r) :: l =>
    match takeDemand (n + 1 - r) l with
    | some (ms, rest) => some (m :: ms, rest)
    | none => none

/-- R7: allocation for a demand and a reserve from a list of modules: all or nothing. -/
def allocate (cands : List (ModuleId × Nat)) (demand reserve : Nat) : Option (List ModuleId) :=
  match takeDemand demand cands with
  | none => none
  | some (ms, rest) => if reserve ≤ rest.length then some (ms ++ (rest.take reserve).map (·.1)) else none

/-- R7: the modules taken become ASSIGNED to the berth in run state JOINING. -/
def assignAll (b : Berth) (ms : List ModuleId) (s : State) : State := ms.foldl (fun s m => enterJoining b m s) s

/-- R13: whether a berth has a replacement need. -/
def State.needs (s : State) (b : Berth) : Bool :=
  (s.seq.get b).state.isActive && decide (s.standingCap b < s.demand b)

/-! ## Requirement without a module (R16) -/

/-- R16: insert a rating in descending order. -/
def insertDesc (r : Nat) : List Nat → List Nat
  | [] => [r]
  | x :: l => if x ≤ r then r :: x :: l else x :: insertDesc r l

/-- R16: whether berth `b` meets its requirement without module `m`: the ratings of its other standing modules, less
the `r` highest, sum to at least the contracted demand. -/
def State.meetsWithout (s : State) (b : Berth) (m : ModuleId) : Bool :=
  let others := (ModuleId.list.filter fun k => k != m && (s.mods.get k).standsFor b).map fun k => (s.mods.get k).rating
  let reserve := match (s.seq.get b).profile with
    | some p => p.reserve
    | none => 0
  decide (s.demand b ≤ (((others.foldl (fun l r => insertDesc r l) []).drop reserve).sum))

end Sys2Proof.Machine
end

