-- ==== Sys2Proof/Machine/Sequencer.lean ====
section
/-! DEFINITION. The Berth Handover Sequencer (06): results of requests, the ramp, the protection timers, entry to each
state, trips, controlled and external opens, entry to IDLE, and the supervisor's loss. -/

namespace Sys2Proof.Machine

/-! ## Results (R101) -/

/-- R101: a completion or refusal writes the last result, raises the request count and sets REQUEST_DONE[b]. -/
def writeResult (b : Berth) (kind : BitVec 8) (tag : BitVec 16) (outcome : ReqOutcome) (cause : Option Cause)
    (overtaken : Option (BitVec 16)) (s : State) : State :=
  setSummary (.requestDone b) (s.updSeq b fun q =>
    { q with
      last := { kind := kind, tag := tag, outcome := outcome, cause := cause, overtaken := overtaken }
      count := q.count + 1 })

/-- The code of a request kind as the request field carries it. -/
def RequestKind.bits (k : RequestKind) : BitVec 8 := BitVec.ofNat 8 k.code

/-- R101: the request in progress, if there is one, completes. -/
def completeCurrent (b : Berth) (outcome : ReqOutcome) (cause : Option Cause) (s : State) : State :=
  match (s.seq.get b).current with
  | none => s
  | some r => writeResult b r.kind.bits r.tag outcome cause none (s.updSeq b fun q => { q with current := none })

/-! ## Feeder power, voltage setpoint and bound -/

/-- The active power in the latest values of the FEEDER_POWER slot. -/
def State.feederPower (s : State) (b : Berth) : Option Int := ((s.meas.get b).feeder.latest).map (·.power)

/-- Whether the FEEDER_POWER slot is fresh. -/
def State.feederFresh (s : State) (b : Berth) : Bool := (s.meas.get b).feeder.fresh == .fresh

/-- The feeder power as an EVENT's word (11.6); 0 where the slot holds none (R191). -/
def State.feederWord (s : State) (b : Berth) : Word := putInt 0 32 ((s.feederPower b).getD 0)

/-- The duration of the energise ramp of the berth in µs. -/
def State.energiseRampUs (s : State) (b : Berth) : Nat := (s.params.get b).energiseRampS * Config.secUs

/-- R103, R114: the voltage setpoint in whole V, rounded down (log 12). -/
def State.voltSetpoint (s : State) (b : Berth) : Nat :=
  match (s.seq.get b).volt with
  | .zero => 0
  | .rising us => min (s.nominalVolt b) (s.nominalVolt b * us / s.energiseRampUs b)
  | .nominal => s.nominalVolt b
  | .falling us => s.nominalVolt b * (s.energiseRampUs b - us) / s.energiseRampUs b

/-- R107: the smaller of the contracted demand and the healthy capacity, in kW. -/
def State.bound (s : State) (b : Berth) : Nat := min (s.demand b) (s.healthy b)

/-! ## Ramp direction and holds (R98, R106, R110, R117, R120) -/

/-- The ramp direction that a berth context calls for. -/
def Seq.wantDir (q : Seq) : Direction :=
  if q.staleHold || q.lostHold then .level
  else
    match q.state with
    | .parallelIn => if q.setpoint < q.target * Config.powerUnit then .rising else .level
    | .parallelOut => if 0 < q.setpoint then .falling else .level
    | _ => .level

/-- R98: the ramp direction follows the context; each change is a blanking event of the berth's modules (R29). -/
def refreshDirection (b : Berth) (s : State) : State :=
  if (s.seq.get b).dir = (s.seq.get b).wantDir then s
  else blankBerth b (s.updSeq b fun q => { q with dir := q.wantDir })

/-- R117: the stale feeder hold is set in a parallel state while the FEEDER_POWER slot is not fresh. -/
def holdIfStale (b : Berth) (s : State) : State :=
  if (s.seq.get b).state.isParallel && !s.feederFresh b then s.updSeq b fun q => { q with staleHold := true } else s

/-! ## Overload and reverse power (R115 to R117) -/

/-- R115: the overload condition. -/
def State.overloaded (s : State) (b : Berth) : Bool :=
  match s.feederPower b with
  | none => false
  | some p => decide ((s.healthy b : Int) < p)

/-- R116: the reverse power condition. -/
def State.reversed (s : State) (b : Berth) : Bool :=
  match s.feederPower b with
  | none => false
  | some p => decide (p < -(s.prot.reverseKw : Int))

/-- R115 to R117: a protection timer after an evaluation: stopped where the condition does not hold; else running, and
held while the slot is not fresh; started with `dur` where it was stopped. -/
def judgeTimer (cond fresh : Bool) (dur : Nat) (t : Timer) : Timer :=
  if cond then
    let left := match t with
      | .stopped => dur
      | .running n => n
      | .held n => n
    if fresh then .running left else .held left
  else .stopped

/-- R115, R116: an evaluation of both conditions in the states that judge them. -/
def judge (b : Berth) (s : State) : State :=
  let st := (s.seq.get b).state
  s.updSeq b fun q =>
    { q with
      overload :=
        if st.judgesOverload then
          judgeTimer (s.overloaded b) (s.feederFresh b) (s.prot.overloadMs * Config.msUs) q.overload
        else q.overload
      reverse :=
        if st.judgesReverse then judgeTimer (s.reversed b) (s.feederFresh b) Config.reversePowerUs q.reverse
        else q.reverse }

/-! ## Capacity reports (R6, R107) -/

/-- R107: the target and the setpoint after a capacity report. -/
def clampRamp (bound : Nat) (q : Seq) : Seq :=
  let q := if q.state.isParallel then { q with target := bound } else q
  match q.state with
  | .parallelIn | .parallelOut | .opening => { q with setpoint := min q.setpoint (bound * Config.powerUnit) }
  | _ => q

/-- R6, R107, R115: the sequencer's use of a report of the berth's healthy capacity. Where the report clamps the setpoint,
the shares are recomputed once, after the clamp, from the healthy set and the setpoint as both then stand, and R29 judges
that one step (DESIGN CHOICE, log 49). -/
def capacityReport (b : Berth) (s : State) : State :=
  judge b (recomputeShares b (refreshDirection b (s.updSeq b (clampRamp (s.bound b)))))

/-- R6, R17: after an event that may have changed the berth's healthy modules: the report is made where the healthy
capacity is not what it was, and the shares are recomputed, once, in any case (log 49). -/
def reportIfChanged (b : Berth) (before : Nat) (s : State) : State :=
  if s.healthy b = before then recomputeShares b s else capacityReport b s

/-! ## Entry to a state (R98) -/

/-- R103, R114: the voltage setpoint on entry to a state. -/
def voltOnEntry (new : BerthState) (old : VoltRamp) : VoltRamp :=
  match new with
  | .energising => .rising 0
  | .deEnergising => if old = .zero then .zero else .falling 0
  | .idle | .waitingModules | .tripped => .zero
  | _ => .nominal

/-- R110: the start value of the setpoint in PARALLEL_OUT. -/
def startValue (power : Option Int) (bound : Nat) : Nat := min ((power.getD 0).toNat) bound * Config.powerUnit

/-- R98: the setpoint on entry to a state. -/
def setpointOnEntry (new : BerthState) (power : Option Int) (bound old : Nat) : Nat :=
  match new with
  | .parallelOut => startValue power bound
  | .opening => min old (bound * Config.powerUnit)
  | _ => 0

/-- R106, R110: the ramp target on entry to a state; it keeps its value where no rule sets it (log 26). -/
def targetOnEntry (new : BerthState) (bound old : Nat) : Nat :=
  match new with
  | .parallelIn => bound
  | .parallelOut => 0
  | _ => old

/-- R105: the sync timer on entry to a state. -/
def syncOnEntry (p : BerthParams) (old new : BerthState) (t : Timer) : Timer :=
  match new with
  | .matching | .armed => if old.isWatching then t else .running (p.syncTimeoutS * Config.secUs)
  | _ => .stopped

/-- R111: the parallel timer on entry to a state. -/
def parallelOnEntry (p : BerthParams) (old new : BerthState) (t : Timer) : Timer :=
  match new with
  | .parallelIn => .running (p.parallelS * Config.secUs)
  | .parallelOut => if old = .parallelIn then t else .running (p.parallelS * Config.secUs)
  | _ => .stopped

/-- R98: the berth context on entry to a state; `lost` says whether the station is SUPERVISOR_LOST (R120). -/
def enterContext (p : BerthParams) (now : Word) (lost : Bool) (power : Option Int) (bound : Nat) (new : BerthState)
    (q : Seq) : Seq :=
  { q with
    state := new, entry := now
    setpoint := setpointOnEntry new power bound q.setpoint, target := targetOnEntry new bound q.target
    lostHold := q.lostHold || (new == .parallelIn && lost), volt := voltOnEntry new q.volt
    energise :=
      if new = .energising then .running (p.energiseRampS * Config.secUs + Config.energiseExtraUs) else .stopped
    syncT := syncOnEntry p q.state new q.syncT, parallel := parallelOnEntry p q.state new q.parallel
    overload := .stopped, reverse := .stopped }

/-- R80: the prediction is dropped when the berth leaves MATCHING or ARMED for any state but CLOSING. -/
def dropPrediction (u : Sync) : Sync := { u with prediction := none, closeDue := .stopped }

/-- Whether R80 applies to a change of state. -/
def leavesWatch (old new : BerthState) : Bool := old.isWatching && !new.isWatching && new != .closing

/-- Whether the station is SUPERVISOR_LOST. -/
def State.isLost (s : State) : Bool := s.page.presence == .lost

/-- R98: the berth enters a state, with everything that the state drives. -/
def enterState (b : Berth) (new : BerthState) (s : State) : State :=
  let old := (s.seq.get b).state
  let s := if old = .shoreOnly ∧ new ≠ .parallelOut then noteInterruption b s else s
  let s := if leavesWatch old new then s.updSync b dropPrediction else s
  let s := s.updSeq b (enterContext (s.params.get b) s.now s.isLost (s.feederPower b) (s.bound b) new)
  let s := refreshModes b (oscEnter b new s)
  judge b (recomputeShares b (refreshDirection b (holdIfStale b s)))

/-! ## Pulses and trips -/

/-- R85: a trip pulse; a close pulse of the berth ends at once. -/
def issueTrip (b : Berth) (s : State) : State :=
  s.updSync b fun u => { u with closePulse := .stopped, tripPulse := .running Config.pulseUs }

/-- R118: entry to TRIPPED; a berth already there keeps its cause. -/
def enterTripped (b : Berth) (c : TripCause) (s : State) : State :=
  let left := (s.seq.get b).state
  if left = .tripped then s
  else
    let before := s.healthy b
    let s := blockModules b (enterState b .tripped (s.updSeq b fun q => { q with tripCause := some c }))
    let s := setSummary (.berthTrip b) (reportIfChanged b before s)
    let s := emitEvent .tripped c.toCause.code (some b) [put 0 32 left.code] s
    completeCurrent b .failed (some c.toCause) (noteTrip b s)

/-- R89: a controlled open. -/
def controlledOpen (b : Berth) (c : OpenCause) (s : State) : State :=
  issueTrip b (enterState b .opening (s.updSeq b fun q => { q with openCause := some c }))

/-! ## Energising (R103, R104) -/

/-- R103: whether the energising check passes. -/
def State.energiseCheck (s : State) (b : Berth) : Bool :=
  let slot := (s.meas.get b).shore
  slot.fresh == .fresh &&
    match slot.latest with
    | none => false
    | some p => decide (((p.volt : Int) - s.nominalVolt b).natAbs * 100 ≤ 5 * s.nominalVolt b)

/-- The modules assigned to a berth, bit m for Mm (11.6). -/
def State.moduleMask (s : State) (b : Berth) : Word :=
  ModuleId.list.foldl (fun w m => w ||| putBit m.num ((s.mods.get m).serves b)) 0

/-- R104: the berth's first ENERGISED since its CONNECT opens a session and produces CONNECTED. -/
def firstEnergised (b : Berth) (s : State) : State :=
  match (s.seq.get b).profile with
  | none => s
  | some p =>
    let s := openSession b p (s.updSeq b fun q => { q with firstEnergised := true })
    emitEvent .connected 0 (some b) [p.shipCode, put 0 16 p.callNumber.toNat, s.moduleMask b] s

/-- R104: the energising check passed: the berth enters ENERGISED. -/
def becomeEnergised (b : Berth) (s : State) : State :=
  let s := enterState b .energised s
  let s := if (s.seq.get b).firstEnergised then s else firstEnergised b s
  completeCurrent b .done none s

/-- R103, R104: the energising check, made once the voltage setpoint has reached nominal. -/
def checkEnergising (b : Berth) (s : State) : State :=
  if (s.seq.get b).state = .energising ∧ (s.seq.get b).volt = .nominal ∧ s.energiseCheck b = true then
    becomeEnergised b s
  else s

/-! ## Opening (R112, R119) -/

/-- The code of an open cause that may be absent. -/
def State.openCode (s : State) (b : Berth) : Nat := causeCode ((s.seq.get b).openCause.map OpenCause.toCause)

/-- R112: the opening is confirmed. -/
def openingConfirmed (b : Berth) (s : State) : State :=
  let s := enterState b .energised s
  let s := emitEvent .returned (s.openCode b) (some b) [s.feederWord b] s
  completeCurrent b .done ((s.seq.get b).openCause.map OpenCause.toCause) s

/-- R92, R119: an external open. -/
def externalOpen (b : Berth) (s : State) : State :=
  let left := (s.seq.get b).state
  let s := enterState b .energised s
  completeCurrent b .done (some .externalOpen) (emitEvent .externalOpen left.code (some b) [s.feederWord b] s)

/-! ## Entry to IDLE (R121) -/

/-- R121 step 4: the context's fields on entry to IDLE. -/
def idleContext (q : Seq) : Seq :=
  { q with
    profile := none, tripCause := none, openCause := none, firstEnergised := false, setpoint := 0, target := 0
    staleHold := false, lostHold := false }

/-- R121 step 5, R182: a pending parameter set comes into force. -/
def paramsIntoForce (b : Berth) (s : State) : State :=
  match s.pendingParams.get b with
  | none => s
  | some p => { s with params := s.params.set b p, pendingParams := s.pendingParams.set b none }

/-- R121 step 2: the RELEASED event of a berth that came from DE_ENERGISING. -/
def emitReleased (b : Berth) (s : State) : State :=
  let ws := match (s.seq.get b).profile with
    | some p => [p.shipCode, put 0 16 p.callNumber.toNat]
    | none => [0, 0]
  emitEvent .released 0 (some b) ws s

/-- R121: entry to IDLE. -/
def enterIdle (b : Berth) (s : State) : State :=
  let fromDe := (s.seq.get b).state = .deEnergising
  let s := closeSession b 1 s.clock.time s
  let s := if fromDe then emitReleased b s else s
  paramsIntoForce b ((enterState b .idle s).updSeq b idleContext)

/-! ## Feeder records and freshness (R110, R115 to R117) -/

/-- R117: the running protection timers of a berth are held; nothing is evaluated (R115). -/
def holdTimers (b : Berth) (s : State) : State :=
  s.updSeq b fun q => { q with overload := q.overload.hold, reverse := q.reverse.hold }

/-- R117: the FEEDER_POWER slot has gone stale. -/
def feederWentStale (b : Berth) (s : State) : State := holdTimers b (refreshDirection b (holdIfStale b s))

/-- R110: the release comparison. -/
def compareRelease (b : Berth) (power : Int) (s : State) : State :=
  if (s.seq.get b).state = .parallelOut ∧ power < ((s.params.get b).releaseKw : Int) then
    controlledOpen b .loadReturned s
  else s

/-- R115 to R117: an accepted feeder record that the sequencer is given or that makes the slot FRESH: the hold is cleared
and the conditions are judged. That a record accepted with status fault, which makes the slot FRESH, starts a stopped timer
whose condition holds is a DESIGN CHOICE (log 41). -/
def feederAccepted (b : Berth) (s : State) : State :=
  judge b (refreshDirection b (s.updSeq b fun q => { q with staleHold := false }))

/-! ## Loss of the supervisor (R120) -/

/-- R120: a sequencer at the loss of the supervisor. -/
def supervisorLost (b : Berth) (s : State) : State :=
  match (s.seq.get b).state with
  | .matching | .armed => completeCurrent b .aborted (some .lost) (enterState b .energised s)
  | .parallelIn => refreshDirection b (s.updSeq b fun q => { q with lostHold := true })
  | _ => s

/-- R120: a sequencer at the restoration of the station. -/
def supervisorRestored (b : Berth) (s : State) : State :=
  refreshDirection b (s.updSeq b fun q => { q with lostHold := false })

end Sys2Proof.Machine
end

