-- ==== Sys2Proof/Machine/PoolTry.lean ====
section
/-! DEFINITION. The pool try (01, R10) with replacement (R13) and the claim queue (R8, R9, R11, R12), and the ways
into and out of a berth's modules that call it. -/

namespace Sys2Proof.Machine

/-! ## Replacement (R13) -/

/-- R13: one module is given to berth `b` if it is a candidate and the berth's need stands. -/
def replaceWith (b : Berth) (m : ModuleId) (s : State) : State :=
  if s.needs b && (s.mods.get m).isCandidate then enterJoining b m s else s

/-- R13: the berth's need is served from the candidates in ascending index. -/
def serveNeed (b : Berth) (s : State) : State := forModules (replaceWith b) s

/-- R10 step 1: the needs of the berths, B0 before B1 before B2; a berth that is completing DE_ENERGISING is passed
over (log 16). -/
def serveNeeds (skip : Option Berth) (s : State) : State :=
  forBerths (fun b s => if skip = some b then s else serveNeed b s) s

/-! ## The claim queue (R8 to R12) -/

/-- R7: allocation for a berth from the candidates. -/
def State.allocation (s : State) (demand reserve : Nat) : Option (List ModuleId) :=
  allocate (s.pickModules Module.isCandidate) demand reserve

/-- R103: a berth whose modules have been given enters ENERGISING. -/
def energiseWith (b : Berth) (ms : List ModuleId) (s : State) : State := enterState b .energising (assignAll b ms s)

/-- R10 step 2: the head claim is tried, and each new head in the same way, until one cannot be served. -/
def serveClaims : List Claim → State → State
  | [], s => { s with claims := [] }
  | c :: cs, s =>
    match s.allocation c.demand c.reserve with
    | none => { s with claims := c :: cs }
    | some ms => serveClaims cs (energiseWith c.berth ms { s with claims := cs })

/-- R10: a try of the pool. -/
def tryPoolBut (skip : Option Berth) (s : State) : State :=
  let s := serveNeeds skip s
  serveClaims s.claims s

/-- R10: a try of the pool. -/
def tryPool (s : State) : State := tryPoolBut none s

/-- Whether the berth's claim is at the head of the queue. -/
def State.headClaim (s : State) (b : Berth) : Bool :=
  match s.claims with
  | c :: _ => c.berth == b
  | [] => false

/-- R9: the berth's claim leaves the queue. -/
def removeClaim (b : Berth) (s : State) : State := { s with claims := s.claims.filter fun c => c.berth != b }

/-- R9, R10: whether the head of the queue was removed is what decides whether the pool is tried. -/
def tryIf (headGone : Bool) (s : State) : State := if headGone then tryPool s else s

/-- R11: a claim with its claim timer; a timeout of 0 leaves the timer stopped. -/
def newClaim (b : Berth) (p : ShipProfile) (timeoutMin : Nat) : Claim :=
  { berth := b, demand := p.demand, reserve := p.reserve
    timer := if timeoutMin = 0 then .stopped else .running (timeoutMin * Config.minUs) }

/-- R8: the pool's answer to a CONNECT. -/
inductive PoolAnswer
  | unservable
  | served (ms : List ModuleId)
  | queued
  deriving DecidableEq, Repr

/-- R8. -/
def State.poolAnswer (s : State) (p : ShipProfile) : PoolAnswer :=
  if (allocate (s.pickModules (·.present)) p.demand p.reserve).isNone then .unservable
  else if s.claims.isEmpty then
    match s.allocation p.demand p.reserve with
    | some ms => .served ms
    | none => .queued
  else .queued

/-! ## Release (R15, R114) -/

/-- R114, R15, R121: DE_ENERGISING is complete: the modules are released, the pool is tried and the berth enters IDLE;
DISCONNECT completes. -/
def deEnergised (b : Berth) (s : State) : State :=
  let before := s.healthy b
  let s := reportIfChanged b before (releaseModules b s)
  let s := enterIdle b (tryPoolBut (some b) s)
  completeCurrent b .done none s

/-- R13: a try where the berth has a replacement need. -/
def tryIfNeeded (b : Berth) (s : State) : State := if s.needs b then tryPool s else s

/-- R14, R118: a berth leaves TRIPPED for ENERGISING on CLEAR. -/
def rejoin (b : Berth) (s : State) : State :=
  tryIfNeeded b (unblockModules b (enterState b .energising s))

end Sys2Proof.Machine
end

