-- ==== Sys2Proof/Machine/SyncUnit.lean ====
section
/-! DEFINITION. The Synchronising Units and the breaker lines (05): the residual, the sync window, arming and the close
prediction, the close pulse and its confirm, and breaker movements. -/

namespace Sys2Proof.Machine

/-! ## The prediction residual (R77) -/

/-- R77: the residual of a phasor against the one before it, in whole phase units. -/
def residualOf (prev p : Phasor) : Nat :=
  divNearest (signedTurn ((p.phase : Int) * Config.unitQ - prev.phaseAt p.stamp)).natAbs Config.unitQ

/-- R77: an accepted ship phasor. -/
def takeShipPhasor (p : Phasor) (u : Sync) : Sync :=
  { u with prev := some p, residual := u.prev.map fun q => residualOf q p }

/-- R77: the ship slot is no longer fresh. -/
def forgetShipPhasor (u : Sync) : Sync := { u with prev := none, residual := none }

/-- R77, R87: whether a number of phase units lies within an angle in degrees. -/
def withinAngle (units deg : Nat) : Bool := decide (units * 360 ≤ deg * 65536)

/-! ## The sync window (R78) -/

/-- R78 condition 3: the shore phasor's voltage less the ship phasor's. -/
def voltDifference (ship shore : Option Phasor) : Option Int :=
  match ship, shore with
  | some a, some c => some ((c.volt : Int) - a.volt)
  | _, _ => none

/-- R78 condition 4: the oscillator's whole-mHz frequency less the ship phasor's. -/
def slipOf (o : Osc) (ship : Option Phasor) : Option Int := ship.map fun a => (o.readFreq : Int) - a.freq

/-- R78 condition 3. -/
def voltOk (p : BerthParams) (nominal : Nat) (d : Option Int) : Bool :=
  match d with
  | some v => decide (v.natAbs * 100 ≤ p.voltMax * nominal)
  | none => false

/-- R78 condition 4. -/
def slipOk (p : BerthParams) (d : Option Int) : Bool :=
  match d with
  | some x => decide (10 ≤ x ∧ (p.slipTarget : Int) - p.slipTolerance ≤ x ∧ x ≤ (p.slipTarget : Int) + p.slipTolerance)
  | none => false

/-- R78 condition 5. -/
def residualOk (p : BerthParams) (r : Option Nat) : Bool :=
  match r with
  | some n => withinAngle n p.angleMax
  | none => false

/-- R78: an evaluation of the sync window. The voltage difference or the slip is absent where a slot holds no values (log
52). -/
def State.evalWindow (s : State) (b : Berth) : WindowResult :=
  let m := s.meas.get b
  let o := s.osc.get b
  let p := s.params.get b
  let v := voltDifference m.ship.latest m.shore.latest
  let x := slipOf o m.ship.latest
  let c1 := m.ship.fresh == .fresh && m.shore.fresh == .fresh
  let c2 := o.effective == .trackSlip
  let c3 := voltOk p (s.nominalVolt b) v
  let c4 := slipOk p x
  let c5 := residualOk p (s.sync.get b).residual
  { holds := c1 && c2 && c3 && c4 && c5, c1 := c1, c2 := c2, c3 := c3, c4 := c4, c5 := c5, voltDiff := v, slip := x }

/-! ## The prediction (R81) -/

/-- R81 step 5: one slip period in µs, to the nearest (log 14). -/
def slipPeriod (slip : Nat) : Nat := divNearest 1000000000 slip

/-- R81 step 3: the time to coincidence in µs, to the nearest (log 14). -/
def timeToCoincidence (lead : Int) (slip : Nat) : Nat :=
  divNearest ((-lead) % Config.turnQ).toNat (slip * Config.quantaPerMhzUs)

/-- R81 steps 3 to 5: the time to the coincidence that is predicted. -/
def sweepTime (lead : Int) (slip closeUs : Nat) : Nat :=
  let t := timeToCoincidence lead slip
  if t < closeUs then t + slipPeriod slip else t

/-- R81: the prediction is set with its close due timer. -/
def setPrediction (now : Word) (sweep closeUs : Nat) (u : Sync) : Sync :=
  { u with
    prediction := some { coincidence := stampAfter now sweep, due := stampAfter now (sweep - closeUs) }
    closeDue := .running (sweep - closeUs) }

/-- The breaker close time of the berth in µs. -/
def State.closeUs (s : State) (b : Berth) : Nat := (s.params.get b).closeTimeMs * Config.msUs

/-- R81: compute the prediction from the present window result. -/
def predict (b : Berth) (s : State) : State :=
  match (s.meas.get b).ship.latest, (s.sync.get b).window.slip with
  | some p, some x =>
    s.updSync b (setPrediction s.now (sweepTime ((s.osc.get b).lead p s.now) x.toNat (s.closeUs b)) (s.closeUs b))
  | _, _ => s

/-! ## Evaluation (R79) -/

/-- R79: what an evaluation does in MATCHING and ARMED. -/
def evaluate (b : Berth) (s : State) : State :=
  let st := (s.seq.get b).state
  if st.isWatching then
    let w := s.evalWindow b
    let s := s.updSync b fun u => { u with window := w }
    if w.holds then predict b (if st = .matching then enterState b .armed s else s)
    else if st = .armed then enterState b .matching (s.updSync b dropPrediction)
    else s
  else s

/-- R79: the start of watching on an accepted SYNC, and the first evaluation. -/
def startWatching (b : Berth) (s : State) : State :=
  evaluate b (s.updSync b fun u => { u with closeUsed := false, prediction := none, closeDue := .stopped })

/-! ## The due instant (R83) and the close pulse (R84) -/

/-- R83 step 2: the prediction moves one slip period later. -/
def postponeClose (period : Nat) (u : Sync) : Sync :=
  { u with
    prediction := u.prediction.map fun p =>
      { coincidence := stampAfter p.coincidence period, due := stampAfter p.due period }
    closeDue := .running period }

/-- R83 step 4, R84: the close pulse. -/
def pulseClose (now : Word) (closeUs : Nat) (u : Sync) : Sync :=
  { u with
    closeUsed := true, closeCount := u.closeCount + 1, closePulse := .running Config.pulseUs
    closeConfirm := .running (closeUs + Config.closeConfirmExtraUs), closeDue := .stopped, pulseStart := now }

/-- R83: the due instant of a close. -/
def closeDue (b : Berth) (s : State) : State :=
  let w := s.evalWindow b
  let s := s.updSync b fun u => { u with window := w }
  if !w.holds then enterState b .matching (s.updSync b dropPrediction)
  else
    let u := s.sync.get b
    if u.deadTime.isRunning || s.tripLine b || u.closeUsed then
      s.updSync b (postponeClose (slipPeriod ((w.slip.getD 0).toNat)))
    else enterState b .closing (s.updSync b (pulseClose s.now (s.closeUs b)))

/-! ## Close confirm (R86 to R88) -/

/-- R86: the angle at feedback. -/
def State.feedbackAngle (s : State) (b : Berth) : Option Int :=
  if s.shipFresh b then ((s.meas.get b).ship.latest).map fun p => (s.osc.get b).phaseError p s.now else none

/-- R87: whether a close is rough. -/
def isRough (angle : Option Int) (angleMax : Nat) : Bool :=
  match angle with
  | some d => !withinAngle d.natAbs angleMax
  | none => false

/-- R86, R87: the last close record. -/
def State.closeRecord (s : State) (b : Berth) : LastClose :=
  let a := s.feedbackAngle b
  { angle := a, timeUs := (s.now - (s.sync.get b).pulseStart).toNat, rough := isRough a (s.params.get b).angleMax }

/-- R87: the ROUGH_CLOSE event of a rough close. -/
def emitRough (b : Berth) (r : LastClose) (s : State) : State :=
  if r.rough then
    emitEvent .roughClose 0 (some b)
      [putInt 0 32 (r.angle.getD 0), putInt 0 32 ((s.sync.get b).window.slip.getD 0), put 0 32 r.timeUs] s
  else s

/-- R86, R106: a rise in CLOSING confirms the close. -/
def confirmClose (b : Berth) (s : State) : State :=
  let r := s.closeRecord b
  let s := emitRough b r (s.updSync b fun u => { u with closeConfirm := .stopped, lastClose := some r })
  let s := enterState b .parallelIn (noteParallel b s)
  let s := emitEvent .paralleled (if r.angle.isSome then 1 else 0) (some b)
    [putInt 0 32 (r.angle.getD 0), put 0 32 r.timeUs] s
  completeCurrent b .done none s

/-- R88: the close has failed. -/
def closeFailed (b : Berth) (s : State) : State :=
  completeCurrent b .failed (some .closeFailed)
    (enterState b .energised (s.updSync b fun u => { u with closeConfirm := .stopped }))

/-! ## Breaker movements (R90 to R93) -/

/-- R91, R102, R119: an uncommanded close. The second trip mark is cleared, for the watch state to be NOT_WATCHING
(log 32). -/
def uncommandedClose (b : Berth) (s : State) : State :=
  let head := s.headClaim b
  let s := (issueTrip b s).updSync b fun u => { u with closeDue := .stopped, secondTrip := false }
  tryIf head (enterTripped b .uncommandedClose (removeClaim b s))

/-- R76: a rise of the breaker view, outside the trip hold. -/
def breakerRise (b : Berth) (s : State) : State :=
  match (s.seq.get b).state with
  | .closing => confirmClose b s
  | .parallelIn | .shoreOnly | .parallelOut | .opening => s
  | _ => uncommandedClose b s

/-- R93: every fall starts the dead-time timer. -/
def startDeadTime (b : Berth) (s : State) : State :=
  s.updSync b fun u => { u with deadTime := .running ((s.params.get b).deadTimeS * Config.secUs) }

/-- R76: a fall of the breaker view, outside the trip hold. -/
def breakerFall (b : Berth) (s : State) : State :=
  let s := startDeadTime b s
  match (s.seq.get b).state with
  | .opening => openingConfirmed b (s.updSync b fun u => { u with openConfirm := .stopped })
  | .parallelIn | .shoreOnly | .parallelOut => externalOpen b s
  | _ => s

/-- R76: the surroundings drive the BRK_CLOSED input of a berth; a change of its level restarts the filter. No row of the
table is a change of the unfiltered input, so no command calls this (log 8). -/
def State.driveBreaker (s : State) (b : Berth) (closed : Bool) : State :=
  s.updSync b fun u => if u.level = closed then u else { u with level := closed, heldUs := 0 }

/-- R76: one microsecond of the filter. -/
def Sync.filterTick (u : Sync) : Nat := if u.level = u.view then 0 else u.heldUs + 1

/-- R76: the input has held a level other than the view's for 5 ms. -/
def Sync.filterDue (u : Sync) : Bool := u.level != u.view && decide (Config.breakerFilterUs ≤ u.heldUs)

/-- R76, R96: the filter has accepted a level, at which the input stands: the view follows. -/
def setView (b : Berth) (closed : Bool) (s : State) : State :=
  s.updSync b fun u => { u with level := closed, heldUs := 0, view := closed }

/-- R90: the open confirm timer has expired. -/
def openFailed (b : Berth) (s : State) : State :=
  enterTripped b .openFailed
    (issueTrip b (s.updSync b fun u => { u with openConfirm := .stopped, secondTrip := true }))

/-- R85, R89, R90: the trip pulse has ended, and with it the second trip mark, whatever state the berth is in by then. -/
def tripPulseEnd (b : Berth) (s : State) : State :=
  let st := (s.seq.get b).state
  s.updSync b fun u =>
    { u with
      tripPulse := .stopped
      openConfirm := if st = .opening then .running Config.openConfirmUs else u.openConfirm
      secondTrip := false }

end Sys2Proof.Machine
end

