-- ==== Sys2Proof/Machine/Faults.lean ====
section
/-! DEFINITION. Module status records, faults and retries (01 sections 1.9, 02): acceptance of a record, deglitching,
the retry ladder, lockout, staleness, and the service actions. -/

namespace Sys2Proof.Machine

/-! ## The retry ladder (R31 to R35) -/

/-- R31, R32: a module enters a retry wait. -/
def enterRetryWait (b : Berth) (run : RunState) (delayUs : Nat) (m : ModuleId) (s : State) : State :=
  refreshMode m (s.updMod m fun r =>
    { r with
      standing := .assigned b run, deglitch := ⟨0, 0, 0, 0⟩, retryWait := .running delayUs, retryWindow := .stopped })

/-- R35: a module is locked out; `cause` is the word of the counted fault's cause (11.6). -/
def lockOut (b : Berth) (cause : Word) (m : ModuleId) (s : State) : State :=
  let r := s.mods.get m
  let s := (leaveBerth .lockedOut m s).updMod m fun r =>
    { r with fastCount := 0, slowCount := 0, retryWait := .stopped, retryWindow := .stopped, blankExpiry := none }
  setSummary .moduleLockout
    (emitEvent .moduleLockout m.num (some b) [cause, put 0 32 r.fastCount, put 0 32 r.slowCount] s)

/-- R31: a counted fault of a module of berth `b`. -/
def countedFault (b : Berth) (cause : Word) (m : ModuleId) (s : State) : State :=
  let r := s.mods.get m
  if r.fastCount < s.prot.fastCount then
    enterRetryWait b .retryWaitFast (s.prot.fastDelayMs * Config.msUs) m
      (s.updMod m fun r => { r with fastCount := r.fastCount + 1 })
  else if r.slowCount < s.prot.slowCount then
    enterRetryWait b .retryWaitSlow (s.prot.slowDelayS * Config.secUs) m
      (s.updMod m fun r => { r with slowCount := r.slowCount + 1 })
  else lockOut b cause m s

/-! ## Deglitching (R28, R29) -/

/-- R27: the counting condition; the berth whose module it is. -/
def Standing.counting? : Standing → Option Berth
  | .assigned b .joining | .assigned b .running => some b
  | _ => none

/-- R28: a flag's deglitch count after a record. -/
def deglitchCount (shown counting : Bool) (n : Nat) : Nat :=
  if shown then (if counting then min (n + 1) 4 else n) else 0

/-- Apply a function to each pair of flag values. -/
def PerFlag.zip {α β γ : Type} (f : α → β → γ) (p : PerFlag α) (q : PerFlag β) : PerFlag γ :=
  ⟨f p.overcurrent q.overcurrent, f p.overtemp q.overtemp, f p.dcLink q.dcLink, f p.gate q.gate⟩

/-- R29: whether a module's blanking expiry lies ahead. -/
def Module.isBlanked (now : Word) (r : Module) : Bool :=
  match r.blankExpiry with
  | some e => decide (0 < stampDiff e now)
  | none => false

/-- R28, R29: the flags of a record as the deglitch counts take them. -/
def countedFlags (blanked : Bool) (f : PerFlag Bool) : PerFlag Bool :=
  { f with overcurrent := f.overcurrent && !blanked }

/-- R28: the flags whose counts have reached their thresholds. -/
def reached (deglitch : Nat) (shown : PerFlag Bool) (counts : PerFlag Nat) : PerFlag Bool :=
  PerFlag.zip (fun a b => a && b) shown
    ⟨decide (deglitch ≤ counts.overcurrent), decide (deglitch ≤ counts.overtemp), decide (deglitch ≤ counts.dcLink),
      decide (1 ≤ counts.gate)⟩

/-- R28: the fault flags of an accepted record are counted. -/
def countFlags (m : ModuleId) (f : PerFlag Bool) (s : State) : State :=
  let r := s.mods.get m
  let shown := countedFlags (r.isBlanked s.now) f
  let counting := r.standing.counting?.isSome
  let counts := PerFlag.zip (fun sh n => deglitchCount sh counting n) shown r.deglitch
  let s := s.updMod m fun r => { r with deglitch := counts }
  match r.standing.counting? with
  | none => s
  | some b =>
    let hit := reached s.prot.deglitch shown counts
    if hit.any then countedFault b (lockoutCause hit false) m s else s

/-! ## Acceptance of a status record (R21, R22) -/

/-- R16: a returning module is given back; the blanking of this change of mode comes before the flags of its record are
counted (DESIGN CHOICE, log 46). -/
def giveBack (m : ModuleId) (s : State) : State :=
  (leaveBerth .available m s).updMod m fun r => { r with retryWindow := .stopped }

/-- R22 step 4: a JOINING module that reports RUNNING; give-back is checked when it was returning (R16). -/
def joinRunning (m : ModuleId) (x : StatusReport) (s : State) : State :=
  match (s.mods.get m).standing with
  | .assigned b .joining =>
    if x.state = .running then
      let back := (s.mods.get m).returning && s.meetsWithout b m
      let s := s.updMod m fun r => { r with standing := .assigned b .running, returning := false }
      if back then giveBack m s else s
    else s
  | _ => s

/-- R22 steps 1 to 3. -/
def takeStatus (m : ModuleId) (x : StatusReport) (s : State) : State :=
  s.updMod m fun r =>
    { r with latest := some x, staleTimer := .running Config.statusStaleUs, stale := false, fit := !x.flags.any }

/-- R6, R17: the report for the berth a module served before an event. -/
def reportFor (b : Option Berth) (old new : State) : State :=
  match b with
  | some b => reportIfChanged b (old.healthy b) new
  | none => new

/-- R10, R13: a try for a need that the lockout of module `m` has raised in the berth it served. -/
def tryAfterLockout (b : Option Berth) (m : ModuleId) (s : State) : State :=
  match b, (s.mods.get m).standing with
  | some b, .lockedOut => tryIfNeeded b s
  | _, _ => s

/-- R22: an accepted status record takes effect as one whole; then the report (R6) and the try (R10). A record that shows
OVERCURRENT and itself changes the healthy set may bring a share step that blanks: its flags are counted before the shares
are recomputed (DESIGN CHOICE, log 46). -/
def acceptStatus (m : ModuleId) (x : StatusReport) (s : State) : State :=
  let r := s.mods.get m
  let b := r.standing.berth?
  let t := countFlags m x.flags (joinRunning m x (takeStatus m x s))
  let r' := t.mods.get m
  let t' := reportFor b s t
  if r'.standing = .available ∧ (b.isSome = true ∨ (r'.fit = true ∧ (r.fit = false ∨ r.stale = true))) then tryPool t'
  else tryAfterLockout b m t'

/-- R21: a status record for a module. -/
def statusRecord (m : ModuleId) (ws : List Word) (s : State) : State :=
  let x := parseStatus ws
  if checkSum ws ≠ 0 then s.updMod m fun r => { r with badCount := sat8 (r.badCount + 1) }
  else
    match (s.mods.get m).latest with
    | some y => if y.seq = x.seq then s else acceptStatus m x s
    | none => acceptStatus m x s

/-! ## Timers of a module (R23, R30, R33, R34) -/

/-- R23, R30: the status staleness timer of a module has expired. -/
def statusStale (m : ModuleId) (s : State) : State :=
  let b := (s.mods.get m).standing.counting?
  let t := s.updMod m fun r => { r with stale := true, fit := false, staleTimer := .stopped }
  match b with
  | none => t
  | some b =>
    tryAfterLockout (some b) m
      (reportIfChanged b (s.healthy b) (countedFault b (lockoutCause ⟨false, false, false, false⟩ true) m t))

/-- R33: a module restarts at the end of its retry wait. -/
def restartModule (b : Berth) (m : ModuleId) (s : State) : State :=
  enterJoining b m (s.updMod m fun r =>
    { r with retryWait := .stopped, returning := true, retryWindow := .running Config.retryWindowUs })

/-- R33: a module whose berth is no longer active is released at the end of its retry wait. -/
def releaseAfterWait (m : ModuleId) (s : State) : State := tryPool (releaseModule m s)

/-- R33: the retry wait of a module has expired. -/
def retryWaitEnd (m : ModuleId) (s : State) : State :=
  match (s.mods.get m).standing with
  | .assigned b _ => if (s.seq.get b).state.isActive then restartModule b m s else releaseAfterWait m s
  | _ => s.updMod m fun r => { r with retryWait := .stopped }

/-! ## Service actions (R38 to R40) -/

/-- R38: the three actions. -/
inductive ServiceAction | clearLockout | takeOut | returnModule
  deriving DecidableEq, Repr

/-- 11.3: the action's code. -/
def ServiceAction.code : ServiceAction → BitVec 8
  | .clearLockout => 1
  | .takeOut => 2
  | .returnModule => 3

/-- 11.3: the action of a code. -/
def ServiceAction.ofCode? : Nat → Option ServiceAction
  | 1 => some .clearLockout
  | 2 => some .takeOut
  | 3 => some .returnModule
  | _ => none

/-- R38: the result of a request, with the service count raised. -/
def serviceResult (idx : BitVec 4) (action : BitVec 8) (o : ServiceOutcome) (s : State) : State :=
  { s with service := { idx := idx, action := action, outcome := o, count := s.service.count + 1 } }

/-- R39: CLEAR_LOCKOUT on a LOCKED_OUT module. -/
def clearLockout (m : ModuleId) (s : State) : State :=
  tryPool (s.updMod m fun r =>
    { r with standing := .available, deglitch := ⟨0, 0, 0, 0⟩, fastCount := 0, slowCount := 0 })

/-- R39, R40: the outcome of an action on a module, and the state after it. -/
def serve (a : ServiceAction) (m : ModuleId) (s : State) : ServiceOutcome × State :=
  match a, (s.mods.get m).standing with
  | _, .assigned _ _ => (.refusedAssigned, s)
  | .clearLockout, .lockedOut => (.done, clearLockout m s)
  | .takeOut, .available => (.done, s.updMod m fun r => { r with standing := .outOfService })
  | .returnModule, .outOfService => (.done, tryPool (s.updMod m fun r => { r with standing := .available }))
  | _, _ => (.refusedState, s)

/-- R38: a service request with one of the three actions. -/
def serviceRequest (a : ServiceAction) (idx : BitVec 4) (s : State) : State :=
  match ModuleId.ofNat? idx.toNat with
  | none => serviceResult idx a.code .badRequest s
  | some m =>
    let r := serve a m s
    serviceResult idx a.code r.1 r.2

/-- R38: a request whose action code is none of the three. -/
def badServiceRequest (idx : BitVec 4) (action : BitVec 8) (s : State) : State :=
  serviceResult idx action .badRequest s

end Sys2Proof.Machine
end

