-- ==== Sys2Proof/Machine/Intake.lean ====
section
/-! DEFINITION. The Measurement Intake (04): the five checks of a record, what an accepted record does, freshness, and
the meter register. -/

namespace Sys2Proof.Machine

/-! ## Checks (R60 to R64) -/

/-- R60: a failure is counted in the stream of berth `b`; every counter stops at 65,535. -/
def countFailure (b : Berth) (f : Counters → Counters) (s : State) : State :=
  s.updMeas b fun m => { m with counters := f m.counters }

/-- The staleness limit of the berth in µs. -/
def State.stalenessUs (s : State) (b : Berth) : Nat := (s.params.get b).stalenessMs * Config.msUs

/-- R61: the identity check. -/
def identityOk (b : Berth) (r : MeasRecord) : Bool := r.checkOk && r.berth == b.num && r.kind.isSome

/-- R62: the timestamp check. -/
def timeOk (now stamp : Word) (limitUs : Nat) : Bool := decide ((stampDiff stamp now).natAbs ≤ limitUs)

/-- R63: what the sequence check finds. -/
inductive SeqCheck
  | baseline
  | inOrder
  | gap (missing : Nat)
  | late
  deriving DecidableEq, Repr

/-- R63: the sequence check. -/
def Meas.seqCheck (m : Meas) (seq : BitVec 8) : SeqCheck :=
  if !m.baselineSet then .baseline
  else
    let d := (seq - m.expected).toNat
    if d = 0 then .inOrder else if d ≤ 127 then .gap d else .late

/-- R63: the stream after a record that passes its sequence check. -/
def moveExpected (b : Berth) (seq : BitVec 8) (s : State) : State :=
  s.updMeas b fun m => { m with baselineSet := true, expected := seq + 1 }

/-- R63: the stream after the sequence check, or nothing where the record is discarded. -/
def applySeq (b : Berth) (seq : BitVec 8) (s : State) : Option State :=
  match (s.meas.get b).seqCheck seq with
  | .baseline | .inOrder => some (moveExpected b seq s)
  | .gap d => some (noteGap b (countFailure b (fun c => { c with gap := sat16 (c.gap + d) }) (moveExpected b seq s)))
  | .late => none

/-- R64: the plausibility check of a phasor. -/
def plausible (p : Phasor) : Bool := decide (Config.freqMin ≤ p.freq ∧ p.freq ≤ Config.freqMax)

/-! ## Slots (R65, R66) -/

/-- R66: an accepted record refreshes its slot. -/
def Slot.refresh {α : Type} (limitUs : Nat) (v : Option α) (x : Slot α) : Slot α :=
  { fresh := .fresh, timer := .running limitUs
    latest := match v with
      | some a => some a
      | none => x.latest }

/-- R66: a slot goes stale; its latest values are kept. -/
def Slot.goStale {α : Type} (x : Slot α) : Slot α := { x with fresh := .stale, timer := .stopped }

/-! ## The meter register (R68 to R71) -/

/-- R70: where the difference of a reading goes. -/
def Meas.assignment (m : Meas) (band : Nat) : Assignment :=
  if m.bridge.isRunning then .toBand band m.staleBetween else .unattributed

/-- R69, R70: a reading against the baseline. -/
def compareReading (b : Berth) (base : RegisterBase) (f : Feeder) (s : State) : State :=
  if base.epoch = f.epoch then accrue b (f.register - base.value) ((s.meas.get b).assignment s.band) s
  else
    emitEvent .meterRestart 0 (some b)
      [put 0 8 base.epoch.toNat, base.value, put 0 8 f.epoch.toNat, f.register] s

/-- R68: a register reading is taken. -/
def takeReading (b : Berth) (f : Feeder) (s : State) : State :=
  let s := match (s.meas.get b).base with
    | none => s
    | some base => compareReading b base f s
  s.updMeas b fun m =>
    { m with
      base := some { value := f.register, epoch := f.epoch }
      bridge := .running (s.clock.inForce.bridgeS * Config.secUs), staleBetween := false }

/-! ## Accepted records (R65) -/

/-- R65: an accepted ship phasor. -/
def acceptShip (b : Berth) (p : Phasor) (s : State) : State :=
  let s := s.updMeas b fun m => { m with ship := m.ship.refresh (s.stalenessUs b) (some p) }
  let s := s.updOsc b (Osc.takePhasor (s.oscEnv b) p)
  evaluate b (s.updSync b (takeShipPhasor p))

/-- R65: an accepted shore phasor. -/
def acceptShore (b : Berth) (p : Phasor) (s : State) : State :=
  let s := s.updMeas b fun m => { m with shore := m.shore.refresh (s.stalenessUs b) (some p) }
  evaluate b (checkEnergising b s)

/-- R65: an accepted feeder record with meter status 0. -/
def acceptFeeder (b : Berth) (f : Feeder) (s : State) : State :=
  let s := s.updMeas b fun m => { m with feeder := m.feeder.refresh (s.stalenessUs b) (some f) }
  compareRelease b f.power (feederAccepted b (takeReading b f s))

/-- R64, R65: a feeder record accepted with status fault. The sequencer is told of the return to freshness (R117); a slot
that was FRESH is refreshed and nothing further happens. -/
def acceptFeederFault (b : Berth) (s : State) : State :=
  let wasFresh := s.feederFresh b
  let s := countFailure b (fun c => { c with meterStatus := sat16 (c.meterStatus + 1) }) s
  let s := s.updMeas b fun m => { m with feeder := m.feeder.refresh (s.stalenessUs b) none }
  if wasFresh then s else feederAccepted b s

/-- R64: the last two checks, and acceptance. -/
def takeValues (b : Berth) (k : SlotKind) (r : MeasRecord) (s : State) : State :=
  match k with
  | .shipPhasor =>
    if plausible r.phasor then acceptShip b r.phasor s
    else countFailure b (fun c => { c with implausible := sat16 (c.implausible + 1) }) s
  | .shorePhasor =>
    if plausible r.phasor then acceptShore b r.phasor s
    else countFailure b (fun c => { c with implausible := sat16 (c.implausible + 1) }) s
  | .feederPower => if r.meterStatus = 0 then acceptFeeder b r.feeder s else acceptFeederFault b s

/-- R60: a record handed to the intake through berth `b`'s window. -/
def takeMeasurement (b : Berth) (w0 w1 w2 w3 : Word) (s : State) : State :=
  let r := parseMeas w0 w1 w2 w3
  if !identityOk b r then countFailure b (fun c => { c with badRecord := sat16 (c.badRecord + 1) }) s
  else if !timeOk s.now r.stamp (s.stalenessUs b) then
    countFailure b (fun c => { c with timeBad := sat16 (c.timeBad + 1) }) s
  else
    match applySeq b r.seq s, r.kind with
    | some s', some k => takeValues b k r s'
    | _, _ => countFailure b (fun c => { c with outOfOrder := sat16 (c.outOfOrder + 1) }) s

/-! ## Staleness (R66) -/

/-- R66, R52, R77: the SHIP_PHASOR slot goes stale. -/
def shipStale (b : Berth) (s : State) : State :=
  let s := setSummary (.measureStale b) (s.updMeas b fun m => { m with ship := m.ship.goStale })
  evaluate b ((s.updOsc b (Osc.goStale (s.oscEnv b))).updSync b forgetShipPhasor)

/-- R66: the SHORE_PHASOR slot goes stale. -/
def shoreStale (b : Berth) (s : State) : State :=
  evaluate b (setSummary (.measureStale b) (s.updMeas b fun m => { m with shore := m.shore.goStale }))

/-- R66, R117: the FEEDER_POWER slot goes stale. -/
def feederStale (b : Berth) (s : State) : State :=
  let s := setSummary (.measureStale b) (s.updMeas b fun m =>
    { m with feeder := m.feeder.goStale, staleBetween := m.staleBetween || m.base.isSome })
  feederWentStale b (noteGap b s)

/-! ## A new window table (R73) -/

/-- R73: the intake of a berth takes new baselines; the counters are kept. -/
def Meas.rebase (m : Meas) : Meas :=
  { Meas.reset with expected := m.expected, counters := m.counters }

/-- R73, R77: every berth's intake takes new baselines on an accepted WINDOWS commit. -/
def rebaseIntake (s : State) : State :=
  forBerths (fun b s => (s.updMeas b Meas.rebase).updSync b forgetShipPhasor) s

end Sys2Proof.Machine
end

