-- ==== Sys2Proof/Machine/Clock.lean ====
section
/-! DEFINITION. The Tariff Clock (07, sections 7.1 to 7.4): ticks, boundaries, time sets and metrology. -/

namespace Sys2Proof.Machine

/-- Seconds in a day. -/
def daySeconds : Nat := 86400

/-- R125: the station time one second later. -/
def StationTime.succ (t : StationTime) : StationTime :=
  if t.second + 1 < daySeconds then { t with second := t.second + 1 } else ⟨t.day + 1, 0⟩

/-- R128: the first station time after the present one whose second is a multiple of the interval's length. -/
def nextBoundaryAfter (t : StationTime) (minutes : Nat) : StationTime :=
  let len := minutes * 60
  let n := (t.second / len + 1) * len
  if n < daySeconds then ⟨t.day, n⟩ else ⟨t.day + 1, 0⟩

/-- R136, R142: the berth's open session closes its interval at a boundary, unless it is carried. -/
def boundaryInterval (b : Berth) (s : State) : State :=
  if s.carried.isSome then s else splitInterval s.clock.time s.clock.time false b s

/-- R130: the pending metrology set comes into force, and the intervals that begin now are marked. -/
def metrologyIntoForce (s : State) : State :=
  match s.clock.pending with
  | none => s
  | some m =>
    let s := { s with clock := { s.clock with inForce := m, pending := none } }
    if s.carried.isSome then s else forBerths markMetrology s

/-- R128: a boundary. -/
def boundary (s : State) : State :=
  let s := metrologyIntoForce (forBerths boundaryInterval s)
  { s with clock := { s.clock with nextBoundary := nextBoundaryAfter s.clock.time s.clock.inForce.intervalMin } }

/-- R125: a tick. -/
def tick (s : State) : State :=
  let s := { s with
    clock := { s.clock with
      time := s.clock.time.succ, tickInstant := stampAfter s.clock.tickInstant Config.secUs } }
  if s.clock.time = s.clock.nextBoundary then boundary s else s

/-- The number of open sessions. -/
def State.openSessions (s : State) : Nat := Berth.list.countP fun b => (s.sessions.get b).isSome

/-- R126: a time set whose second is at most 86,399 is taken; another is not. The INTERVALs come in the order B0, B1, B2
and before TIME_STEP (DESIGN CHOICE, log 33), and all carry the new time as their time of production (DESIGN CHOICE,
log 43). -/
def timeSet (v : Word) (s : State) : State :=
  if daySeconds ≤ v.toNat then s
  else
    let old := s.clock.time
    let unset := s.clock.timeUnset
    let split := s.openSessions
    let new : StationTime := ⟨s.clock.stagedDay.getD old.day, v.toNat⟩
    let s := { s with
      clock := { s.clock with time := new, tickInstant := s.now, timeUnset := false, stagedDay := none } }
    let s := forBerths (splitInterval old new true) s
    let s := { s with clock := { s.clock with nextBoundary := nextBoundaryAfter new s.clock.inForce.intervalMin } }
    emitEvent .timeStep (if unset then 1 else 0) none
      [old.day, put 0 32 old.second, new.day, put 0 32 new.second, put 0 32 split] s

/-- R126: a write of TIME_SET_DAY. -/
def stageDay (d : Word) (s : State) : State := { s with clock := { s.clock with stagedDay := some d } }

/-! ## CONFIG_CHANGE (R129, 11.6) -/

/-- One schedule entry as 19 bits: start second in the low 17, band in the high 2. -/
def TariffEntry.bits (e : TariffEntry) : Nat := e.start % 131072 + (e.band % 4) * 131072

/-- 11.6: a schedule packed as 19-bit entries from bit 0 upward. -/
def packSchedule (sched : List TariffEntry) : Nat := sched.foldr (fun e acc => e.bits + acc * 524288) 0

/-- The `i`-th word of a packed number. -/
def packedWord (n i : Nat) : Word := put 0 32 (n / 4294967296 ^ i)

/-- 11.6: CONFIG_CHANGE's payload words. -/
def configWords (new old : Metrology) (replaced : Bool) : List Word :=
  let p := packSchedule new.schedule
  let q := packSchedule old.schedule
  [packedWord p 0, packedWord p 1, packedWord p 2, packedWord p 3,
    fields [packedWord p 4, put 24 3 (intervalCode new.intervalMin), putBit 31 replaced],
    fields [put 0 10 new.bridgeS, put 12 3 (intervalCode old.intervalMin), put 16 10 old.bridgeS],
    packedWord q 0, packedWord q 1, packedWord q 2, packedWord q 3, packedWord q 4]

/-- R129: an accepted METROLOGY commit. -/
def metrologyCommitted (m : Metrology) (s : State) : State :=
  let s := admitConfig
    { berth := none, session := 0, time := s.clock.time
      body := .configChange (configWords m s.clock.inForce s.clock.pending.isSome) } s
  { s with clock := { s.clock with pending := some m } }

end Sys2Proof.Machine
end

