-- ==== Sys2Proof/Machine/Status.lean ====
section
/-! DEFINITION. The words the chip supplies by substituted reads (11): module command records, berth status, and the
status words of the station page. -/

namespace Sys2Proof.Machine

/-! ## Module command records (R18, R20) -/

/-- R18: the current limit of a rating at a nominal voltage, in whole amperes. -/
def currentLimit (rating volt : Nat) : Nat := rating * 1000000 / (1732 * volt)

/-- R20: the words of a FORM or FOLLOW record of a module of berth `b`; `power` is word 5. -/
def liveRecord (s : State) (b : Berth) (r : Module) (power : Word) : List Word :=
  let o := s.osc.get b
  [fields [put 0 2 r.mode.code, put 4 2 b.num], put 0 32 o.readFreq, put 0 16 o.readPhase, s.now,
    put 0 32 (s.voltSetpoint b), power, put 0 32 (currentLimit r.rating (s.nominalVolt b)), 0]

/-- R20, R26: the eight words of a module's command record; OFF with every field 0 while the trip hold runs (R96). -/
def State.commandRecord (s : State) (m : ModuleId) : List Word :=
  let r := s.mods.get m
  match s.inHold, r.mode, r.standing.berth? with
  | false, .form, some b => liveRecord s b r (put 0 32 r.rating)
  | false, .follow, some b => liveRecord s b r (putInt 0 32 r.share)
  | false, .blocked, some b => [fields [put 0 2 r.mode.code, put 4 2 b.num], 0, 0, s.now, 0, 0, 0, 0]
  | _, _, _ => [0, 0, 0, 0, 0, 0, 0, 0]

/-- R20: word `n` of the MODULE_CMD window. -/
def State.cmdWord (s : State) (n : Nat) : Word :=
  match ModuleId.ofNat? (n / 8) with
  | some m => wordAt (s.commandRecord m) (n % 8)
  | none => 0

/-! ## Berth status (R122, 11.4) -/

/-- 11.4, words 19 to 24: remaining ms (log 13) and condition of a timer. -/
def timerWord (t : Timer) : Word := fields [put 0 24 (t.left / Config.msUs), put 30 2 t.code]

/-- R11: the claim timer of a berth. -/
def State.claimTimer (s : State) (b : Berth) : Timer :=
  match s.claims.find? fun c => c.berth == b with
  | some c => c.timer
  | none => .stopped

/-- The number of modules assigned to a berth. -/
def State.assignedCount (s : State) (b : Berth) : Nat := ModuleId.list.countP fun m => (s.mods.get m).serves b

/-- Word 8: the state, its causes and marks. -/
def contextWord (s : State) (b : Berth) : Word :=
  let q := s.seq.get b
  fields
    [put 0 4 q.state.code, put 4 4 (causeCode (q.tripCause.map TripCause.toCause)), put 8 4 (s.openCode b),
      putBit 12 (s.pendingParams.get b).isSome, putBit 13 q.profile.isSome, putBit 14 q.current.isSome,
      put 16 2 q.dir.code, putBit 18 q.staleHold, putBit 19 q.lostHold]

/-- Words 10 to 12: the ship profile. -/
def profileWords : Option ShipProfile → List Word
  | none => [0, 0, 0]
  | some p =>
    [p.shipCode, fields [put 0 16 p.callNumber.toNat, put 16 8 (p.demand / 100), put 24 2 p.reserve],
      fields [put 0 16 p.nominalFreq, put 16 16 p.nominalVolt]]

/-- Words 13 to 15: the current request, the last result and the request count. -/
def requestWords (q : Seq) : List Word :=
  [match q.current with
    | some r => fields [put 0 4 r.kind.code, put 16 16 r.tag.toNat]
    | none => 0,
    fields
      [put 0 4 q.last.kind.toNat, putBit 4 q.last.overtaken.isSome, put 8 4 q.last.outcome.code,
        put 12 4 (causeCode q.last.cause), put 16 16 q.last.tag.toNat],
    fields [put 0 16 ((q.last.overtaken.getD 0).toNat), put 16 16 q.count.toNat]]

/-- Words 16 to 24: setpoint, target, voltage, capacities and timers. -/
def rampWords (s : State) (b : Berth) : List Word :=
  let q := s.seq.get b
  [fields [put 0 16 q.wholeKw, put 16 16 q.target], fields [put 0 16 (s.voltSetpoint b), put 16 4 (s.assignedCount b)],
    fields [put 0 16 (s.healthy b), put 16 16 (s.standingCap b)],
    timerWord q.energise, timerWord q.syncT, timerWord q.parallel, timerWord q.overload, timerWord q.reverse,
    timerWord (s.claimTimer b)]

/-- Words 25 to 27: the oscillator's answer (R55); a glide target that is no whole mHz is shown rounded down (DESIGN
CHOICE, log 42). -/
def oscWords (fresh : Bool) (o : Osc) : List Word :=
  [fields
      [put 0 17 o.readFreq, put 17 3 o.requested.code, put 20 3 o.effective.code, putBit 24 o.lock,
        putBit 25 (o.sourceUnavailable fresh), putBit 26 o.running, putBit 27 o.lastError.isSome],
    fields [put 0 16 o.readPhase, putInt 16 16 (o.lastError.getD 0)], put 0 32 (o.target / Config.freqUnit)]

/-- Word 28: the Synchronising Unit's marks (R94). -/
def syncMarks (s : State) (b : Berth) : Word :=
  let u := s.sync.get b
  fields
    [put 0 3 (s.watch b).code, putBit 4 u.view, putBit 5 u.level, putBit 6 (s.closeLine b), putBit 7 (s.tripLine b),
      putBit 8 u.window.holds, putBit 9 u.window.c1, putBit 10 u.window.c2, putBit 11 u.window.c3,
      putBit 12 u.window.c4, putBit 13 u.window.c5, putBit 14 u.closeUsed, putBit 15 u.deadTime.isRunning,
      putBit 16 (u.lastClose.any (·.rough)), putBit 17 (u.lastClose.any (·.angle.isSome)), putBit 18 u.lastClose.isSome,
      putBit 19 u.prediction.isSome, putBit 20 u.residual.isSome]

/-- R94: the instant at which the dead-time timer will expire, 0 while it does not run. -/
def deadTimeInstant (now : Word) (t : Timer) : Word :=
  match t with
  | .running n => stampAfter now n
  | _ => 0

/-- The angle at feedback of the last close record, 0 where there is none. -/
def Sync.lastAngle (u : Sync) : Int :=
  match u.lastClose with
  | some r => r.angle.getD 0
  | none => 0

/-- The measured close time of the last close record, 0 where there is none. -/
def Sync.lastTime (u : Sync) : Nat :=
  match u.lastClose with
  | some r => r.timeUs
  | none => 0

/-- Words 28 to 35. -/
def syncWords (s : State) (b : Berth) : List Word :=
  let u := s.sync.get b
  [syncMarks s b,
    fields [putInt 0 16 (u.window.voltDiff.getD 0), putInt 16 16 (u.window.slip.getD 0)],
    fields [put 0 16 (u.residual.getD 0), put 16 16 u.closeCount.toNat],
    match u.prediction with
      | some p => p.coincidence
      | none => 0,
    match u.prediction with
      | some p => p.due
      | none => 0,
    deadTimeInstant s.now u.deadTime, putInt 0 32 u.lastAngle, put 0 32 u.lastTime]

/-- Words 36 to 39 and 40 to 43. -/
def phasorWords : Option Phasor → List Word
  | none => [0, 0, 0, 0]
  | some p => [put 0 32 p.freq, put 0 32 p.volt, put 0 32 p.phase, p.stamp]

/-- Words 44 to 47. -/
def feederWords : Option Feeder → List Word
  | none => [0, 0, 0, 0]
  | some f => [putInt 0 32 f.power, put 0 32 f.epoch.toNat, f.register, f.stamp]

/-- Word 48. -/
def streamWord (m : Meas) : Word :=
  fields
    [put 0 2 m.ship.fresh.code, put 2 2 m.shore.fresh.code, put 4 2 m.feeder.fresh.code, putBit 8 m.baselineSet,
      putBit 9 m.base.isSome, put 16 8 m.expected.toNat,
      put 24 8 (match m.base with
        | some x => x.epoch.toNat
        | none => 0)]

/-- R122: words 8 to 49 of a berth page, from one snapshot. -/
def State.berthStatus (s : State) (b : Berth) : List Word :=
  let q := s.seq.get b
  let m := s.meas.get b
  [contextWord s b, q.entry] ++ profileWords q.profile ++ requestWords q ++ rampWords s b ++
    oscWords (s.shipFresh b) (s.osc.get b) ++ syncWords s b ++ phasorWords m.ship.latest ++
    phasorWords m.shore.latest ++ feederWords m.feeder.latest ++ [streamWord m, put 0 32 (s.sessionNumber b).toNat]

/-- R122: word `n` of a berth page, 8 to 63; unlisted words read 0. -/
def State.berthWord (s : State) (b : Berth) (n : Nat) : Word := wordAt (s.berthStatus b) (n - 8)

/-! ## Status words of the station page (11.3) -/

/-- Words 222 to 225 (R158). -/
def State.journalWords (s : State) : List Word :=
  let j := s.jour
  [fields
      [put 0 2 j.channel.code, putBit 2 j.writing.isSome, putBit 3 s.ringConfigured, put 4 2 j.coalescing.code,
        putBit 6 (metrologyHeld j.queue != 0), put 7 2 (billingHeld j.queue .b0), put 9 2 (billingHeld j.queue .b1),
        put 11 2 (billingHeld j.queue .b2), put 13 3 (eventsHeld j.queue), put 16 5 j.queue.length,
        put 21 11 (unconsumed j.len j.produce j.consume)],
    fields [put 0 12 j.len, put 16 16 j.refusals], fields [put 0 11 j.produce, put 16 11 j.consume], j.nextSeq]

/-- Word 228 (R125). -/
def State.secondWord (s : State) : Word :=
  fields [put 0 17 s.clock.time.second, put 20 2 s.band, putBit 24 s.clock.timeUnset]

/-- Word 230 (R38). -/
def ServiceResult.word (r : ServiceResult) : Word :=
  fields [put 0 4 r.idx.toNat, put 8 8 r.action.toNat, put 16 4 r.outcome.code, put 24 8 r.count.toNat]

/-- Words 231 to 234 (R171). -/
def RefusedRecord.word (r : RefusedRecord) : Word := fields [put 0 16 r.count, put 16 3 r.cause.code]

/-- Words 235 to 242 (R24). The rating in 100 kVA is rounded down, where a module that is not present has a rating that is no
multiple of 100 (DESIGN CHOICE, log 48). -/
def Module.summary (r : Module) : Word :=
  fields
    [putBit 0 r.present, put 1 2 r.standing.code,
      put 3 2 (match r.standing.berth? with
        | some b => b.num
        | none => 0),
      put 5 3 (match r.standing.run? with
        | some x => x.code
        | none => 0),
      put 8 2 r.mode.code, putBit 10 r.fit, putBit 11 r.stale,
      put 12 2 (match r.latest with
        | some x => x.state.code
        | none => 0),
      put 16 5 (r.rating / 100), put 24 8 r.badCount]

/-- Words 243 to 251 (R72): word `n` of a berth's three. -/
def Counters.word (c : Counters) : Nat → Word
  | 0 => fields [put 0 16 c.badRecord, put 16 16 c.timeBad]
  | 1 => fields [put 0 16 c.outOfOrder, put 16 16 c.implausible]
  | _ => fields [put 0 16 c.meterStatus, put 16 16 c.gap]

/-- Word 254 (R187, 11.3); it has no field for the sections accepted, which word 255 shows (DESIGN CHOICE, log 47). -/
def Page.commitWord (p : Page) : Word :=
  fields
    [put 0 3 p.result.outcome.code, put 3 2 p.unlock.code, put 5 7 p.result.mask.toNat,
      put 12 3 (sectionCode p.result.sect), put 16 8 p.result.count.toNat, put 24 8 p.result.index]

/-- Word 255 (R187, 11.3), with the sections accepted since the last reset (log 47). -/
def State.statusWord (s : State) : Word :=
  fields
    [putBit 0 (s.page.cause == .line), putBit 1 s.clock.timeUnset, put 2 2 s.page.presence.code,
      putBit 4 s.bus.firstCommit, put 8 7 s.page.accepted.toNat]

/-- The tag of a refused-transfer record by its number. -/
def Tag.ofNat : Nat → Tag
  | 0 => .supervisor
  | 1 => .meter
  | 2 => .link
  | _ => .unknown

/-- R176: word `n` of the station page where it is answered by substitution; none where it is read from memory. -/
def State.stationWord (s : State) (n : Nat) : Option Word :=
  if n = 217 then some (s.page.summary.setWidth 32)
  else if 222 ≤ n ∧ n ≤ 225 then some (wordAt s.journalWords (n - 222))
  else if n = 226 then some (put 0 16 s.jour.lost)
  else if n = 227 then some s.clock.time.day
  else if n = 228 then some s.secondWord
  else if n = 230 then some s.service.word
  else if 231 ≤ n ∧ n ≤ 234 then some (s.bus.refused.get (Tag.ofNat (n - 231))).word
  else if 235 ≤ n ∧ n ≤ 242 then (ModuleId.ofNat? (n - 235)).map fun m => (s.mods.get m).summary
  else if 243 ≤ n ∧ n ≤ 251 then
    (Berth.ofNat? ((n - 243) / 3)).map fun b => (s.meas.get b).counters.word ((n - 243) % 3)
  else if n = 254 then some s.page.commitWord
  else if n = 255 then some s.statusWord
  else none

end Sys2Proof.Machine
end

