-- ==== Sys2Proof/Machine/Commit.lean ====
section
/-! DEFINITION. Configuration commits (10, section 10.2): the checks in their order, and what each section brings into
force. -/

namespace Sys2Proof.Machine

/-! ## Sections read from the shadow (11.3) -/

/-- Word `n` of the shadow as a number. -/
def State.cfg (s : State) (n : Nat) : Nat := (wordAt s.page.shadow n).toNat

/-- A flag word: any value but 0 is set (log 20). -/
def State.cfgFlag (s : State) (n : Nat) : Bool := s.cfg n != 0

/-- 11.3, words 4n to 4n + 3: a window entry as written. -/
structure RawEntry where
  base : Nat
  size : Nat
  kind : Nat
  berth : Nat
  deriving DecidableEq, Repr

/-- Entry `n` of the WINDOWS section. -/
def State.rawEntry (s : State) (n : Nat) : RawEntry :=
  { base := s.cfg (4 * n), size := s.cfg (4 * n + 1), kind := s.cfg (4 * n + 2), berth := s.cfg (4 * n + 3) }

/-- The WINDOWS section. -/
def State.rawTable (s : State) : List RawEntry := (List.range 12).map s.rawEntry

/-- An entry as the window table holds it. -/
def RawEntry.entry (e : RawEntry) : WindowEntry :=
  { base := e.base, size := e.size, kind := (WindowKind.ofCode? e.kind).getD .none, berth := e.berth }

/-- Words 48 + 16b onward: a berth parameter set. -/
def State.cfgParams (s : State) (b : Berth) : BerthParams :=
  let at' := fun i => s.cfg (48 + 16 * b.num + i)
  { configured := s.cfgFlag (48 + 16 * b.num), voltMax := at' 1, slipTarget := at' 2, slipTolerance := at' 3
    angleMax := at' 4, closeTimeMs := at' 5, deadTimeS := at' 6, rampRate := at' 7, releaseKw := at' 8
    parallelS := at' 9, syncTimeoutS := at' 10, energiseRampS := at' 11, slew := at' 12, islandSlew := at' 13
    stalenessMs := at' 14, claimTimeoutMin := at' 15 }

/-- Words 144 to 152. -/
def State.cfgProtection (s : State) : Protection :=
  { deglitch := s.cfg 144, blankingMs := s.cfg 145, fastDelayMs := s.cfg 146, fastCount := s.cfg 147
    slowDelayS := s.cfg 148, slowCount := s.cfg 149, heartbeatMs := s.cfg 150, overloadMs := s.cfg 151
    reverseKw := s.cfg 152 }

/-- A schedule word's entry (R190). -/
def scheduleEntry (w : Word) : TariffEntry := ⟨field w 0 17, field w 24 2⟩

/-- R179: word 160 and each following word up to the first whose start second is 0. -/
def scheduleWords (ws : List Word) : List Word :=
  match ws with
  | [] => []
  | w :: rest => w :: rest.takeWhile fun x => field x 0 17 != 0

/-- Words 160 to 169. -/
def State.cfgMetrology (s : State) : Metrology :=
  { schedule := (scheduleWords ((List.range 8).map fun i => wordAt s.page.shadow (160 + i))).map scheduleEntry
    intervalMin := s.cfg 168, bridgeS := s.cfg 169 }

/-! ## Range checks (R164, R179) -/

/-- A failed check: the section and the word index it reports. -/
structure Offence where
  sect : Option Section
  index : Nat
  deriving DecidableEq, Repr

/-- The first of a list of checks in ascending word order that fails. -/
def firstBad (sect : Section) (l : List (Nat × Bool)) : Option Offence :=
  (l.find? fun x => !x.2).map fun x => ⟨some sect, x.1⟩

/-- A word within a range, both ends inclusive (R1). -/
def State.within (s : State) (n lo hi : Nat) : Nat × Bool := (n, decide (lo ≤ s.cfg n ∧ s.cfg n ≤ hi))

/-- A word within a set. -/
def State.among (s : State) (n : Nat) (l : List Nat) : Nat × Bool := (n, l.contains (s.cfg n))

/-- R164: whether an entry's own fields are in order; an entry of kind NONE is not looked at further (R163). -/
def RawEntry.fieldsOk (e : RawEntry) : Bool :=
  if e.kind = 0 then true
  else
    decide (e.kind ≤ 5) && e.base % 256 == 0 && e.size % 256 == 0 && decide (256 ≤ e.size ∧ e.size ≤ 1048576) &&
      decide (e.base + e.size ≤ Config.stationPageBase) &&
      (if e.kind = 1 ∨ e.kind = 2 then decide (e.berth ≤ 2) else e.berth == 0) &&
      (if e.kind = 2 ∨ e.kind = 3 ∨ e.kind = 4 then e.size == 256 else true)

/-- R164: whether two entries of kind other than NONE overlap in any byte; an entry of size 0 has none. -/
def RawEntry.overlaps (a c : RawEntry) : Bool :=
  a.kind != 0 && c.kind != 0 && decide (max a.base c.base < min (a.base + a.size) (c.base + c.size))

/-- R164: whether two entries may not stand together: they overlap, are of one kind that may stand once, or are MEASURE
or BERTH_PAGE entries of one berth. -/
def RawEntry.clashes (a c : RawEntry) : Bool :=
  a.overlaps c || (a.kind == c.kind && (decide (3 ≤ a.kind) || (a.kind != 0 && a.berth == c.berth)))

/-- R164: whether entry `n` is in order beside the others. -/
def entryOk (t : List RawEntry) (n : Nat) : Bool :=
  match t[n]? with
  | none => true
  | some e =>
    e.fieldsOk && (List.range t.length).all fun k =>
      k == n || match t[k]? with
        | some c => !e.clashes c
        | none => true

/-- R164: whether each kind that must stand once does stand. -/
def singlesPresent (t : List RawEntry) : Bool := [3, 4, 5].all fun k => t.any fun e => e.kind == k

/-- R164: the WINDOWS section; the index reported is that of the lowest entry that takes part in a failure, and 0 where
a kind is missing (log 19). -/
def State.checkWindows (s : State) : Option Offence :=
  let t := s.rawTable
  match firstBad .windows ((List.range 12).map fun n => (4 * n, entryOk t n)) with
  | some o => some o
  | none => if singlesPresent t then none else some ⟨some .windows, 0⟩

/-- R43, R58, R75, R97, R11: the ranges of a berth parameter set, from its second word on. -/
def paramRanges : List (Nat × Nat) :=
  [(1, 10), (20, 300), (10, 100), (2, 20), (20, 200), (1, 60), (50, 2000), (50, 1000), (30, 600), (10, 300), (1, 20),
    (10, 1000), (10, 500), (50, 1000), (0, 60)]

/-- The checks of consecutive words against ranges. -/
def State.rangesFrom (s : State) : Nat → List (Nat × Nat) → List (Nat × Bool)
  | _, [] => []
  | n, (lo, hi) :: rest => s.within n lo hi :: s.rangesFrom (n + 1) rest

/-- R179: the BERTHS section. -/
def State.checkBerths (s : State) : Option Offence :=
  firstBad .berths (Berth.list.flatMap fun b =>
    if s.cfgFlag (48 + 16 * b.num) then s.rangesFrom (49 + 16 * b.num) paramRanges else [])

/-- R179: the POOL section. -/
def State.checkPool (s : State) : Option Offence :=
  firstBad .pool (ModuleId.list.flatMap fun m =>
    if s.cfgFlag (96 + 4 * m.num) then
      let n := 97 + 4 * m.num
      [(n, decide (500 ≤ s.cfg n ∧ s.cfg n ≤ 2500 ∧ s.cfg n % 100 = 0))]
    else [])

/-- R179: the JOURNAL section (log 22). -/
def State.checkJournal (s : State) : Option Offence :=
  firstBad .journal
    [s.within 128 16 2048, (129, decide (s.cfg 129 % 4 = 0 ∧ s.cfg 129 < Config.stationPageBase))]

/-- R179: the PROTECTION section. -/
def State.checkProtection (s : State) : Option Offence :=
  firstBad .protection
    [s.within 144 1 4, s.within 145 0 500, s.among 146 [500, 1000, 2000, 5000], s.within 147 0 3,
      s.among 148 [30, 60, 120, 300], s.within 149 0 3, s.within 150 100 10000, s.within 151 500 10000,
      s.within 152 100 2000]

/-- R127, R179: the schedule words from `n` on, after an entry that starts at `prev`; `used` while entries go on. -/
def scheduleChecks : Nat → Nat → Bool → List Word → List (Nat × Bool)
  | _, _, _, [] => []
  | n, prev, used, w :: ws =>
    if used && field w 0 17 != 0 then
      (n, decide (prev < field w 0 17 ∧ field w 0 17 < daySeconds)) :: scheduleChecks (n + 1) (field w 0 17) true ws
    else (n, w == 0) :: scheduleChecks (n + 1) prev false ws

/-- R179: the METROLOGY section. -/
def State.checkMetrology (s : State) : Option Offence :=
  firstBad .metrology
    ((160, field (wordAt s.page.shadow 160) 0 17 == 0) ::
      scheduleChecks 161 0 true ((List.range 7).map fun i => wordAt s.page.shadow (161 + i)) ++
      [s.among 168 [5, 10, 15, 20, 30, 60], s.within 169 10 600])

/-- R179: the ATTENTION section. -/
def State.checkAttention (s : State) : Option Offence :=
  firstBad .attention [s.within 208 0 65535, s.within 209 1 64, s.within 210 10 5000]

/-- Whether a mask names a section. -/
def names (mask : Word) (x : Section) : Bool := mask.getLsbD x.bit

/-- R179: the range check of one section. -/
def State.checkSection (s : State) : Section → Option Offence
  | .windows => s.checkWindows
  | .berths => s.checkBerths
  | .pool => s.checkPool
  | .journal => s.checkJournal
  | .protection => s.checkProtection
  | .metrology => s.checkMetrology
  | .attention => s.checkAttention

/-- All sections in ascending word order. -/
def Section.list : List Section := [.windows, .berths, .pool, .journal, .protection, .metrology, .attention]

/-- R179: the mask, then the named sections in ascending word order. -/
def State.checkRanges (s : State) (mask : Word) : Option Offence :=
  if mask = 0 ∨ 128 ≤ mask.toNat then some ⟨none, 253⟩
  else Section.list.findSome? fun x => if names mask x then s.checkSection x else none

/-! ## Ties between sections (R179) -/

/-- The window table that the commit leaves. -/
def State.tableAfter (s : State) (mask : Word) : List WindowEntry :=
  if names mask .windows then s.rawTable.map RawEntry.entry else s.bus.table

/-- Whether a berth is configured after the commit (R164). -/
def State.configuredAfter (s : State) (mask : Word) (b : Berth) : Bool :=
  if names mask .berths then (s.cfgParams b).configured else (s.params.get b).configured

/-- The ring configuration after the commit; none where JOURNAL is neither named nor accepted since the last reset. -/
def State.ringAfter (s : State) (mask : Word) : Option Ring :=
  if names mask .journal then some { length := s.cfg 128, writeBack := s.cfg 129 } else s.jour.ring

/-- Whether the table has a window of a kind for a berth. -/
def hasWindow (t : List WindowEntry) (k : WindowKind) (b : Berth) : Bool :=
  t.any fun e => e.kind == k && e.berth == b.num

/-- Whether a byte address lies in a window. -/
def WindowEntry.covers (e : WindowEntry) (a : Nat) : Bool :=
  e.kind != .none && decide (e.base ≤ a ∧ a < e.base + e.size)

/-- R149, R179: the ring length against the JOURNAL window; without such a window there is none to exceed (log 21). -/
def ringFits (t : List WindowEntry) (r : Ring) : Bool :=
  match findWindow t .journal with
  | some e => decide (r.length * 64 ≤ e.size)
  | none => true

/-- R179: the ties. -/
def State.checkTies (s : State) (mask : Word) : Option Offence :=
  let t := s.tableAfter mask
  match firstBad .berths (Berth.list.map fun b =>
      (48 + 16 * b.num, !s.configuredAfter mask b || (hasWindow t .measure b && hasWindow t .berthPage b))) with
  | some o => some o
  | none =>
    match s.ringAfter mask with
    | none => none
    | some r => firstBad .journal [(128, ringFits t r), (129, t.all fun e => !e.covers r.writeBack)]

/-! ## Conditions (R180, R183, R148) -/

/-- Whether every berth is IDLE. -/
def State.allIdle (s : State) : Bool := Berth.list.all fun b => (s.seq.get b).state == .idle

/-- Whether the channel is INITIAL or STOPPED. -/
def State.channelAtRest (s : State) : Bool := s.jour.channel == .initial || s.jour.channel == .stopped

/-- R180: the condition of a section. -/
def State.sectionReady (s : State) : Section → Bool
  | .windows => s.allIdle && s.claims.isEmpty && s.channelAtRest
  | .pool => s.allIdle
  | .journal => s.channelAtRest
  | .berths | .protection | .metrology | .attention => true

/-- R180: the section whose condition fails first. -/
def State.checkState (s : State) (mask : Word) : Option Section :=
  if !s.bus.firstCommit && !names mask .windows then some .windows
  else Section.list.find? fun x => names mask x && !s.sectionReady x

/-- R178: the CRC check. -/
def State.crcOk (s : State) : Bool := crc32 s.page.shadow == s.page.shadowCrc

/-- R177: the outcome of a commit, with the section and word index it reports. -/
def State.judgeCommit (s : State) (mask : Word) : CommitOutcome × Offence :=
  if !s.crcOk then (.badCrc, ⟨none, 0⟩)
  else
    match s.checkRanges mask with
    | some o => (.badRange, o)
    | none =>
      match s.checkTies mask with
      | some o => (.badRange, o)
      | none =>
        match s.checkState mask with
        | some x => (.badState, ⟨some x, 0⟩)
        | none =>
          if names mask .metrology && s.page.unlock != .opened then (.locked, ⟨none, 0⟩)
          else if names mask .metrology && !s.journalRoom then (.noJournalRoom, ⟨none, 0⟩)
          else (.accepted, ⟨none, 0⟩)

/-! ## Effects (R181) -/

/-- R163, R73: WINDOWS. -/
def commitWindows (s : State) : State :=
  rebaseIntake { s with bus := { s.bus with table := s.rawTable.map RawEntry.entry, firstCommit := true } }

/-- R182: one berth's set. -/
def commitBerth (b : Berth) (s : State) : State :=
  if (s.seq.get b).state = .idle then
    { s with params := s.params.set b (s.cfgParams b), pendingParams := s.pendingParams.set b none }
  else { s with pendingParams := s.pendingParams.set b (some (s.cfgParams b)) }

/-- R182: BERTHS. -/
def commitBerths (s : State) : State := forBerths commitBerth s

/-- R3: POOL. -/
def commitPool (s : State) : State :=
  tryPool (forModules
    (fun m s => s.updMod m fun r => { r with present := s.cfgFlag (96 + 4 * m.num), rating := s.cfg (97 + 4 * m.num) }) s)

/-- R149: JOURNAL. -/
def commitJournal (s : State) : State :=
  { s with jour := { s.jour with ring := some { length := s.cfg 128, writeBack := s.cfg 129 } } }

/-- R36, R97, R186: PROTECTION. -/
def commitProtection (s : State) : State :=
  { s with
    prot := s.cfgProtection
    page := { s.page with presence := if s.page.presence = .inactive then .awaiting else s.page.presence } }

/-- R129, R183: METROLOGY. -/
def commitMetrology (s : State) : State :=
  let s := metrologyCommitted s.cfgMetrology s
  { s with page := { s.page with unlock := .closed, unlockTimer := .stopped } }

/-- R185, R157: ATTENTION. -/
def commitAttention (s : State) : State :=
  { s with
    page := { s.page with enable := BitVec.ofNat 16 (s.cfg 208) }
    jour := { s.jour with threshold := s.cfg 209, coalTimeMs := s.cfg 210 } }

/-- R181: the effect of one section. -/
def applySection : Section → State → State
  | .windows => commitWindows
  | .berths => commitBerths
  | .pool => commitPool
  | .journal => commitJournal
  | .protection => commitProtection
  | .metrology => commitMetrology
  | .attention => commitAttention

/-- R149: P and C become 0 when the base or the length of the ring has changed. -/
def rewindRing (old new : State) : State :=
  if old.journalBase = new.journalBase ∧ old.jour.len = new.jour.len then new
  else { new with jour := { new.jour with produce := 0, consume := 0 } }

/-- R181: the named sections take effect together. -/
def applySections (mask : Word) (s : State) : State :=
  let t := Section.list.foldl (fun t x => if names mask x then applySection x t else t) s
  let t := rewindRing s t
  { t with page := { t.page with accepted := t.page.accepted ||| mask.setWidth 7 } }

/-- R177: the outcome is recorded and CONFIG_DONE is set. -/
def recordCommit (mask : Word) (r : CommitOutcome × Offence) (s : State) : State :=
  setSummary .configDone
    { s with page := { s.page with
        result := { outcome := r.1, mask := mask, sect := r.2.sect, index := r.2.index
                    count := s.page.result.count + 1 } } }

/-- R177: a commit. -/
def commit (mask : Word) (s : State) : State :=
  let r := s.judgeCommit mask
  recordCommit mask r (if r.1 = .accepted then applySections mask s else s)

end Sys2Proof.Machine
end

