-- ==== Sys2Proof/Machine/StationPage.lean ====
section
/-! DEFINITION. The Station Page Controller (10): the shadow, the control words, the unlock window, acknowledgement,
the heartbeat; and the berth page's requests (06) as the Window Unit hands them over. -/

namespace Sys2Proof.Machine

/-! ## Heartbeat (R186) -/

/-- R186: the heartbeat timer is started with the period in force. -/
def startHeartbeat (s : State) : State :=
  { s with
    page := { s.page with
      presence := .present, hbTimer := .running (s.prot.heartbeatMs * Config.msUs), lastHeartbeat := s.now } }

/-- R186: a HEARTBEAT write; the time lost is told in whole ms, rounded down (DESIGN CHOICE, log 44). -/
def heartbeat (s : State) : State :=
  match s.page.presence with
  | .inactive => s
  | .awaiting | .present => startHeartbeat s
  | .lost =>
    let us := s.page.lostUs
    emitEvent .supervisorRestored 0 none [put 0 32 (us / Config.msUs)]
      (forBerths supervisorRestored (startHeartbeat s))

/-- R186: the heartbeat timer has expired in PRESENT. -/
def heartbeatLost (s : State) : State :=
  let s := setSummary .supervisorLost
    { s with page := { s.page with presence := .lost, hbTimer := .stopped, lostUs := 0 } }
  emitEvent .supervisorLost 0 none [put 0 32 s.prot.heartbeatMs, s.page.lastHeartbeat] (forBerths supervisorLost s)

/-! ## Acknowledgement (R184) -/

/-- R157: the Journal Writer is told that JOURNAL_READY was cleared. -/
def readyCleared (s : State) : State :=
  if s.jour.coalescing = .signalled then { s with jour := { s.jour with coalescing := .waitingFirst } } else s

/-- R184: a write of EVENT_ACK. -/
def acknowledge (w : Word) (s : State) : State :=
  let told := s.summaryBit .journalReady && w.getLsbD 0
  let s := { s with page := { s.page with summary := s.page.summary &&& ~~~ (w.setWidth 16) } }
  if told then readyCleared s else s

/-! ## The unlock window (R183) -/

/-- R183: the unlock state and its timer. -/
def setUnlock (u : Unlock) (t : Timer) (s : State) : State :=
  { s with page := { s.page with unlock := u, unlockTimer := t } }

/-- R183: a write of UNLOCK. -/
def unlockWrite (v : Word) (s : State) : State :=
  match s.page.unlock with
  | .closed =>
    if v = s.jour.nextSeq then setUnlock (.firstTaken v) (.running Config.unlockFirstUs) s else s
  | .firstTaken x =>
    if v = ~~~ x then setUnlock .opened (.running Config.unlockOpenUs) s else setUnlock .closed .stopped s
  | .opened => setUnlock .closed .stopped s

/-! ## Journal commands (R150, R155, R156) -/

/-- R150: START. -/
def journalStart (s : State) : State :=
  if s.channelAtRest && s.ringConfigured then { s with jour := { s.jour with channel := .started } } else s

/-- R150: STOP. -/
def journalStop (s : State) : State :=
  if s.jour.channel = .started then
    { s with jour := { s.jour with channel := if s.jour.writing.isSome then .stopPending else .stopped } }
  else s

/-- R155: RESET, the journal channel reset. -/
def journalReset (s : State) : State :=
  let s := abandonWrite s
  { s with
    jour := { s.jour with
      channel := .initial, produce := 0, consume := 0, coalTimer := .stopped
      coalescing := if s.jour.coalescing = .signalled then .signalled else .waitingFirst } }

/-- R150: a write of JOURNAL_CMD. -/
def journalCommand (v : Word) (s : State) : State :=
  match v.toNat with
  | 1 => journalStart s
  | 2 => journalStop s
  | 3 => journalReset s
  | _ => s

/-- R156: whether a consume value is taken. -/
def Journal.takesConsume (j : Journal) (n : Nat) : Bool :=
  decide (n < j.len) && decide (unconsumed j.len n j.consume ≤ unconsumed j.len j.produce j.consume)

/-- R156: a write of JOURNAL_CONSUME. -/
def consumeWrite (v : Word) (s : State) : State :=
  if s.jour.takesConsume v.toNat then { s with jour := { s.jour with consume := v.toNat } }
  else { s with jour := { s.jour with refusals := sat16 (s.jour.refusals + 1) } }

/-! ## Dispatch of the words of a station page write (R175, R176) -/

/-- R38: a write of MODULE_SERVICE. -/
def serviceWrite (v : Word) (s : State) : State :=
  let idx := v.extractLsb' 0 4
  let action := v.extractLsb' 8 8
  match ServiceAction.ofCode? action.toNat with
  | some a => serviceRequest a idx s
  | none => badServiceRequest idx action s

/-- R175, R176: one written word of the station page. -/
def takeStationWord (n : Nat) (v : Word) (s : State) : State :=
  if n < 216 then { s with page := { s.page with shadow := s.page.shadow.set n v } }
  else
    match n with
    | 216 => heartbeat s
    | 218 => acknowledge v s
    | 219 => unlockWrite v s
    | 220 => journalCommand v s
    | 221 => consumeWrite v s
    | 227 => stageDay v s
    | 228 => timeSet v s
    | 229 => serviceWrite v s
    | 252 => { s with page := { s.page with shadowCrc := v } }
    | 253 => commit v s
    | _ => s

/-- R169, R175: the words of a burst are taken in ascending order. -/
def takeStationWords (ws : List (Nat × Word)) (s : State) : State :=
  ws.foldl (fun s x => takeStationWord x.1 x.2 s) s

/-! ## Requests (R99 to R118) -/

/-- R100 check 4, R102 to R118: whether a kind is accepted in the berth's state. -/
def State.accepts (s : State) (b : Berth) (k : RequestKind) : Bool :=
  match k, (s.seq.get b).state with
  | .connect, .idle => true
  | .sync, .energised => true
  | .gensOff, .parallelIn => true
  | .gensOn, .shoreOnly => true
  | .abort, .waitingModules | .abort, .matching | .abort, .armed | .abort, .parallelIn => true
  | .disconnect, .energised | .disconnect, .tripped => true
  | .clear, .tripped => (s.seq.get b).profile.isSome && !(s.sync.get b).view && !s.tripLine b
  | _, _ => false

/-- R100, R101: a refusal. -/
def refuse (b : Berth) (kind : BitVec 8) (tag : BitVec 16) (o : ReqOutcome) (s : State) : State :=
  writeResult b kind tag o none none s

/-- R100: an accepted request becomes the current request. -/
def makeCurrent (b : Berth) (k : RequestKind) (tag : BitVec 16) (s : State) : State :=
  s.updSeq b fun q => { q with current := some { kind := k, tag := tag } }

/-- R102: an accepted CONNECT waits for modules: the claim is appended and the berth enters WAITING_MODULES. -/
def connectQueued (b : Berth) (p : ShipProfile) (s : State) : State :=
  enterState b .waitingModules
    { s with claims := s.claims ++ [newClaim b p (s.params.get b).claimTimeoutMin] }

/-- R102: CONNECT past its first three further checks. -/
def connectWith (b : Berth) (tag : BitVec 16) (p : ShipProfile) (s : State) : State :=
  let accept := fun (s : State) =>
    makeCurrent b .connect tag (s.updSeq b fun q => { q with profile := some p, firstEnergised := false })
  match s.poolAnswer p with
  | .unservable => refuse b RequestKind.connect.bits tag .refusedParam s
  | .served ms => energiseWith b ms (accept s)
  | .queued => connectQueued b p (accept s)

/-- R102: CONNECT's further checks. -/
def takeConnect (b : Berth) (tag : BitVec 16) (s : State) : State :=
  let no := fun o => refuse b RequestKind.connect.bits tag o s
  if s.clock.timeUnset then no .refusedTimeUnset
  else if s.backlog b then no .refusedBacklog
  else if !(s.params.get b).configured then no .refusedParam
  else
    match parseProfile (s.seq.get b).shadow with
    | none => no .refusedParam
    | some p => connectWith b tag p s

/-- R105, R79: SYNC. -/
def takeSync (b : Berth) (tag : BitVec 16) (s : State) : State :=
  startWatching b (enterState b .matching (makeCurrent b .sync tag s))

/-- R108: GENS_OFF. -/
def takeGensOff (b : Berth) (tag : BitVec 16) (s : State) : State :=
  let s := enterState b .shoreOnly s
  writeResult b RequestKind.gensOff.bits tag .done none none
    (emitEvent .shoreOnly 0 (some b) [s.feederWord b] s)

/-- R109: GENS_ON. -/
def takeGensOn (b : Berth) (tag : BitVec 16) (s : State) : State :=
  enterState b .parallelOut (makeCurrent b .gensOn tag s)

/-- R113: what an accepted ABORT does in each of its states. -/
def abortEffect (b : Berth) (s : State) : State :=
  match (s.seq.get b).state with
  | .waitingModules =>
    let head := s.headClaim b
    tryIf head (enterIdle b (removeClaim b s))
  | .matching | .armed => enterState b .energised s
  | .parallelIn => enterState b .parallelOut s
  | _ => s

/-- R101, R113: ABORT overtakes a request in progress and completes at once. -/
def takeAbort (b : Berth) (tag : BitVec 16) (s : State) : State :=
  let ov := ((s.seq.get b).current).map (·.tag)
  let s := abortEffect b (completeCurrent b .aborted (some .abort) s)
  writeResult b RequestKind.abort.bits tag .done none ov s

/-- R114: DISCONNECT; from TRIPPED, DE_ENERGISING is complete at the instant of entry. -/
def takeDisconnect (b : Berth) (tag : BitVec 16) (s : State) : State :=
  let s := enterState b .deEnergising (makeCurrent b .disconnect tag s)
  if (s.seq.get b).volt = .zero then deEnergised b s else s

/-- R118: CLEAR. -/
def takeClear (b : Berth) (tag : BitVec 16) (s : State) : State :=
  rejoin b ((makeCurrent b .clear tag s).updSeq b fun q => { q with tripCause := none })

/-- An accepted request takes its effect. -/
def takeAccepted (b : Berth) (tag : BitVec 16) (k : RequestKind) (s : State) : State :=
  match k with
  | .connect => takeConnect b tag s
  | .sync => takeSync b tag s
  | .gensOff => takeGensOff b tag s
  | .gensOn => takeGensOn b tag s
  | .abort => takeAbort b tag s
  | .disconnect => takeDisconnect b tag s
  | .clear => takeClear b tag s

/-- R100: the checks of a request, in order. -/
def takeRequest (b : Berth) (kind : BitVec 8) (tag : BitVec 16) (s : State) : State :=
  match RequestKind.ofCode? kind.toNat with
  | none => refuse b kind tag .refusedParam s
  | some k =>
    if s.isLost then refuse b kind tag .refusedLost s
    else if (s.seq.get b).current.isSome && k != .abort then refuse b kind tag .refusedBusy s
    else if !s.accepts b k then refuse b kind tag .refusedState s
    else takeAccepted b tag k s

/-- R99: words 1 to 7 of a burst replace the same words of the request shadow. -/
def shadowWord (b : Berth) (n : Nat) (v : Word) (s : State) : State :=
  if 1 ≤ n then s.updSeq b fun q => { q with shadow := q.shadow.set (n - 1) v } else s

/-- R99: the words of a burst replace those of the request shadow. -/
def writeShadow (b : Berth) (ws : List (Nat × Word)) (s : State) : State :=
  ws.foldl (fun s x => shadowWord b x.1 x.2 s) s

/-- R99: the words of a burst of request words; word 0, if it is carried, asks after the shadow has been updated. -/
def takeBerthWords (b : Berth) (ws : List (Nat × Word)) (s : State) : State :=
  let t := writeShadow b ws s
  match ws with
  | (0, v) :: _ => takeRequest b (v.extractLsb' 0 8) (v.extractLsb' 16 16) t
  | _ => t

end Sys2Proof.Machine
end

