-- ==== Sys2Proof/Machine/BusPath.lean ====
section
/-! DEFINITION. The Window Unit (09): classification, refusal and treatment of transfers, substituted and mixed reads,
snooped writes, the pass list and the memory face's completions. -/

namespace Sys2Proof.Machine

/-! ## Classification (R162) -/

/-- R162: what an address belongs to: PLAIN, the station page, or a window by its entry number. -/
inductive Region
  | plain
  | station
  | window (n : Nat) (e : WindowEntry)
  deriving DecidableEq, Repr

/-- R162: the first entry from number `n` on that covers an address. -/
def regionIn : Nat → List WindowEntry → Nat → Region
  | _, [], _ => .plain
  | n, e :: rest, a => if e.covers a then .window n e else regionIn (n + 1) rest a

/-- R162: the classification of a byte address. -/
def State.region (s : State) (a : Nat) : Region :=
  if Config.stationPageBase ≤ a then .station else regionIn 0 s.bus.table a

/-- R162: the one classification that all words of a burst share; none where they differ or pass the top. -/
def State.burstRegion (s : State) (addr len : Nat) : Option Region :=
  let r := s.region addr
  if addr + 4 * len ≤ Config.topOfMemory ∧ ((List.range len).all fun i => s.region (addr + 4 * i) == r) = true then
    some r
  else none

/-! ## Responses and refusals (R161, R165, R171) -/

/-- R161: the response to a master. -/
def respond (t : Tag) (r : Response) (s : State) : State :=
  { s with bus := { s.bus with resp := s.bus.resp.set t (some r) } }

/-- R165, R171: a transfer is refused. -/
def refuseTransfer (t : Tag) (c : RefuseCause) (s : State) : State :=
  let n := (s.bus.refused.get t).count
  setSummary .refusedTransfer
    (respond t .refused { s with bus := { s.bus with refused := s.bus.refused.set t ⟨sat16 (n + 1), c⟩ } })

/-! ## The pass list (R172) -/

/-- R172: a transfer, or its memory part, joins the pass list. -/
def passOn (item : PassItem) (s : State) : State :=
  grant { s with
    bus := { s.bus with passList := s.bus.passList ++ [item], resp := s.bus.resp.set item.tag none } }

/-- R161: whether a master has a transfer outstanding. -/
def State.outstanding (s : State) (t : Tag) : Bool :=
  s.bus.passList.any (fun i => i.tag == t) ||
    match s.bus.face with
    | some (.pass i) => i.tag == t
    | _ => false

/-! ## Reads (R166 to R171) -/

/-- The substituted words at the start of a burst. -/
def leadingWords : List (Option Word) → List Word
  | some v :: rest => v :: leadingWords rest
  | _ => []

/-- A burst without the substituted words at its start. -/
def dropLeading : List (Option Word) → List (Option Word)
  | some _ :: rest => dropLeading rest
  | l => l

/-- R167: the pass list entry of a partly substituted read: its memory-face transfer spans from the first to the last
memory word of the burst. -/
def spanRead (t : Tag) (addr : Nat) (fill : List (Option Word)) : PassItem :=
  let before := leadingWords fill
  let back := (dropLeading fill).reverse
  { tag := t, addr := addr + 4 * before.length
    load := .read before (dropLeading back).reverse (leadingWords back).reverse }

/-- The pass list entry of a read of `len` words of memory. -/
def memoryRead (t : Tag) (addr len : Nat) : PassItem :=
  { tag := t, addr := addr, load := .read [] (List.replicate len none) [] }

/-- R167: a read with its substituted words: answered at once when every word is substituted, and passed otherwise. -/
def answerRead (t : Tag) (addr : Nat) (fill : List (Option Word)) (s : State) : State :=
  if fill.all (·.isSome) then respond t (.done (fill.map (·.getD 0))) s else passOn (spanRead t addr fill) s

/-- The words of a burst of `len` from word `n` on, each as a function of its number gives it. -/
def fillFrom (f : Nat → Option Word) (n len : Nat) : List (Option Word) := (List.range len).map fun i => f (n + i)

/-- R171: a SUPERVISOR read of refused-transfer records clears those it covers. -/
def clearRecords (n len : Nat) (s : State) : State :=
  (List.range len).foldl
    (fun s i =>
      if 231 ≤ n + i ∧ n + i ≤ 234 then
        { s with bus := { s.bus with refused := s.bus.refused.set (Tag.ofNat (n + i - 231)) ⟨0, .none⟩ } }
      else s) s

/-- R167, R171: a read of the station page from word `n` on; the snapshot is taken before any record is cleared. -/
def readStation (t : Tag) (addr n len : Nat) (s : State) : State :=
  let fill := fillFrom s.stationWord n len
  answerRead t addr fill (if t = .supervisor then clearRecords n len s else s)

/-- R167: word `n` of a berth page: words 0 to 7 from memory, the others from the sequencer. -/
def State.pageWord (s : State) (b : Berth) (n : Nat) : Option Word := if n < 8 then none else some (s.berthWord b n)

/-- R166: a read of a window. -/
def readWindow (t : Tag) (addr len : Nat) (e : WindowEntry) (s : State) : State :=
  let n := (addr - e.base) / 4
  match e.kind, Berth.ofNat? e.berth with
  | .berthPage, some b => answerRead t addr (fillFrom (s.pageWord b) n len) s
  | .moduleCmd, _ => answerRead t addr (fillFrom (fun k => some (s.cmdWord k)) n len) s
  | _, _ => passOn (memoryRead t addr len) s

/-- R165, R166, R168: a read that passes checks 1 and 2. -/
def acceptRead (t : Tag) (addr len : Nat) (r : Region) (s : State) : State :=
  if t = .link ∧ s.bus.firstCommit = false then respond t (.done (List.replicate len 0)) s
  else
    match r with
    | .plain => passOn (memoryRead t addr len) s
    | .station => readStation t addr ((addr - Config.stationPageBase) / 4) len s
    | .window _ e => readWindow t addr len e s

/-! ## Writes (R165, R166, R169) -/

/-- R169: a write that passes, whose content has been handed on. -/
def passWrite (t : Tag) (addr : Nat) (ws : List Word) (s : State) : State :=
  passOn { tag := t, addr := addr, load := .write ws } s

/-- R59, R165, R169: a METER write into a MEASURE window: the intake decides at the acceptance, at which the write joins
the pass list (DESIGN CHOICE, log 45). -/
def writeMeasure (addr : Nat) (ws : List Word) (e : WindowEntry) (s : State) : State :=
  match Berth.ofNat? e.berth, ws, addr % 16 with
  | some b, [w0, w1, w2, w3], 0 => passWrite .meter addr ws (takeMeasurement b w0 w1 w2 w3 s)
  | _, _, _ => refuseTransfer .meter .badShape s

/-- R21, R165: a LINK write into the MODULE_STAT window. -/
def writeStatus (addr : Nat) (ws : List Word) (e : WindowEntry) (s : State) : State :=
  match ModuleId.ofNat? ((addr - e.base) / 32) with
  | some m =>
    if ws.length = 8 ∧ (addr - e.base) % 32 = 0 then passWrite .link addr ws (statusRecord m ws s)
    else refuseTransfer .link .badShape s
  | none => refuseTransfer .link .badShape s

/-- R99, R167: a SUPERVISOR write into a BERTH_PAGE window. -/
def writeBerthPage (addr : Nat) (ws : List Word) (e : WindowEntry) (s : State) : State :=
  let n := (addr - e.base) / 4
  match Berth.ofNat? e.berth with
  | some b =>
    if n + ws.length ≤ 8 then passWrite .supervisor addr ws (takeBerthWords b (numbered n ws) s)
    else refuseTransfer .supervisor .denied s
  | none => refuseTransfer .supervisor .denied s

/-- R166: a write into a window. -/
def writeWindow (t : Tag) (addr : Nat) (ws : List Word) (e : WindowEntry) (s : State) : State :=
  match e.kind, t with
  | .measure, .meter => writeMeasure addr ws e s
  | .moduleStat, .link => writeStatus addr ws e s
  | .berthPage, .supervisor => writeBerthPage addr ws e s
  | _, _ => refuseTransfer t .denied s

/-- R175: a SUPERVISOR write of station page words from word `n` on. -/
def writeStation (t : Tag) (addr : Nat) (ws : List Word) (s : State) : State :=
  if t = .supervisor then
    passWrite t addr ws (takeStationWords (numbered ((addr - Config.stationPageBase) / 4) ws) s)
  else refuseTransfer t .denied s

/-- R165, R166: a write that passes checks 1 and 2. -/
def acceptWrite (t : Tag) (addr : Nat) (ws : List Word) (r : Region) (s : State) : State :=
  match r with
  | .plain => passWrite t addr ws s
  | .station => writeStation t addr ws s
  | .window _ e => writeWindow t addr ws e s

/-! ## Acceptance (R161, R165) -/

/-- R165: an accepted transfer is checked, treated and answered. -/
def acceptNow (x : Transfer) (s : State) : State :=
  if x.tag = .unknown then refuseTransfer x.tag .badTag s
  else
    match s.burstRegion x.addr.toNat x.len with
    | none => refuseTransfer x.tag .span s
    | some r =>
      match x.access with
      | .read len => acceptRead x.tag x.addr.toNat len r s
      | .write ws => acceptWrite x.tag x.addr.toNat ws r s

/-- R161: a transfer at the master face. A master with a transfer outstanding is held off, and so is every master while
RESET_N is low (R174): nothing changes (log 6). -/
def offerTransfer (x : Transfer) (s : State) : State :=
  if s.resetLow || s.outstanding x.tag then s else acceptNow x s

/-- R161: a transfer that no burst of the master face can be is refused by the model (log 7). -/
def acceptTransfer (x : Transfer) (s : State) : Result :=
  if x.wellFormed then .next (offerTransfer x s) else .refused .illFormed

/-! ## Transfers of rows that name one (log 5) -/

/-- A SUPERVISOR write of station page words from word `n` on. -/
def stationWrite (n : Nat) (ws : List Word) : Transfer :=
  { tag := .supervisor, addr := BitVec.ofNat 24 (Config.stationPageBase + 4 * n), access := .write ws }

/-- The window of a kind for a berth. -/
def State.berthWindow (s : State) (k : WindowKind) (b : Berth) : Option WindowEntry :=
  s.bus.table.find? fun e => e.kind == k && e.berth == b.num

/-- A transfer into a window; nothing changes where the table has no such window. -/
def intoWindow (w : Option WindowEntry) (f : Nat → Transfer) (s : State) : Result :=
  match w with
  | none => .next s
  | some e => acceptTransfer (f e.base) s

/-- A SUPERVISOR write of berth page words from word `n` on. -/
def berthWrite (b : Berth) (n : Nat) (ws : List Word) (s : State) : Result :=
  intoWindow (s.berthWindow .berthPage b)
    (fun base => { tag := .supervisor, addr := BitVec.ofNat 24 (base + 4 * n), access := .write ws }) s

/-! ## The memory face (R172, R173) -/

/-- R167, R172: the words that the span of a passed read returns: memory's, and those substituted at acceptance. -/
def readBack (m : List (Nat × Word)) : Nat → List (Option Word) → List Word
  | _, [] => []
  | k, f :: rest => f.getD (memRead m k) :: readBack m (k + 1) rest

/-- R172: the face has carried a passing transfer: memory and the response. -/
def carried (item : PassItem) (s : State) : State :=
  match item.load with
  | .read before fill after =>
    respond item.tag (.done (before ++ readBack s.bus.mem (item.addr / 4) fill ++ after)) s
  | .write ws =>
    respond item.tag (.done []) { s with bus := { s.bus with mem := memWriteBurst s.bus.mem (item.addr / 4) ws } }

/-- The face becomes free. -/
def freeFace (s : State) : State := { s with bus := { s.bus with face := none } }

/-- R172, R173: the face finishes a passing transfer, and the next grant is decided. -/
def faceDone (s : State) : State :=
  match s.bus.face with
  | some (.pass item) => grant (carried item (freeFace s))
  | _ => s

/-- R152, R173: the face finishes a journal claim; where its write was not abandoned meanwhile, the next claim is made
or the write completes; and the next grant is decided. -/
def claimDone (s : State) : State :=
  match s.bus.face with
  | some (.journal addr ws live) =>
    let s := freeFace { s with bus := { s.bus with mem := memWriteBurst s.bus.mem (addr / 4) ws } }
    grant (if live then claimCarried s else s)
  | _ => s

end Sys2Proof.Machine
end

