-- ==== Sys2Proof/Machine/Resets.lean ====
section
/-! DEFINITION. Power-on reset, line reset, its release and the end of the trip hold. -/

namespace Sys2Proof.Machine

/-! ## Power-on reset (R25, R41, R57, R74, R95, R123, R140, R159, R174, R188, R192) -/

/-- R91, R95, R96: a breaker view that is CLOSED at the end of a reset is taken as a rise at that instant. -/
def tripIfClosed (b : Berth) (s : State) : State := if (s.sync.get b).view then uncommandedClose b s else s

/-- R95: a unit at the release of power-on reset, with the level of its BRK_CLOSED input. -/
def syncAtRelease (closed : Bool) : Sync := Sync.reset closed (State.reset.sync.b0.deadTime)

/-- Power-on reset, up to the release: every field as `State.reset` has it, but for the breakers, and for plant memory
and the waiting commands, which lie outside the chip (log 4). What the memory face carried is dropped (log 31). -/
def powerOn (c0 c1 c2 : Bool) (s : State) : State :=
  { State.reset with
    sync := ⟨syncAtRelease c0, syncAtRelease c1, syncAtRelease c2⟩
    bus := { Bus.reset with mem := s.bus.mem }
    pending := s.pending }

/-- R95: power-on reset with its release; the berths of closed breakers and their EVENTs come in the order B0, B1, B2
(DESIGN CHOICE, log 33). -/
def powerOnReset (c0 c1 c2 : Bool) (s : State) : State := forBerths tripIfClosed (powerOn c0 c1 c2 s)

/-! ## Line reset (R26, R42, R57, R74, R96, R123, R141, R142, R160, R174, R182, R189) -/

/-- R26: the pool state that survives a line reset. -/
def Standing.retained : Standing → Standing
  | .lockedOut => .lockedOut
  | .outOfService => .outOfService
  | .available | .assigned _ _ => .available

/-- R26: a module after line reset. -/
def Module.lineReset (r : Module) : Module := { Module.reset with standing := r.standing.retained }

/-- R96: a unit after line reset: the values of R95 with the input, its filter and the view kept (log 28); the dead-time
timer starts at the end of the trip hold. -/
def Sync.lineReset (u : Sync) : Sync :=
  { Sync.reset false .stopped with level := u.level, heldUs := u.heldUs, view := u.view }

/-- R160: the Journal Writer after line reset. -/
def Journal.lineReset (j : Journal) : Journal :=
  { Journal.reset with queue := j.queue, nextSeq := j.nextSeq, chain := j.chain, lost := j.lost }

/-- R174: the pass list is answered REFUSED. -/
def refuseWaiting (items : List PassItem) (r : PerTag (Option Response)) : PerTag (Option Response) :=
  items.foldl (fun r i => r.set i.tag (some .refused)) r

/-- R174: the Window Unit after line reset; a transfer that the face carries is carried on. -/
def Bus.lineReset (u : Bus) : Bus :=
  { Bus.reset with face := u.face, resp := refuseWaiting u.passList u.resp, mem := u.mem }

/-- R142: a session of a berth in SHORE_ONLY at a line reset counts an interruption. -/
def interruptShoreOnly (b : Berth) (s : State) : State :=
  if (s.seq.get b).state = .shoreOnly then noteInterruption b s else s

/-- R142: the reset time, while a session is carried. -/
def State.resetTime (s : State) : Option StationTime := if s.openSessions = 0 then none else some s.clock.time

/-- A line reset is recognised. -/
def lineReset (s : State) : State :=
  let s := abandonWrite (forBerths interruptShoreOnly s)
  { s with
    resetLow := true, tripHold := .stopped
    mods := s.mods.map Module.lineReset, claims := [], prot := Protection.default, service := ServiceResult.reset
    params := PerBerth.all BerthParams.default, pendingParams := PerBerth.all none
    osc := PerBerth.all Osc.stopped, meas := PerBerth.all Meas.reset, sync := s.sync.map Sync.lineReset
    seq := PerBerth.all (Seq.reset s.now), clock := { s.clock with stagedDay := none }
    carried := match s.carried with
      | some t => some t
      | none => s.resetTime
    jour := s.jour.lineReset, bus := s.bus.lineReset, page := Page.reset .line }

/-! ## Release (R142, R189) and the trip hold (R96) -/

/-- R142: the carried session of a berth is closed with cause RESET. -/
def closeCarried (t : StationTime) (b : Berth) (s : State) : State := closeSession b 2 t s

/-- R142, R189: the carried sessions are closed, and the host is told. -/
def closeAllCarried (s : State) : State :=
  match s.carried with
  | none => s
  | some t =>
    let n := s.openSessions
    let s := forBerths (closeCarried t) s
    emitEvent .resetRecovered 0 none [put 0 32 n, t.day, put 0 32 t.second]
      (setSummary .resetRecovered { s with carried := none })

/-- R96, R123: RESET_N returns high. -/
def releaseReset (s : State) : State :=
  let s := forBerths (fun b s => s.updSeq b fun q => { q with entry := s.now }) s
  closeAllCarried { s with resetLow := false, tripHold := .running Config.tripHoldUs }

/-- R96: the trip hold ends: the dead-time timers start, and breakers still closed are tripped again; berths and their
EVENTs come in the order B0, B1, B2 (DESIGN CHOICE, log 33). -/
def endTripHold (s : State) : State :=
  forBerths tripIfClosed (forBerths startDeadTime { s with tripHold := .stopped })

end Sys2Proof.Machine
end

