-- ==== Sys2Proof/Machine/Tick.lean ====
section
/-! DEFINITION. Time (log 1, log 2): which time-driven commands are due at an instant, and what one microsecond with no
command does. -/

namespace Sys2Proof.Machine

/-! ## What is due -/

/-- R29: the blanking expiry has been reached. -/
def Module.blankingOver (now : Word) (r : Module) : Bool := r.blankExpiry.isSome && !r.isBlanked now

/-- R45: a glide has reached its target. -/
def Osc.hasArrived (o : Osc) : Bool := o.running && o.gliding && o.freq == o.target

/-- R103: the energise ramp has run for its duration. -/
def State.energiseDue (s : State) (b : Berth) : Bool :=
  match (s.seq.get b).volt with
  | .rising us => decide (s.energiseRampUs b ≤ us)
  | _ => false

/-- R114: the voltage setpoint has fallen to 0. -/
def State.deEnergiseDue (s : State) (b : Berth) : Bool :=
  match (s.seq.get b).volt with
  | .falling us => decide (s.energiseRampUs b ≤ us)
  | _ => false

/-- R17: the whole-kW setpoint is not the one that the shares were last computed from; also where a hold has just ended
the ramp (R117, R120). -/
def Seq.kwMoved (q : Seq) : Bool := q.wholeKw != q.sharedKw

/-- R106, R110: the ramp has reached its end. -/
def Seq.rampOver (q : Seq) : Bool :=
  match q.dir with
  | .rising => decide (q.target * Config.powerUnit ≤ q.setpoint)
  | .falling => q.setpoint == 0
  | .level => false

/-- R66: the staleness timer of a slot. -/
def Meas.slotTimer (m : Meas) : SlotKind → Timer
  | .shipPhasor => m.ship.timer
  | .shorePhasor => m.shore.timer
  | .feederPower => m.feeder.timer

/-- R125: the count has advanced 1,000,000 µs beyond the tick instant. -/
def State.tickDue (s : State) : Bool := decide (Config.secUs ≤ (s.now - s.clock.tickInstant).toNat)

/-- Log 2: whether a time-driven command is an event at this instant: its timer has elapsed, or its condition holds, in
a state in which its rule gives it an effect; likewise an acceptance of a breaker filter. Every other command is none. -/
def isDue (s : State) : Instr → Bool
  | .tripHoldEnd => s.tripHold.isDue
  | .moduleStatusStale m => (s.mods.get m).staleTimer.isDue
  | .retryWaitExpiry m => (s.mods.get m).retryWait.isDue
  | .retryWindowExpiry m => (s.mods.get m).retryWindow.isDue
  | .blankingExpiry m => (s.mods.get m).blankingOver s.now
  | .claimTimerExpiry b => (s.claimTimer b).isDue
  | .slotStalenessExpiry b k => ((s.meas.get b).slotTimer k).isDue
  | .bridgeTimerExpiry b => (s.meas.get b).bridge.isDue
  | .glideNearTarget b => (s.osc.get b).settles (s.shipFresh b)
  | .glideTargetReached b => (s.osc.get b).hasArrived
  | .energiseRampComplete b => s.energiseDue b && (s.seq.get b).state == .energising
  | .energiseTimerExpiry b => (s.seq.get b).energise.isDue && (s.seq.get b).state == .energising
  | .deEnergisingComplete b => s.deEnergiseDue b && (s.seq.get b).state == .deEnergising
  | .setpointKwStep b => (s.seq.get b).kwMoved
  | .rampEnd b => (s.seq.get b).rampOver
  | .syncTimerExpiry b => (s.seq.get b).syncT.isDue && (s.seq.get b).state.isWatching
  | .parallelTimerExpiry b => (s.seq.get b).parallel.isDue && (s.seq.get b).state.isParallel
  | .overloadTimerExpiry b => (s.seq.get b).overload.isDue && (s.seq.get b).state.judgesOverload
  | .reversePowerTimerExpiry b => (s.seq.get b).reverse.isDue && (s.seq.get b).state.judgesReverse
  | .closeDueExpiry b => (s.sync.get b).closeDue.isDue && (s.seq.get b).state == .armed
  | .closePulseExpiry b => (s.sync.get b).closePulse.isDue
  | .tripPulseExpiry b => (s.sync.get b).tripPulse.isDue
  | .closeConfirmExpiry b => (s.sync.get b).closeConfirm.isDue && (s.seq.get b).state == .closing
  | .openConfirmExpiry b => (s.sync.get b).openConfirm.isDue && (s.seq.get b).state == .opening
  | .deadTimeExpiry b => (s.sync.get b).deadTime.isDue
  | .stationTick => s.tickDue
  | .unlockTimerExpiry => s.page.unlockTimer.isDue
  | .heartbeatTimerExpiry => s.page.hbTimer.isDue && s.page.presence == .present
  | .coalescingTimerExpiry => s.jour.coalTimer.isDue
  | .journalWriteStart => s.canWrite
  | .breakerViewRise b => (s.sync.get b).filterDue && (s.sync.get b).level
  | .breakerViewFall b => (s.sync.get b).filterDue && !(s.sync.get b).level
  | _ => false

/-- A time-driven command takes its effect where it is due, and is no event where it is not (log 2). -/
def whenDue (c : Instr) (f : State → State) (s : State) : State := if isDue s c then f s else s

/-- The time-driven commands of one berth. -/
def berthTimed (b : Berth) : List Instr :=
  [.slotStalenessExpiry b .shipPhasor, .slotStalenessExpiry b .shorePhasor, .slotStalenessExpiry b .feederPower,
    .bridgeTimerExpiry b, .glideNearTarget b, .glideTargetReached b, .energiseRampComplete b, .energiseTimerExpiry b,
    .deEnergisingComplete b, .rampEnd b, .setpointKwStep b, .syncTimerExpiry b, .parallelTimerExpiry b,
    .overloadTimerExpiry b, .reversePowerTimerExpiry b, .closeDueExpiry b, .closePulseExpiry b, .tripPulseExpiry b,
    .closeConfirmExpiry b, .openConfirmExpiry b, .deadTimeExpiry b, .claimTimerExpiry b]

/-- The time-driven commands of one module. -/
def moduleTimed (m : ModuleId) : List Instr :=
  [.moduleStatusStale m, .retryWaitExpiry m, .retryWindowExpiry m, .blankingExpiry m]

/-- All time-driven commands, in the order in which those due at one instant are put in the queue (log 1). -/
def timedCommands : List Instr :=
  [.stationTick, .tripHoldEnd, .heartbeatTimerExpiry, .unlockTimerExpiry, .coalescingTimerExpiry] ++
    ModuleId.list.flatMap moduleTimed ++ Berth.list.flatMap berthTimed ++ [.journalWriteStart]

/-- R76: the acceptances of the breaker filters; as commands they are events whenever they come (log 8). -/
def filterCommands : List Instr := Berth.list.flatMap fun b => [.breakerViewRise b, .breakerViewFall b]

/-- What is due at this instant. -/
def State.dueList (s : State) : List Instr := (timedCommands ++ filterCommands).filter (isDue s)

/-! ## One microsecond -/

/-- The timers of a module. -/
def Module.advance (r : Module) : Module :=
  { r with staleTimer := r.staleTimer.tick, retryWait := r.retryWait.tick, retryWindow := r.retryWindow.tick }

/-- The timers and the breaker filter of a Synchronising Unit. -/
def Sync.advance (u : Sync) : Sync :=
  { u with
    heldUs := u.filterTick, closeDue := u.closeDue.tick, closePulse := u.closePulse.tick, tripPulse := u.tripPulse.tick
    closeConfirm := u.closeConfirm.tick, openConfirm := u.openConfirm.tick, deadTime := u.deadTime.tick }

/-- The staleness timer of a slot. -/
def Slot.advance {α : Type} (x : Slot α) : Slot α := { x with timer := x.timer.tick }

/-- The timers of an intake record. -/
def Meas.advance (m : Meas) : Meas :=
  { m with ship := m.ship.advance, shore := m.shore.advance, feeder := m.feeder.advance, bridge := m.bridge.tick }

/-- R103, R114: the voltage ramp. -/
def VoltRamp.advance : VoltRamp → VoltRamp
  | .rising us => .rising (us + 1)
  | .falling us => .falling (us + 1)
  | v => v

/-- R106, R110: the setpoint moves at the ramp rate: a rate in kW/s is that many mW per microsecond (log 11). -/
def Seq.moveSetpoint (rate : Nat) (q : Seq) : Nat :=
  match q.dir with
  | .rising => min (max q.setpoint (q.target * Config.powerUnit)) (q.setpoint + rate)
  | .falling => q.setpoint - rate
  | .level => q.setpoint

/-- The timers and ramps of a berth context. -/
def Seq.advance (p : BerthParams) (q : Seq) : Seq :=
  { q with
    setpoint := q.moveSetpoint p.rampRate, volt := q.volt.advance, energise := q.energise.tick
    syncT := q.syncT.tick, parallel := q.parallel.tick, overload := q.overload.tick, reverse := q.reverse.tick }

/-- Everything of a berth. -/
def advanceBerth (b : Berth) (s : State) : State :=
  let s := s.updOsc b fun o => o.tick (o.slewRate (s.params.get b) (s.shipFresh b))
  ((s.updMeas b Meas.advance).updSync b Sync.advance).updSeq b (Seq.advance (s.params.get b))

/-- R192: the count and the TIMEBASE frame, which starts every 1,000 µs with the count at its start bit. -/
def advanceCount (s : State) : State :=
  let now := s.now + 1
  if s.tbPhase + 1 < Config.timebaseFrameUs then { s with now := now, tbPhase := s.tbPhase + 1 }
  else { s with now := now, tbPhase := 0, tbValue := some now }

/-- One microsecond passes (log 1). -/
def advance (s : State) : State :=
  let s := forBerths advanceBerth (advanceCount s)
  { s with
    tripHold := s.tripHold.tick, mods := s.mods.map Module.advance
    claims := s.claims.map fun c => { c with timer := c.timer.tick }
    jour := { s.jour with coalTimer := s.jour.coalTimer.tick }
    page := { s.page with
      unlockTimer := s.page.unlockTimer.tick, hbTimer := s.page.hbTimer.tick
      lostUs := if s.page.presence = .lost then s.page.lostUs + 1 else s.page.lostUs } }

/-- R192: the TIMEBASE output: the start bit, then the 32 bits of the count, least significant first, then high. -/
def State.timebaseLine (s : State) : Bool :=
  match s.tbValue with
  | none => true
  | some v => if s.tbPhase = 0 then false else if s.tbPhase ≤ 32 then v.getLsbD (s.tbPhase - 1) else true

/-- Log 1: with no command waiting, what is due is put in the queue; where nothing is, a microsecond passes. -/
def idle (s : State) : State :=
  match s.dueList with
  | [] => advance s
  | l => { s with pending := l }

end Sys2Proof.Machine
end

