-- ==== Sys2Proof/Machine/CmdTimed.lean ====
section
/-! DEFINITION. Meanings of the commands that time drives: each takes its effect when its timer has elapsed or its
condition holds (log 2), and is no event otherwise. -/

namespace Sys2Proof.Machine

/-! ## Modules and claims -/

/-- R23: MODULE_STATUS_STALE. -/
def execModuleStatusStale (m : ModuleId) (s : State) : Result :=
  .next (whenDue (.moduleStatusStale m) (statusStale m) s)

/-- R33: RETRY_WAIT_EXPIRY. -/
def execRetryWaitExpiry (m : ModuleId) (s : State) : Result := .next (whenDue (.retryWaitExpiry m) (retryWaitEnd m) s)

/-- R34: RETRY_WINDOW_EXPIRY. -/
def execRetryWindowExpiry (m : ModuleId) (s : State) : Result :=
  .next (whenDue (.retryWindowExpiry m)
    (fun s => s.updMod m fun r => { r with fastCount := 0, slowCount := 0, retryWindow := .stopped }) s)

/-- R29: BLANKING_EXPIRY. -/
def execBlankingExpiry (m : ModuleId) (s : State) : Result :=
  .next (whenDue (.blankingExpiry m) (fun s => s.updMod m fun r => { r with blankExpiry := none }) s)

/-- R11: the claim times out: it leaves the queue, CONNECT completes and the berth returns to IDLE. -/
def claimTimeout (b : Berth) (s : State) : State :=
  let head := s.headClaim b
  let s := completeCurrent b .timeout (some .claimTimeout) (enterIdle b (removeClaim b s))
  tryIf head s

/-- R11: CLAIM_TIMER_EXPIRY. -/
def execClaimTimerExpiry (b : Berth) (s : State) : Result := .next (whenDue (.claimTimerExpiry b) (claimTimeout b) s)

/-! ## Intake -/

/-- R66: a slot goes stale. -/
def slotStale (b : Berth) : SlotKind → State → State
  | .shipPhasor => shipStale b
  | .shorePhasor => shoreStale b
  | .feederPower => feederStale b

/-- R66: SLOT_STALENESS_EXPIRY. -/
def execSlotStalenessExpiry (b : Berth) (k : SlotKind) (s : State) : Result :=
  .next (whenDue (.slotStalenessExpiry b k) (slotStale b k) s)

/-- R70: BRIDGE_TIMER_EXPIRY. -/
def execBridgeTimerExpiry (b : Berth) (s : State) : Result :=
  .next (whenDue (.bridgeTimerExpiry b) (fun s => s.updMeas b fun m => { m with bridge := .stopped }) s)

/-! ## Oscillator -/

/-- R50: GLIDE_NEAR_TARGET; the change of the effective mode is an evaluation instant (R78). -/
def execGlideNearTarget (b : Berth) (s : State) : Result :=
  .next (whenDue (.glideNearTarget b)
    (fun s => evaluate b (s.updOsc b (Osc.settle (s.shipFresh b)))) s)

/-- R45: GLIDE_TARGET_REACHED: the glide stops. -/
def execGlideTargetReached (b : Berth) (s : State) : Result :=
  .next (whenDue (.glideTargetReached b) (fun s => s.updOsc b fun o => { o with gliding := false }) s)

/-! ## Energising and de-energising -/

/-- R103: ENERGISE_RAMP_COMPLETE: the voltage setpoint is at nominal, and the energising check is made. -/
def execEnergiseRampComplete (b : Berth) (s : State) : Result :=
  .next (whenDue (.energiseRampComplete b)
    (fun s => checkEnergising b (s.updSeq b fun q => { q with volt := .nominal })) s)

/-- R104: ENERGISE_TIMER_EXPIRY. -/
def execEnergiseTimerExpiry (b : Berth) (s : State) : Result :=
  .next (whenDue (.energiseTimerExpiry b)
    (fun s => enterTripped b .energiseFailed (s.updSeq b fun q => { q with energise := .stopped })) s)

/-- R114: DE_ENERGISING_COMPLETE. -/
def execDeEnergisingComplete (b : Berth) (s : State) : Result :=
  .next (whenDue (.deEnergisingComplete b)
    (fun s => deEnergised b (s.updSeq b fun q => { q with volt := .zero })) s)

/-! ## The ramp -/

/-- R17: SETPOINT_KW_STEP. -/
def execSetpointKwStep (b : Berth) (s : State) : Result := .next (whenDue (.setpointKwStep b) (recomputeShares b) s)

/-- R106, R110: RAMP_END: the setpoint has reached its end and the direction becomes LEVEL. -/
def execRampEnd (b : Berth) (s : State) : Result :=
  .next (whenDue (.rampEnd b)
    (fun s => recomputeShares b (blankBerth b (s.updSeq b fun q => { q with dir := .level }))) s)

/-! ## Sequencer timers -/

/-- R105: SYNC_TIMER_EXPIRY. -/
def execSyncTimerExpiry (b : Berth) (s : State) : Result :=
  .next (whenDue (.syncTimerExpiry b)
    (fun s => completeCurrent b .timeout (some .syncTimeout) (enterState b .energised s)) s)

/-- R111: PARALLEL_TIMER_EXPIRY. -/
def execParallelTimerExpiry (b : Berth) (s : State) : Result :=
  .next (whenDue (.parallelTimerExpiry b) (controlledOpen b .handoverTimeout) s)

/-- R115: what the expiry of the overload timer does in each state. -/
def overloadExpired (b : Berth) (s : State) : State :=
  match (s.seq.get b).state with
  | .parallelIn | .parallelOut => controlledOpen b .overload s
  | .shoreOnly => enterTripped b .overload (issueTrip b s)
  | _ => enterTripped b .overload s

/-- R115: OVERLOAD_TIMER_EXPIRY. -/
def execOverloadTimerExpiry (b : Berth) (s : State) : Result :=
  .next (whenDue (.overloadTimerExpiry b) (overloadExpired b) s)

/-- R116: REVERSE_POWER_TIMER_EXPIRY. -/
def execReversePowerTimerExpiry (b : Berth) (s : State) : Result :=
  .next (whenDue (.reversePowerTimerExpiry b) (controlledOpen b .reversePower) s)

/-! ## Synchronising Unit -/

/-- R83: CLOSE_DUE_EXPIRY. -/
def execCloseDueExpiry (b : Berth) (s : State) : Result := .next (whenDue (.closeDueExpiry b) (closeDue b) s)

/-- R84: CLOSE_PULSE_EXPIRY. -/
def execClosePulseExpiry (b : Berth) (s : State) : Result :=
  .next (whenDue (.closePulseExpiry b) (fun s => s.updSync b fun u => { u with closePulse := .stopped }) s)

/-- R85: TRIP_PULSE_EXPIRY. -/
def execTripPulseExpiry (b : Berth) (s : State) : Result := .next (whenDue (.tripPulseExpiry b) (tripPulseEnd b) s)

/-- R88: CLOSE_CONFIRM_EXPIRY. -/
def execCloseConfirmExpiry (b : Berth) (s : State) : Result :=
  .next (whenDue (.closeConfirmExpiry b) (closeFailed b) s)

/-- R90: OPEN_CONFIRM_EXPIRY. -/
def execOpenConfirmExpiry (b : Berth) (s : State) : Result := .next (whenDue (.openConfirmExpiry b) (openFailed b) s)

/-- R93: DEAD_TIME_EXPIRY. -/
def execDeadTimeExpiry (b : Berth) (s : State) : Result :=
  .next (whenDue (.deadTimeExpiry b) (fun s => s.updSync b fun u => { u with deadTime := .stopped }) s)

/-! ## Station -/

/-- R125: STATION_TICK. -/
def execStationTick (s : State) : Result := .next (whenDue .stationTick tick s)

/-- R183: UNLOCK_TIMER_EXPIRY. -/
def execUnlockTimerExpiry (s : State) : Result := .next (whenDue .unlockTimerExpiry (setUnlock .closed .stopped) s)

/-- R186: HEARTBEAT_TIMER_EXPIRY. -/
def execHeartbeatTimerExpiry (s : State) : Result := .next (whenDue .heartbeatTimerExpiry heartbeatLost s)

/-- R157: COALESCING_TIMER_EXPIRY. -/
def execCoalescingTimerExpiry (s : State) : Result := .next (whenDue .coalescingTimerExpiry signalReady s)

/-- R152: JOURNAL_WRITE_START. -/
def execJournalWriteStart (s : State) : Result := .next (whenDue .journalWriteStart startWrite s)

/-- R96: TRIP_HOLD_END. -/
def execTripHoldEnd (s : State) : Result := .next (whenDue .tripHoldEnd endTripHold s)

end Sys2Proof.Machine
end

