-- ==== Sys2Proof/Machine/CmdBus.lean ====
section
/-! DEFINITION. Meanings of the commands of the resets, the breakers, the bus faces and the records of METER and
LINK. -/

namespace Sys2Proof.Machine

/-! ## Resets -/

/-- R188: POWER_ON_RESET, with the levels of BRK_CLOSED at its release. -/
def execPowerOnReset (c0 c1 c2 : Bool) (s : State) : Result := .next (powerOnReset c0 c1 c2 s)

/-- R96: LINE_RESET; RESET_N is already low where one is under way. -/
def execLineReset (s : State) : Result := .next (if s.resetLow then s else lineReset s)

/-- R142: LINE_RESET_RELEASE; without a line reset there is nothing to release. -/
def execLineResetRelease (s : State) : Result := .next (if s.resetLow then releaseReset s else s)

/-! ## Breakers (log 8) -/

/-- R76: BREAKER_VIEW_RISE: the filter accepts a rise; under the trip hold only the view follows (R96). -/
def execBreakerViewRise (b : Berth) (s : State) : Result :=
  .next (if (s.sync.get b).view then s
    else if s.inHold then setView b true s
    else breakerRise b (setView b true s))

/-- R76: BREAKER_VIEW_FALL: the filter accepts a fall; under the trip hold only the view follows (R96). -/
def execBreakerViewFall (b : Berth) (s : State) : Result :=
  .next (if !(s.sync.get b).view then s
    else if s.inHold then setView b false s
    else breakerFall b (setView b false s))

/-! ## Bus faces -/

/-- R161: TRANSFER_ACCEPT. -/
def execTransferAccept (t : Transfer) (s : State) : Result := acceptTransfer t s

/-- R171: REFUSED_RECORD_READ: a SUPERVISOR read of the record of tag `k`. -/
def execRefusedRecordRead (k : Tag) (s : State) : Result :=
  acceptTransfer
    { tag := .supervisor, addr := BitVec.ofNat 24 (Config.stationPageBase + 4 * (231 + k.num)), access := .read 1 } s

/-- R172: MEMORY_FACE_DONE. -/
def execMemoryFaceDone (s : State) : Result := .next (faceDone s)

/-- R152: JOURNAL_CLAIM_DONE. -/
def execJournalClaimDone (s : State) : Result := .next (claimDone s)

/-! ## Records -/

/-- R60: MEASUREMENT_RECORD: a METER write at the `k`-th 16-byte place of the berth's MEASURE window. -/
def execMeasurementRecord (b : Berth) (k : Nat) (w0 w1 w2 w3 : Word) (s : State) : Result :=
  intoWindow (s.berthWindow .measure b)
    (fun base => { tag := .meter, addr := BitVec.ofNat 24 (base + 16 * k), access := .write [w0, w1, w2, w3] }) s

/-- R21: MODULE_STATUS_RECORD: a LINK write of a module's record in the MODULE_STAT window. -/
def execModuleStatusRecord (m : ModuleId) (ws : List Word) (s : State) : Result :=
  intoWindow (findWindow s.bus.table .moduleStat)
    (fun base => { tag := .link, addr := BitVec.ofNat 24 (base + 32 * m.num), access := .write ws }) s

end Sys2Proof.Machine
end

