-- ==== Sys2Proof/Machine/CmdStation.lean ====
section
/-! DEFINITION. Meanings of the commands that are SUPERVISOR writes of a berth page or of the station page (log 5). -/

namespace Sys2Proof.Machine

/-! ## Requests (R99, R100) -/

/-- R102: CONNECT. -/
def execConnect (b : Berth) (tag : BitVec 16) (rest : List Word) (s : State) : Result :=
  berthWrite b 0 (requestWord RequestKind.connect.code tag :: rest) s

/-- R105: SYNC. -/
def execSync (b : Berth) (tag : BitVec 16) (rest : List Word) (s : State) : Result :=
  berthWrite b 0 (requestWord RequestKind.sync.code tag :: rest) s

/-- R108: GENS_OFF. -/
def execGensOff (b : Berth) (tag : BitVec 16) (rest : List Word) (s : State) : Result :=
  berthWrite b 0 (requestWord RequestKind.gensOff.code tag :: rest) s

/-- R109: GENS_ON. -/
def execGensOn (b : Berth) (tag : BitVec 16) (rest : List Word) (s : State) : Result :=
  berthWrite b 0 (requestWord RequestKind.gensOn.code tag :: rest) s

/-- R113: ABORT. -/
def execAbort (b : Berth) (tag : BitVec 16) (rest : List Word) (s : State) : Result :=
  berthWrite b 0 (requestWord RequestKind.abort.code tag :: rest) s

/-- R114: DISCONNECT. -/
def execDisconnect (b : Berth) (tag : BitVec 16) (rest : List Word) (s : State) : Result :=
  berthWrite b 0 (requestWord RequestKind.disconnect.code tag :: rest) s

/-- R118: CLEAR. -/
def execClear (b : Berth) (tag : BitVec 16) (rest : List Word) (s : State) : Result :=
  berthWrite b 0 (requestWord RequestKind.clear.code tag :: rest) s

/-- R100: UNKNOWN_REQUEST_KIND. -/
def execUnknownRequestKind (b : Berth) (kind : BitVec 8) (tag : BitVec 16) (rest : List Word) (s : State) : Result :=
  berthWrite b 0 (requestWord kind.toNat tag :: rest) s

/-- R99: REQUEST_SHADOW_WRITE. -/
def execRequestShadowWrite (b : Berth) (first : Nat) (ws : List Word) (s : State) : Result :=
  berthWrite b first ws s

/-! ## Commits (R177) -/

/-- A write of COMMIT. -/
def commitWrite (mask : Word) : Transfer := stationWrite 253 [mask]

/-- A mask that names a section, whatever else it names. -/
def naming (x : Section) (mask : Word) : Word := mask ||| BitVec.ofNat 32 (1 <<< x.bit)

/-- R163: COMMIT_WINDOWS. -/
def execCommitWindows (mask : Word) (s : State) : Result := acceptTransfer (commitWrite (naming .windows mask)) s

/-- R182: COMMIT_BERTHS. -/
def execCommitBerths (mask : Word) (s : State) : Result := acceptTransfer (commitWrite (naming .berths mask)) s

/-- R3: COMMIT_POOL. -/
def execCommitPool (mask : Word) (s : State) : Result := acceptTransfer (commitWrite (naming .pool mask)) s

/-- R149: COMMIT_JOURNAL. -/
def execCommitJournal (mask : Word) (s : State) : Result := acceptTransfer (commitWrite (naming .journal mask)) s

/-- R36: COMMIT_PROTECTION. -/
def execCommitProtection (mask : Word) (s : State) : Result :=
  acceptTransfer (commitWrite (naming .protection mask)) s

/-- R129: COMMIT_METROLOGY. -/
def execCommitMetrology (mask : Word) (s : State) : Result :=
  acceptTransfer (commitWrite (naming .metrology mask)) s

/-- R185: COMMIT_ATTENTION. -/
def execCommitAttention (mask : Word) (s : State) : Result :=
  acceptTransfer (commitWrite (naming .attention mask)) s

/-- R179: COMMIT_NAMING_NO_SECTION. -/
def execCommitNamingNoSection (mask : Word) (s : State) : Result := acceptTransfer (commitWrite mask) s

/-! ## Control words -/

/-- R186: HEARTBEAT. -/
def execHeartbeat (v : Word) (s : State) : Result := acceptTransfer (stationWrite 216 [v]) s

/-- R184: EVENT_ACK. -/
def execEventAck (v : Word) (s : State) : Result := acceptTransfer (stationWrite 218 [v]) s

/-- R183: UNLOCK. -/
def execUnlock (v : Word) (s : State) : Result := acceptTransfer (stationWrite 219 [v]) s

/-- R150: JOURNAL_CMD_START. -/
def execJournalCmdStart (s : State) : Result := acceptTransfer (stationWrite 220 [1]) s

/-- R150: JOURNAL_CMD_STOP. -/
def execJournalCmdStop (s : State) : Result := acceptTransfer (stationWrite 220 [2]) s

/-- R155: JOURNAL_CMD_RESET. -/
def execJournalCmdReset (s : State) : Result := acceptTransfer (stationWrite 220 [3]) s

/-- R156: JOURNAL_CONSUME. -/
def execJournalConsume (n : Word) (s : State) : Result := acceptTransfer (stationWrite 221 [n]) s

/-- R126: TIME_SET_DAY. -/
def execTimeSetDay (d : Word) (s : State) : Result := acceptTransfer (stationWrite 227 [d]) s

/-- R126: TIME_SET_SECOND. -/
def execTimeSetSecond (v : Word) (s : State) : Result := acceptTransfer (stationWrite 228 [v]) s

/-- R38: the MODULE_SERVICE word of an index and an action. -/
def serviceWord (idx : BitVec 4) (action : BitVec 8) : Word := put 0 4 idx.toNat ||| put 8 8 action.toNat

/-- R39: CLEAR_LOCKOUT. -/
def execClearLockout (idx : BitVec 4) (s : State) : Result :=
  acceptTransfer (stationWrite 229 [serviceWord idx ServiceAction.clearLockout.code]) s

/-- R40: TAKE_OUT. -/
def execTakeOut (idx : BitVec 4) (s : State) : Result :=
  acceptTransfer (stationWrite 229 [serviceWord idx ServiceAction.takeOut.code]) s

/-- R40: RETURN. -/
def execReturnModule (idx : BitVec 4) (s : State) : Result :=
  acceptTransfer (stationWrite 229 [serviceWord idx ServiceAction.returnModule.code]) s

/-- R38: UNKNOWN_SERVICE_ACTION. -/
def execUnknownServiceAction (idx : BitVec 4) (action : BitVec 8) (s : State) : Result :=
  acceptTransfer (stationWrite 229 [serviceWord idx action]) s

/-- R175: STATION_PAGE_WRITE. -/
def execStationPageWrite (first : Nat) (ws : List Word) (s : State) : Result :=
  acceptTransfer (stationWrite first ws) s

end Sys2Proof.Machine
end

