-- ==== Sys2Proof/Machine/Dispatch.lean ====
section
/-! DEFINITION. One arm for each command: its meaning. -/

namespace Sys2Proof.Machine

/-- The command's effect on everything but the queue. -/
def exec (i : Instr) (s : State) : Host.Outcome State Fault Refusal :=
  match i with
  | .powerOnReset closed0 closed1 closed2 => Sys2Proof.Machine.execPowerOnReset closed0 closed1 closed2 s
  | .lineReset => Sys2Proof.Machine.execLineReset s
  | .lineResetRelease => Sys2Proof.Machine.execLineResetRelease s
  | .tripHoldEnd => Sys2Proof.Machine.execTripHoldEnd s
  | .breakerViewRise b => Sys2Proof.Machine.execBreakerViewRise b s
  | .breakerViewFall b => Sys2Proof.Machine.execBreakerViewFall b s
  | .transferAccept t => Sys2Proof.Machine.execTransferAccept t s
  | .refusedRecordRead k => Sys2Proof.Machine.execRefusedRecordRead k s
  | .memoryFaceDone => Sys2Proof.Machine.execMemoryFaceDone s
  | .measurementRecord b k w0 w1 w2 w3 => Sys2Proof.Machine.execMeasurementRecord b k w0 w1 w2 w3 s
  | .moduleStatusRecord m ws => Sys2Proof.Machine.execModuleStatusRecord m ws s
  | .moduleStatusStale m => Sys2Proof.Machine.execModuleStatusStale m s
  | .retryWaitExpiry m => Sys2Proof.Machine.execRetryWaitExpiry m s
  | .retryWindowExpiry m => Sys2Proof.Machine.execRetryWindowExpiry m s
  | .blankingExpiry m => Sys2Proof.Machine.execBlankingExpiry m s
  | .claimTimerExpiry b => Sys2Proof.Machine.execClaimTimerExpiry b s
  | .slotStalenessExpiry b k => Sys2Proof.Machine.execSlotStalenessExpiry b k s
  | .bridgeTimerExpiry b => Sys2Proof.Machine.execBridgeTimerExpiry b s
  | .glideNearTarget b => Sys2Proof.Machine.execGlideNearTarget b s
  | .glideTargetReached b => Sys2Proof.Machine.execGlideTargetReached b s
  | .energiseRampComplete b => Sys2Proof.Machine.execEnergiseRampComplete b s
  | .energiseTimerExpiry b => Sys2Proof.Machine.execEnergiseTimerExpiry b s
  | .deEnergisingComplete b => Sys2Proof.Machine.execDeEnergisingComplete b s
  | .setpointKwStep b => Sys2Proof.Machine.execSetpointKwStep b s
  | .rampEnd b => Sys2Proof.Machine.execRampEnd b s
  | .syncTimerExpiry b => Sys2Proof.Machine.execSyncTimerExpiry b s
  | .parallelTimerExpiry b => Sys2Proof.Machine.execParallelTimerExpiry b s
  | .overloadTimerExpiry b => Sys2Proof.Machine.execOverloadTimerExpiry b s
  | .reversePowerTimerExpiry b => Sys2Proof.Machine.execReversePowerTimerExpiry b s
  | .closeDueExpiry b => Sys2Proof.Machine.execCloseDueExpiry b s
  | .closePulseExpiry b => Sys2Proof.Machine.execClosePulseExpiry b s
  | .tripPulseExpiry b => Sys2Proof.Machine.execTripPulseExpiry b s
  | .closeConfirmExpiry b => Sys2Proof.Machine.execCloseConfirmExpiry b s
  | .openConfirmExpiry b => Sys2Proof.Machine.execOpenConfirmExpiry b s
  | .deadTimeExpiry b => Sys2Proof.Machine.execDeadTimeExpiry b s
  | .stationTick => Sys2Proof.Machine.execStationTick s
  | .unlockTimerExpiry => Sys2Proof.Machine.execUnlockTimerExpiry s
  | .heartbeatTimerExpiry => Sys2Proof.Machine.execHeartbeatTimerExpiry s
  | .coalescingTimerExpiry => Sys2Proof.Machine.execCoalescingTimerExpiry s
  | .journalWriteStart => Sys2Proof.Machine.execJournalWriteStart s
  | .journalClaimDone => Sys2Proof.Machine.execJournalClaimDone s
  | .connect b tag rest => Sys2Proof.Machine.execConnect b tag rest s
  | .sync b tag rest => Sys2Proof.Machine.execSync b tag rest s
  | .gensOff b tag rest => Sys2Proof.Machine.execGensOff b tag rest s
  | .gensOn b tag rest => Sys2Proof.Machine.execGensOn b tag rest s
  | .abort b tag rest => Sys2Proof.Machine.execAbort b tag rest s
  | .disconnect b tag rest => Sys2Proof.Machine.execDisconnect b tag rest s
  | .clear b tag rest => Sys2Proof.Machine.execClear b tag rest s
  | .requestShadowWrite b first ws => Sys2Proof.Machine.execRequestShadowWrite b first ws s
  | .commitWindows mask => Sys2Proof.Machine.execCommitWindows mask s
  | .commitBerths mask => Sys2Proof.Machine.execCommitBerths mask s
  | .commitPool mask => Sys2Proof.Machine.execCommitPool mask s
  | .commitJournal mask => Sys2Proof.Machine.execCommitJournal mask s
  | .commitProtection mask => Sys2Proof.Machine.execCommitProtection mask s
  | .commitMetrology mask => Sys2Proof.Machine.execCommitMetrology mask s
  | .commitAttention mask => Sys2Proof.Machine.execCommitAttention mask s
  | .heartbeat v => Sys2Proof.Machine.execHeartbeat v s
  | .eventAck v => Sys2Proof.Machine.execEventAck v s
  | .unlock v => Sys2Proof.Machine.execUnlock v s
  | .journalCmdStart => Sys2Proof.Machine.execJournalCmdStart s
  | .journalCmdStop => Sys2Proof.Machine.execJournalCmdStop s
  | .journalCmdReset => Sys2Proof.Machine.execJournalCmdReset s
  | .journalConsume n => Sys2Proof.Machine.execJournalConsume n s
  | .timeSetDay d => Sys2Proof.Machine.execTimeSetDay d s
  | .timeSetSecond v => Sys2Proof.Machine.execTimeSetSecond v s
  | .clearLockout idx => Sys2Proof.Machine.execClearLockout idx s
  | .takeOut idx => Sys2Proof.Machine.execTakeOut idx s
  | .returnModule idx => Sys2Proof.Machine.execReturnModule idx s
  | .stationPageWrite first ws => Sys2Proof.Machine.execStationPageWrite first ws s
  | .unknownRequestKind b kind tag rest => Sys2Proof.Machine.execUnknownRequestKind b kind tag rest s
  | .unknownServiceAction idx action => Sys2Proof.Machine.execUnknownServiceAction idx action s
  | .commitNamingNoSection mask => Sys2Proof.Machine.execCommitNamingNoSection mask s

end Sys2Proof.Machine
end

