-- ==== Sys2Proof/Machine/Step.lean ====
section
/-! DEFINITION. The step: the command at the front of the queue, or the idle step on an empty queue. -/

namespace Sys2Proof.Machine

/-- One step: the command at the front of the queue is carried out on the state with the queue's rest; on an empty queue
time passes, or what is due is put in the queue (log 1). -/
def step (s : State) : Host.Outcome State Fault Refusal :=
  match s.pending with
  | [] => .next (idle s)
  | c :: rest => exec c { s with pending := rest }

/-- The command that a word spells by the table's bits, put at the front of the queue; no row gives bits, so no word
spells one and the state is unchanged. -/
def State.withFetchWord (s : State) (nbits w : Nat) : State :=
  match decodeTableWord nbits w with
  | some c => { s with pending := c :: s.pending }
  | none => s

end Sys2Proof.Machine
end

