-- ==== Sys2Proof/Safety.lean ====
section
/-! DEFINITION. The invariants of the machine: what every state that a run reaches has in common. Each is a property of
one state; Obligations states that every step keeps it and that it holds after reset. -/

namespace Sys2Proof.Machine

/-- Plant memory has its canonical form (log 4). -/
def State.MemOk (s : State) : Prop := memWf s.bus.mem = true

/-- R85: CLOSE and TRIP of one berth are not driven together. -/
def State.LinesOk (s : State) : Prop := ∀ b, ¬(s.closeLine b = true ∧ s.tripLine b = true)

/-- R144, R145: a record of one of the three classes: billing of a berth, metrology or event. -/
def Record.classified (r : Record) : Bool := Berth.list.any (fun b => r.isBilling b) || r.isMetrology || r.isEvent

/-- R145: the classes of the holding queue and their slots. -/
def State.QueueOk (s : State) : Prop :=
  (∀ b, billingHeld s.jour.queue b ≤ 3) ∧ metrologyHeld s.jour.queue ≤ 1 ∧ eventsHeld s.jour.queue ≤ 6 ∧
    s.jour.queue.all Record.classified = true

/-- The tags of the transfers in the chip: the one the face carries and those of the pass list. -/
def Bus.tags (u : Bus) : List Tag :=
  (match u.face with
    | some (.pass i) => [i.tag]
    | _ => []) ++ u.passList.map (·.tag)

/-- R161, R172: each of the three masters has at most one transfer in the chip. -/
def State.PassOk (s : State) : Prop := s.bus.tags.Nodup ∧ Tag.unknown ∉ s.bus.tags

/-- R9: a berth has an entry in the claim queue exactly when it is in WAITING_MODULES, and at most one. -/
def State.ClaimsOk (s : State) : Prop :=
  ∀ b, (s.claims.countP fun c => c.berth == b) = if (s.seq.get b).state = .waitingModules then 1 else 0

/-- R43: HOLD is never requested, a mode before hold is kept exactly in HOLD and is not HOLD itself, and the lock flag is
set only in TRACK_LOCK. -/
def Osc.Ok (o : Osc) : Prop :=
  o.requested ≠ .hold ∧ (o.beforeHold.isSome = true ↔ o.effective = .hold) ∧ o.beforeHold ≠ some .hold ∧
    (o.lock = true → o.effective = .trackLock)

/-- R43, R54: every oscillator is in order. -/
def State.OscOk (s : State) : Prop := ∀ b, (s.osc.get b).Ok

/-- R19: every commanded mode is the one that the module's standing calls for. -/
def State.ModesOk (s : State) : Prop := ∀ m, (s.mods.get m).mode = s.commandedMode (s.mods.get m).standing

/-- R31, R32: a retry wait runs only for a module in a retry wait state. -/
def State.RetryOk (s : State) : Prop := ∀ m, (s.mods.get m).retryWait = .stopped ∨
  ∃ b, (s.mods.get m).standing = .assigned b .retryWaitFast ∨ (s.mods.get m).standing = .assigned b .retryWaitSlow

/-- The states in which a berth carries a power setpoint (R98). -/
def BerthState.hasSetpoint : BerthState → Bool
  | .parallelIn | .parallelOut | .opening => true
  | _ => false

/-- R107, R98: a berth's setpoint lies within the smaller of contracted demand and healthy capacity, is 0 in the states
that carry none, and rises only in PARALLEL_IN, toward a target within the same bound. -/
def State.SetpointOk (s : State) (b : Berth) : Prop :=
  let q := s.seq.get b
  q.setpoint ≤ s.bound b * Config.powerUnit ∧ (q.state.hasSetpoint = false → q.setpoint = 0) ∧
    (q.state = .parallelIn → q.target ≤ s.bound b) ∧ (q.dir = .rising → q.state = .parallelIn)

/-- R4, R15, R121: a berth in IDLE or WAITING_MODULES has no module. -/
def State.IdleOk (s : State) : Prop :=
  ∀ b, (s.seq.get b).state = .idle ∨ (s.seq.get b).state = .waitingModules → ∀ m, (s.mods.get m).serves b = false

/-- R107: every berth's setpoint is in order. -/
def State.SetpointsOk (s : State) : Prop := ∀ b, s.SetpointOk b

/-! ## The arbiter (R173) and the parameters -/

/-- R173: the memory face is granted as soon as it is free and a claim waits; a granted claim of the record being
written is on the face, and the pass count goes from 0 to 4. -/
def State.ArbiterOk (s : State) : Prop :=
  (s.bus.face = none → s.bus.passList = [] ∧ waitingClaim s = none) ∧
    ((∃ w, s.jour.writing = some w ∧ w.granted = true) ↔ ∃ a ws, s.bus.face = some (.journal a ws true)) ∧
    s.bus.passCount ≤ 4

/-! ## The ring (R149, R152) -/

/-- R149, R152, R156, R160: the ring is in order: a configured one has its length in range, P and C lie below it, and room
for the record being written, so that at most one less than its length are unconsumed; one not configured has P and C 0 and
no record is being written. -/
def State.RingOk (s : State) : Prop :=
  match s.jour.ring with
  | none => s.jour.produce = 0 ∧ s.jour.consume = 0 ∧ s.jour.writing = none
  | some g =>
    16 ≤ g.length ∧ g.length ≤ 2048 ∧ s.jour.produce < g.length ∧ s.jour.consume < g.length ∧
      unconsumed g.length s.jour.produce s.jour.consume + 1 ≤ g.length ∧
      (s.jour.writing.isSome = true → unconsumed g.length s.jour.produce s.jour.consume + 1 < g.length)

/-! ## The window table (R163, R164) -/

/-- R164: an entry in order by itself; an entry of kind NONE always is. -/
def WindowEntry.Ok (e : WindowEntry) : Prop :=
  e.kind = .none ∨
    (e.base % 256 = 0 ∧ e.size % 256 = 0 ∧ 256 ≤ e.size ∧ e.size ≤ 1048576 ∧
      e.base + e.size ≤ Config.stationPageBase ∧ (e.kind = .measure ∨ e.kind = .berthPage → e.berth ≤ 2) ∧
      (e.kind = .berthPage ∨ e.kind = .moduleCmd ∨ e.kind = .moduleStat → e.size = 256))

/-- R164: two entries that may stand together: they share no byte, and of one kind only MEASURE and BERTH_PAGE entries
of different berths. -/
def WindowEntry.Apart (a c : WindowEntry) : Prop :=
  a.kind = .none ∨ c.kind = .none ∨
    ((a.base + a.size ≤ c.base ∨ c.base + c.size ≤ a.base) ∧
      (a.kind = c.kind → (a.kind = .measure ∨ a.kind = .berthPage) ∧ a.berth ≠ c.berth))

/-- R163, R164, R174: the window table in force: twelve entries, each in order and any two apart; all of kind NONE
before the first accepted WINDOWS commit since the last reset, and afterwards with MODULE_CMD, MODULE_STAT and
JOURNAL. -/
def State.TableOk (s : State) : Prop :=
  s.bus.table.length = 12 ∧ (∀ e ∈ s.bus.table, e.Ok) ∧ s.bus.table.Pairwise WindowEntry.Apart ∧
    (s.bus.firstCommit = false → ∀ e ∈ s.bus.table, e.kind = .none) ∧
    (s.bus.firstCommit = true → ∀ k ∈ [WindowKind.moduleCmd, .moduleStat, .journal], ∃ e ∈ s.bus.table, e.kind = k)

/-- R161, R174: the master face takes a transfer of this tag: RESET_N is high and the master has none outstanding. -/
def State.Takes (s : State) (t : Tag) : Prop := s.resetLow = false ∧ s.outstanding t = false

/-- A SUPERVISOR write of berth `b`'s page is taken: the window table is in order, `e` is the page's window, and the
master face takes the transfer. -/
def State.PageOpen (b : Berth) (e : WindowEntry) (s : State) : Prop :=
  s.TableOk ∧ s.berthWindow .berthPage b = some e ∧ s.Takes .supervisor

/-- A METER write of one record in berth `b`'s MEASURE window is taken: the table is in order, `e` is the window, the place
lies in it, and the master face takes the transfer. -/
def State.MeterOpen (b : Berth) (e : WindowEntry) (k : Nat) (s : State) : Prop :=
  s.TableOk ∧ s.berthWindow .measure b = some e ∧ s.Takes .meter ∧ 16 * k + 16 ≤ e.size

/-- A LINK write of module `m`'s record in MODULE_STAT is taken. -/
def State.LinkOpen (e : WindowEntry) (ws : List Word) (s : State) : Prop :=
  s.TableOk ∧ findWindow s.bus.table .moduleStat = some e ∧ s.Takes .link ∧ ws.length = 8

/-- The pass list entry of a write at a byte address. -/
def writeItem (t : Tag) (addr : Nat) (ws : List Word) : PassItem := { tag := t, addr := addr, load := .write ws }

/-- The pass list entry of a SUPERVISOR write of station page words from word `n` on. -/
def stationItem (n : Nat) (ws : List Word) : PassItem := writeItem .supervisor (Config.stationPageBase + 4 * n) ws

/-! ## Blanking (R29) -/

/-- R29: a module's blanking expiry over an event from `s` to `t`: a blanking event's where its commanded mode has changed,
its share has stepped by more than one tenth of its rating, or the ramp direction of berth `b` has changed; else as before. -/
def State.Blanked (b : Berth) (s t : State) (m : ModuleId) : Prop :=
  (t.mods.get m).blankExpiry =
    if (t.mods.get m).mode ≠ (s.mods.get m).mode ∨
        (s.mods.get m).rating < 10 * ((t.mods.get m).share - (s.mods.get m).share).natAbs ∨
        (t.seq.get b).dir ≠ (s.seq.get b).dir then
      blankedUntil s.now s.prot.blankingMs (s.mods.get m).blankExpiry
    else (s.mods.get m).blankExpiry

/-- R29: the blanking expiries of the modules that serve berth `b` before and after an event. -/
def State.BlanksModules (b : Berth) (s t : State) : Prop :=
  ∀ m, (s.mods.get m).serves b = true → (t.mods.get m).serves b = true → s.Blanked b t m

/-! ## What entry to a state drives (R98), and the end of a request (R101) -/

/-- R115: berth `b`'s overload timer after an evaluation in `t` that found it at `old`. -/
def State.overloadAfter (t : State) (b : Berth) (old : Timer) : Timer :=
  judgeTimer (t.overloaded b) (t.feederFresh b) (t.prot.overloadMs * 1000) old

/-- R116: berth `b`'s reverse power timer after an evaluation in `t` that found it at `old`. -/
def State.reverseAfter (t : State) (b : Berth) (old : Timer) : Timer :=
  judgeTimer (t.reversed b) (t.feederFresh b) 1000000 old

/-- R98: berth `b` of `t` stands in the state `new`, entered at the present instant of `s`, with what that state drives:
voltage and power setpoint, ramp direction and holds (R106, R110, R117, R120), timers (R115, R116), the oscillator's mode
(R44, R46), module modes (R19) and blanking (R29). The holds are kept from state to state (log 27). -/
structure State.Stands (b : Berth) (new : BerthState) (s t : State) : Prop where
  state : (t.seq.get b).state = new
  entry : (t.seq.get b).entry = s.now
  volt : (t.seq.get b).volt = voltOnEntry new (s.seq.get b).volt
  setpoint : new.hasSetpoint = false → (t.seq.get b).setpoint = 0
  level : new.isParallel = false → (t.seq.get b).dir = .level
  direction : (t.seq.get b).dir = (t.seq.get b).wantDir
  staleHold : (t.seq.get b).staleHold = ((s.seq.get b).staleHold || (new.isParallel && !s.feederFresh b))
  lostHold : (t.seq.get b).lostHold = ((s.seq.get b).lostHold || (new == .parallelIn && s.isLost))
  energise : new ≠ .energising → (t.seq.get b).energise = .stopped
  syncT : new.isWatching = false → (t.seq.get b).syncT = .stopped
  parallel : new.isParallel = false → (t.seq.get b).parallel = .stopped
  overload : (t.seq.get b).overload = if new.judgesOverload = true then t.overloadAfter b .stopped else .stopped
  reverse : (t.seq.get b).reverse = if new.judgesReverse = true then t.reverseAfter b .stopped else .stopped
  osc : ∀ o, modeRequest new = some o → t.osc.get b =
    if new = .energising ∧ (s.osc.get b).running = false then Osc.start (t.nominalFreq b)
    else (s.osc.get b).request (t.oscEnv b) o
  mode : ∀ o, modeRequest new = some o → (t.osc.get b).running = true → (t.osc.get b).requested = o
  modules : ∀ m, (t.mods.get m).standing = .assigned b .joining ∨ (t.mods.get m).standing = .assigned b .running →
    (t.mods.get m).mode = new.moduleMode
  blanking : s.ModesOk → s.BlanksModules b t

/-- R101: the request in progress in `q`, if there is one, has completed in `x`; else nothing has. -/
def Seq.Completes (q : Seq) (o : ReqOutcome) (c : Option Cause) (x : Seq) : Prop :=
  x.current = none ∧
    match q.current with
    | none => x.last = q.last ∧ x.count = q.count
    | some r =>
      x.last = { kind := r.kind.bits, tag := r.tag, outcome := o, cause := c, overtaken := none } ∧
        x.count = q.count + 1

/-- R118, R14: berth `b` is TRIPPED with a cause: its JOINING and RUNNING modules are blocked with share 0, BERTH_TRIP is
set, the request in progress has failed, and the EVENT TRIPPED tells the cause and the state left. -/
def State.Trips (b : Berth) (c : TripCause) (s t : State) : Prop :=
  s.Stands b .tripped t ∧ (t.seq.get b).tripCause = some c ∧ t.summaryBit (.berthTrip b) = true ∧
    t.jour = (emitEvent .tripped c.toCause.code (some b) [put 0 32 (s.seq.get b).state.code] s).jour ∧
    (s.seq.get b).Completes .failed (some c.toCause) (t.seq.get b) ∧
    ∀ m, (s.mods.get m).standing = .assigned b .joining ∨ (s.mods.get m).standing = .assigned b .running →
      (t.mods.get m).standing = .assigned b .blockedByBerth ∧ (t.mods.get m).mode = .blocked ∧ (t.mods.get m).share = 0

/-- R85, R89: berth `b` is in OPENING for a cause, with TRIP high and CLOSE low. -/
def State.Opens (b : Berth) (c : OpenCause) (s t : State) : Prop :=
  s.Stands b .opening t ∧ (t.seq.get b).openCause = some c ∧ (t.seq.get b).current = (s.seq.get b).current ∧
    (t.sync.get b).tripPulse = .running Config.pulseUs ∧ (t.sync.get b).closePulse = .stopped

/-! ## Frames: what a step leaves as it was -/

/-- Nothing changes but the records of the modules. -/
def State.ModsOnly (s t : State) : Prop := t = { s with mods := t.mods }

/-- Nothing of the station changes: time, resets, parameters in force for all berths, clock, bus, the waiting commands,
the page but for the event summary, and the journal but for its holding queue and lost-event counter. -/
structure State.SameStation (s t : State) : Prop where
  now : t.now = s.now
  tbPhase : t.tbPhase = s.tbPhase
  tbValue : t.tbValue = s.tbValue
  resetLow : t.resetLow = s.resetLow
  tripHold : t.tripHold = s.tripHold
  prot : t.prot = s.prot
  service : t.service = s.service
  clock : t.clock = s.clock
  carried : t.carried = s.carried
  bus : t.bus = s.bus
  pending : t.pending = s.pending
  page : t.page = { s.page with summary := t.page.summary }
  jour : t.jour = { s.jour with queue := t.jour.queue, lost := t.jour.lost }

/-- Only what belongs to berth `b` changes: its oscillator, measurement record, Synchronising Unit, context and session,
and the modules that serve it; of the station the event summary, the holding queue and the lost-event counter. -/
structure State.OnlyBerth (b : Berth) (s t : State) : Prop extends State.SameStation s t where
  claims : t.claims = s.claims
  params : t.params = s.params
  pendingParams : t.pendingParams = s.pendingParams
  counter : t.sessionCounter = s.sessionCounter
  osc : ∀ c, c ≠ b → t.osc.get c = s.osc.get c
  meas : ∀ c, c ≠ b → t.meas.get c = s.meas.get c
  sync : ∀ c, c ≠ b → t.sync.get c = s.sync.get c
  seq : ∀ c, c ≠ b → t.seq.get c = s.seq.get c
  sessions : ∀ c, c ≠ b → t.sessions.get c = s.sessions.get c
  mods : ∀ m, (s.mods.get m).serves b = false → t.mods.get m = s.mods.get m

/-- Nothing of berth `b` changes, and no module comes to it or leaves it. -/
structure State.KeepsBerth (b : Berth) (s t : State) : Prop where
  osc : t.osc.get b = s.osc.get b
  meas : t.meas.get b = s.meas.get b
  sync : t.sync.get b = s.sync.get b
  seq : t.seq.get b = s.seq.get b
  sessions : t.sessions.get b = s.sessions.get b
  params : t.params.get b = s.params.get b
  pendingParams : t.pendingParams.get b = s.pendingParams.get b
  mods : ∀ m, (s.mods.get m).serves b = true ∨ (t.mods.get m).serves b = true → t.mods.get m = s.mods.get m

/-! ## Ends of a berth's way -/

/-- What a controlled open leaves beside `Opens`: the setpoint within its bound, the pulse, and nothing outside the
berth (R89, R98). -/
def State.Opened (b : Berth) (s t : State) : Prop :=
  (t.seq.get b).setpoint = min (s.seq.get b).setpoint (s.bound b * 1000000) ∧
    t.sync.get b = { s.sync.get b with closePulse := .stopped, tripPulse := .running 100000 } ∧ s.OnlyBerth b t

/-- R121: berth `b` has entered IDLE, and nothing of the station has changed. -/
def State.Idles (b : Berth) (s t : State) : Prop :=
  (t.seq.get b).state = .idle ∧ (t.seq.get b).entry = s.now ∧ (t.seq.get b).profile = none ∧
    (t.seq.get b).setpoint = 0 ∧ (t.seq.get b).volt = .zero ∧ (t.seq.get b).tripCause = none ∧
    t.osc.get b = Osc.stopped ∧ t.sessions.get b = none ∧ (∀ c ∈ t.claims, c.berth ≠ b) ∧
    t.params.get b = ((s.pendingParams.get b).getD (s.params.get b)) ∧ t.pendingParams.get b = none ∧ s.SameStation t

/-! ## Capacity reports and feeder records -/

/-- R6, R17, R107, R115, R116: berth `b` over an event from `s` to `t` that may have changed its healthy modules. Where its
healthy capacity is another, the target and the setpoint follow the bound, the ramp takes its direction and the protection
timers are judged; in any case its modules' shares are recomputed, once (log 49). -/
def State.Reported (b : Berth) (s t : State) : Prop :=
  (t.healthy b = s.healthy b → t.seq.get b = { s.seq.get b with sharedKw := (s.seq.get b).wholeKw }) ∧
    (t.healthy b ≠ s.healthy b → t.seq.get b =
      { s.seq.get b with
        target := if (s.seq.get b).state.isParallel = true then t.bound b else (s.seq.get b).target
        setpoint := if (s.seq.get b).state.hasSetpoint = true then min (s.seq.get b).setpoint (t.bound b * 1000000)
          else (s.seq.get b).setpoint
        dir := (t.seq.get b).wantDir, sharedKw := (t.seq.get b).wholeKw
        overload := if (s.seq.get b).state.judgesOverload = true then t.overloadAfter b (s.seq.get b).overload
          else (s.seq.get b).overload
        reverse := if (s.seq.get b).state.judgesReverse = true then t.reverseAfter b (s.seq.get b).reverse
          else (s.seq.get b).reverse }) ∧
    (∀ m, (s.mods.get m).serves b = true → (t.mods.get m).serves b = true → (t.mods.get m).share = t.shareOf b m) ∧
    s.BlanksModules b t

/-- R115 to R117: berth `b` at a feeder record with meter status 0, before the release comparison, or with status fault on
a slot that was not FRESH: the stale hold is cleared, the ramp takes its direction with the blanking of its modules, and the
protection timers are judged on the fresh slot. That such a status-fault record starts a stopped timer whose condition holds
is the model's choice (log 41). -/
def State.FeederJudged (b : Berth) (s t : State) : Prop :=
  t.seq.get b =
      { s.seq.get b with
        staleHold := false, dir := (t.seq.get b).wantDir
        overload := if (s.seq.get b).state.judgesOverload = true then t.overloadAfter b (s.seq.get b).overload
          else (s.seq.get b).overload
        reverse := if (s.seq.get b).state.judgesReverse = true then t.reverseAfter b (s.seq.get b).reverse
          else (s.seq.get b).reverse } ∧
    t.osc = s.osc ∧ t.sync = s.sync ∧ s.BlanksModules b t ∧
    ∀ m, t.mods.get m = { s.mods.get m with blankExpiry := (t.mods.get m).blankExpiry }

/-! ## Records produced (R136 to R138, R142) -/

/-- Berth `b`'s open session, if there is one, produces the INTERVAL that closes it at `stop`, stamped `time`. -/
def produceInterval (forced step : Bool) (stop time : StationTime) (b : Berth) (s : State) : State :=
  match s.sessions.get b with
  | none => s
  | some x =>
    let i := (closeInterval s.clock.inForce.intervalMin stop forced step x).1
    admitInterval b { berth := some b, session := x.number, time := time, body := .interval i } i s

/-- Berth `b`'s open session, if there is one, produces its final INTERVAL and its SESSION_CLOSE. -/
def produceClose (cause : Nat) (stop : StationTime) (b : Berth) (s : State) : State :=
  match s.sessions.get b with
  | none => s
  | some x =>
    let y := (closeInterval s.clock.inForce.intervalMin stop true false x).2
    admitBilling b
      { berth := some b, session := x.number, time := s.clock.time, body := .sessionClose (closeWords y cause stop) }
      (produceInterval true false stop s.clock.time b s)

/-- R121: the EVENT RELEASED of a berth whose session has been closed. -/
def produceReleased (b : Berth) (p : Option ShipProfile) (s : State) : State :=
  emitEvent .released 0 (some b) ((p.map fun x => [x.shipCode, put 0 16 x.callNumber.toNat]).getD [0, 0])
    (s.setSession b none)

/-! ## The first ENERGISED (R104) -/

/-- R104, R135: berth `b` has become ENERGISED: the request in progress is DONE, and a first ENERGISED has opened a session
with the next number and produced SESSION_OPEN and the EVENT CONNECTED, in this order. -/
def State.BecomesEnergised (b : Berth) (s t : State) : Prop :=
  s.SameStation t ∧ s.Stands b .energised t ∧ (s.seq.get b).Completes .done none (t.seq.get b) ∧
    ((s.seq.get b).firstEnergised = true → s.OnlyBerth b t ∧ t.sessions = s.sessions ∧ t.jour = s.jour) ∧
    ∀ p, (s.seq.get b).firstEnergised = false → (s.seq.get b).profile = some p →
      (t.seq.get b).firstEnergised = true ∧ t.sessionCounter = nextSessionNumber s.sessionCounter ∧
      t.jour = (emitEvent .connected 0 (some b) [p.shipCode, put 0 16 p.callNumber.toNat, s.moduleMask b]
        { admitBilling b
            { berth := some b, session := nextSessionNumber s.sessionCounter, time := s.clock.time
              body := .sessionOpen
                [p.shipCode, fields [put 0 16 p.callNumber.toNat, put 16 2 p.reserve], put 0 32 p.demand,
                  put 0 32 p.nominalFreq, put 0 32 p.nominalVolt, s.clock.time.day, put 0 32 s.clock.time.second,
                  fields [put 0 2 s.band, put 8 8 s.clock.inForce.intervalMin]] } s with
          sessions := t.sessions }).jour ∧
      t.sessions.get b = some
        { number := nextSessionNumber s.sessionCounter, shipCode := p.shipCode, callNumber := p.callNumber
          demand := p.demand, opened := s.clock.time, totals := Energies.zero, peak := 0, intervals := 0
          interruptions := 0, parallels := 0, gaps := 0, trips := 0
          acc :=
            { start := s.clock.time, energy := Energies.zero, gap := false, timeStep := false, metrology := false } }

/-! ## Requests -/

/-- The commands that ask a sequencer: the berth, the kind's code, the tag and the words that follow word 0. -/
def request? : Instr → Option (Berth × BitVec 8 × BitVec 16 × List Word)
  | .connect b t rest => some (b, 1, t, rest)
  | .sync b t rest => some (b, 2, t, rest)
  | .gensOff b t rest => some (b, 3, t, rest)
  | .gensOn b t rest => some (b, 4, t, rest)
  | .abort b t rest => some (b, 5, t, rest)
  | .disconnect b t rest => some (b, 6, t, rest)
  | .clear b t rest => some (b, 7, t, rest)
  | .unknownRequestKind b k t rest => some (b, k, t, rest)
  | _ => none

/-- The pass list entry of a request: word 0 and the words that follow it, at the base of berth page window `e`. -/
def requestItem (e : WindowEntry) (kind : BitVec 8) (tag : BitVec 16) (rest : List Word) : PassItem :=
  writeItem .supervisor e.base (requestWord kind.toNat tag :: rest)

/-- A request of berth `b` finds the station present or not yet watched, and no request in progress. -/
def State.Asked (b : Berth) (e : WindowEntry) (rest : List Word) (s : State) : Prop :=
  s.PageOpen b e ∧ rest.length ≤ 7 ∧ s.page.presence ≠ .lost ∧ (s.seq.get b).current = none

/-- The commands that commit, with the mask each writes (log 5). -/
def commitMask? : Instr → Option Word
  | .commitWindows m => some (naming .windows m)
  | .commitBerths m => some (naming .berths m)
  | .commitPool m => some (naming .pool m)
  | .commitJournal m => some (naming .journal m)
  | .commitProtection m => some (naming .protection m)
  | .commitMetrology m => some (naming .metrology m)
  | .commitAttention m => some (naming .attention m)
  | .commitNamingNoSection m => some m
  | _ => none

end Sys2Proof.Machine
end

