-- ==== Sys2Proof/Certificates/Slice0/Obligations.lean ====
section
/-! DEFINITION. The statements for the provers. Each is about the commands' meanings or about one step; the names of the
model's own operations and frames are in Machine and in Safety. -/

open Sys2Proof Sys2Proof.Machine

/-! ## The step and time -/

/-- A step carries out the command at the front of the queue on the state with the queue's rest. -/
def Obligations.StepRunsFrontCommand : Prop :=
  ∀ (c : Instr) (rest : List Instr) (s : State),
    step { s with pending := c :: rest } = exec c { s with pending := rest }

/-- With no command waiting, what is due is put in the queue, and where nothing is, a microsecond passes; a time-driven
command that is not due changes nothing (the model's choice, logs 1 and 2). When each command is due: where its timer has
elapsed, in a state in which its rule gives it an effect, or where its condition holds. A breaker filter is due where its
input has held a level other than the view's for 5 ms; the input is driven from outside (log 8). The scales of frequencies
and setpoints and the mark of a glide are the model's (logs 10, 11 and 30). -/
def Obligations.IdleStepQueuesWhatIsDue : Prop :=
  (∀ s : State, s.pending = [] → s.dueList ≠ [] → step s = .next { s with pending := s.dueList }) ∧
    (∀ s : State, s.pending = [] → s.dueList = [] → step s = .next (advance s)) ∧
    (∀ (s : State) (c : Instr), isDue s c = true → c ∈ s.dueList) ∧
    (∀ (s : State) (c : Instr), c ∈ timedCommands → isDue s c = false → exec c s = .next s) ∧
    (∀ (s : State) (c : Instr), isDue s c = true →
      c ∈ timedCommands ∨ ∃ b, c = .breakerViewRise b ∨ c = .breakerViewFall b) ∧
    (∀ (s : State) (m : ModuleId) (c : Instr) (x : Timer),
      (c, x) ∈
        [(.tripHoldEnd, s.tripHold), (.unlockTimerExpiry, s.page.unlockTimer),
          (.coalescingTimerExpiry, s.jour.coalTimer), (.moduleStatusStale m, (s.mods.get m).staleTimer),
          (.retryWaitExpiry m, (s.mods.get m).retryWait), (.retryWindowExpiry m, (s.mods.get m).retryWindow)] →
      (isDue s c = true ↔ x = .running 0)) ∧
    (∀ (s : State) (b : Berth) (c : Instr) (x : Timer),
      (c, x) ∈
        [(.claimTimerExpiry b, s.claimTimer b), (.slotStalenessExpiry b .shipPhasor, (s.meas.get b).ship.timer),
          (.slotStalenessExpiry b .shorePhasor, (s.meas.get b).shore.timer),
          (.slotStalenessExpiry b .feederPower, (s.meas.get b).feeder.timer),
          (.bridgeTimerExpiry b, (s.meas.get b).bridge), (.closePulseExpiry b, (s.sync.get b).closePulse),
          (.tripPulseExpiry b, (s.sync.get b).tripPulse), (.deadTimeExpiry b, (s.sync.get b).deadTime)] →
      (isDue s c = true ↔ x = .running 0)) ∧
    (∀ (s : State) (b : Berth) (c : Instr) (x : Timer) (l : List BerthState),
      (c, x, l) ∈
        [(.energiseTimerExpiry b, (s.seq.get b).energise, [.energising]),
          (.syncTimerExpiry b, (s.seq.get b).syncT, [.matching, .armed]),
          (.parallelTimerExpiry b, (s.seq.get b).parallel, [.parallelIn, .parallelOut]),
          (.overloadTimerExpiry b, (s.seq.get b).overload,
            [.energising, .energised, .matching, .armed, .parallelIn, .shoreOnly, .parallelOut]),
          (.reversePowerTimerExpiry b, (s.seq.get b).reverse, [.parallelIn, .shoreOnly, .parallelOut]),
          (.closeDueExpiry b, (s.sync.get b).closeDue, [.armed]),
          (.closeConfirmExpiry b, (s.sync.get b).closeConfirm, [.closing]),
          (.openConfirmExpiry b, (s.sync.get b).openConfirm, [.opening])] →
      (isDue s c = true ↔ x = .running 0 ∧ (s.seq.get b).state ∈ l)) ∧
    (∀ s : State,
      (isDue s .heartbeatTimerExpiry = true ↔ s.page.hbTimer = .running 0 ∧ s.page.presence = .present) ∧
      (isDue s .stationTick = true ↔ 1000000 ≤ (s.now - s.clock.tickInstant).toNat) ∧
      (isDue s .journalWriteStart = true ↔ s.canWrite = true) ∧
      ∀ m, isDue s (.blankingExpiry m) = true ↔ ∃ x, (s.mods.get m).blankExpiry = some x ∧ (x - s.now).toInt ≤ 0) ∧
    (∀ (s : State) (b : Berth), ∀ q o, q = s.seq.get b → o = s.osc.get b →
      (isDue s (.glideNearTarget b) = true ↔ o.running = true ∧ o.requested ≠ o.effective ∧ o.requested ≠ .trackLock ∧
        o.governing (s.shipFresh b) = o.requested ∧ (o.freq - o.target) + (o.target - o.freq) ≤ 10000000) ∧
      (isDue s (.glideTargetReached b) = true ↔ o.running = true ∧ o.gliding = true ∧ o.freq = o.target) ∧
      (isDue s (.energiseRampComplete b) = true ↔
        q.state = .energising ∧ ∃ us, q.volt = .rising us ∧ (s.params.get b).energiseRampS * 1000000 ≤ us) ∧
      (isDue s (.deEnergisingComplete b) = true ↔
        q.state = .deEnergising ∧ ∃ us, q.volt = .falling us ∧ (s.params.get b).energiseRampS * 1000000 ≤ us) ∧
      (isDue s (.setpointKwStep b) = true ↔ q.setpoint / 1000000 ≠ q.sharedKw) ∧
      (isDue s (.rampEnd b) = true ↔
        q.dir = .rising ∧ q.target * 1000000 ≤ q.setpoint ∨ q.dir = .falling ∧ q.setpoint = 0)) ∧
    ∀ (s : State) (b : Berth),
      (isDue s (.breakerViewRise b) = true ↔
        (s.sync.get b).level = true ∧ (s.sync.get b).view = false ∧ 5000 ≤ (s.sync.get b).heldUs) ∧
      (isDue s (.breakerViewFall b) = true ↔
        (s.sync.get b).level = false ∧ (s.sync.get b).view = true ∧ 5000 ≤ (s.sync.get b).heldUs) ∧
      ∀ closed, s.driveBreaker b closed = s.updSync b fun u =>
        { u with level := closed, heldUs := if u.level = closed then u.heldUs else 0 }

/-- One microsecond: the count rises by one, each running timer that has not elapsed loses one microsecond, a stopped or
held timer keeps what it has, a breaker filter counts while its input differs from the view (log 8), the time lost rises in
LOST, and everything that time does not drive stays. -/
def Obligations.MicrosecondAdvancesTimers : Prop :=
  (∀ n, (Timer.running (n + 1)).tick = .running n) ∧ (Timer.running 0).tick = .running 0 ∧
    Timer.stopped.tick = .stopped ∧ (∀ n, (Timer.held n).tick = .held n) ∧
    ∀ s : State,
      (advance s).now = s.now + 1 ∧ (advance s).tripHold = s.tripHold.tick ∧
        (∀ m, (advance s).mods.get m =
          { s.mods.get m with
            staleTimer := (s.mods.get m).staleTimer.tick, retryWait := (s.mods.get m).retryWait.tick
            retryWindow := (s.mods.get m).retryWindow.tick }) ∧
        (advance s).claims = s.claims.map (fun c => { c with timer := c.timer.tick }) ∧
        (∀ b, (advance s).meas.get b =
          { s.meas.get b with
            ship := { (s.meas.get b).ship with timer := (s.meas.get b).ship.timer.tick }
            shore := { (s.meas.get b).shore with timer := (s.meas.get b).shore.timer.tick }
            feeder := { (s.meas.get b).feeder with timer := (s.meas.get b).feeder.timer.tick }
            bridge := (s.meas.get b).bridge.tick }) ∧
        (∀ b, (advance s).sync.get b =
          { s.sync.get b with
            heldUs := if (s.sync.get b).level = (s.sync.get b).view then 0 else (s.sync.get b).heldUs + 1
            closeDue := (s.sync.get b).closeDue.tick, closePulse := (s.sync.get b).closePulse.tick
            tripPulse := (s.sync.get b).tripPulse.tick, closeConfirm := (s.sync.get b).closeConfirm.tick
            openConfirm := (s.sync.get b).openConfirm.tick, deadTime := (s.sync.get b).deadTime.tick }) ∧
        (∀ b, (advance s).seq.get b =
          { s.seq.get b with
            setpoint := ((advance s).seq.get b).setpoint, volt := ((advance s).seq.get b).volt
            energise := (s.seq.get b).energise.tick, syncT := (s.seq.get b).syncT.tick
            parallel := (s.seq.get b).parallel.tick, overload := (s.seq.get b).overload.tick
            reverse := (s.seq.get b).reverse.tick }) ∧
        (advance s).jour = { s.jour with coalTimer := s.jour.coalTimer.tick } ∧
        (advance s).page =
          { s.page with
            unlockTimer := s.page.unlockTimer.tick, hbTimer := s.page.hbTimer.tick
            lostUs := if s.page.presence = .lost then s.page.lostUs + 1 else s.page.lostUs } ∧
        (advance s).bus = s.bus ∧ (advance s).clock = s.clock ∧ (advance s).sessions = s.sessions ∧
        (advance s).sessionCounter = s.sessionCounter ∧ (advance s).carried = s.carried ∧
        (advance s).prot = s.prot ∧ (advance s).params = s.params ∧
        (advance s).pendingParams = s.pendingParams ∧ (advance s).service = s.service ∧
        (advance s).resetLow = s.resetLow ∧ (advance s).pending = s.pending

/-- One microsecond of a running oscillator: f moves toward the glide target by the slew rate, or to the target where that
is nearer, the phase gains the mean of the starting and ending frequencies, and nothing else moves; a stopped one keeps
everything. A berth's setpoint moves by the ramp rate a microsecond in its direction, at most to its end, and the voltage
ramp runs on. Frequencies are in millionths of a mHz, phases in quanta of 2e15 to a turn, setpoints in mW, and a voltage
ramp is held as its microseconds (the model's scales, logs 10 to 12). -/
def Obligations.OscillatorAndRampsPerMicrosecond : Prop :=
  ∀ (s : State) (b : Berth),
    ((s.osc.get b).running = false → (advance s).osc.get b = s.osc.get b) ∧
      ((s.osc.get b).running = true →
        ∀ slew, slew = (if (s.osc.get b).governing (s.shipFresh b) = .island then (s.params.get b).islandSlew
            else (s.params.get b).slew) →
          ((s.osc.get b).freq ≤ (s.osc.get b).target →
            ((advance s).osc.get b).freq = min (s.osc.get b).target ((s.osc.get b).freq + slew)) ∧
          ((s.osc.get b).target ≤ (s.osc.get b).freq →
            ((advance s).osc.get b).freq = max (s.osc.get b).target ((s.osc.get b).freq - slew)) ∧
          (advance s).osc.get b =
            { s.osc.get b with
              freq := ((advance s).osc.get b).freq
              phase := ((s.osc.get b).phase + (s.osc.get b).freq + ((advance s).osc.get b).freq) % 2000000000000000 }) ∧
    ((s.seq.get b).dir = .level → ((advance s).seq.get b).setpoint = (s.seq.get b).setpoint) ∧
      ((s.seq.get b).dir = .rising → (s.seq.get b).setpoint ≤ (s.seq.get b).target * 1000000 →
        ((advance s).seq.get b).setpoint =
          min ((s.seq.get b).target * 1000000) ((s.seq.get b).setpoint + (s.params.get b).rampRate)) ∧
      ((s.seq.get b).dir = .falling →
        ((advance s).seq.get b).setpoint = (s.seq.get b).setpoint - (s.params.get b).rampRate) ∧
      (∀ us, (s.seq.get b).volt = .rising us → ((advance s).seq.get b).volt = .rising (us + 1)) ∧
      (∀ us, (s.seq.get b).volt = .falling us → ((advance s).seq.get b).volt = .falling (us + 1)) ∧
      ((s.seq.get b).volt = .zero ∨ (s.seq.get b).volt = .nominal →
        ((advance s).seq.get b).volt = (s.seq.get b).volt)

/-- TIMEBASE: a frame begins every 1,000 µs with a start bit at low and the count at that bit; the 32 bits of it follow,
least significant first, and the line is high until the next frame, and before the first. -/
def Obligations.TimebaseFrame : Prop :=
  (∀ s : State, s.tbPhase < 999 → (advance s).tbPhase = s.tbPhase + 1 ∧ (advance s).tbValue = s.tbValue) ∧
    (∀ s : State, s.tbPhase = 999 → (advance s).tbPhase = 0 ∧ (advance s).tbValue = some ((advance s).now)) ∧
    (∀ (s : State) (v : Word), s.tbValue = some v →
      (s.tbPhase = 0 → s.timebaseLine = false) ∧
        (∀ i, i < 32 → s.tbPhase = i + 1 → s.timebaseLine = v.getLsbD i) ∧
        (32 < s.tbPhase → s.timebaseLine = true)) ∧
    ∀ s : State, s.tbValue = none → s.timebaseLine = true

/-! ## Resets -/

/-- R41. -/
def Obligations.PowerOnClearsFaultMachinery : Prop :=
  ∀ (c0 c1 c2 : Bool) (s : State), ∃ t, exec (.powerOnReset c0 c1 c2) s = .next t ∧
    (∀ m, (t.mods.get m).deglitch = ⟨0, 0, 0, 0⟩ ∧ (t.mods.get m).blankExpiry = none ∧
      (t.mods.get m).fastCount = 0 ∧ (t.mods.get m).slowCount = 0 ∧ (t.mods.get m).retryWait = .stopped ∧
      (t.mods.get m).retryWindow = .stopped ∧ (t.mods.get m).standing ≠ .lockedOut ∧
      (t.mods.get m).standing ≠ .outOfService) ∧
    t.prot.deglitch = 2 ∧ t.prot.blankingMs = 100 ∧ t.prot.fastDelayMs = 1000 ∧ t.prot.fastCount = 2 ∧
    t.prot.slowDelayS = 60 ∧ t.prot.slowCount = 1 ∧
    t.service = { idx := 0, action := 0, outcome := .none, count := 0 }

/-- R140. -/
def Obligations.PowerOnStartsTariffClock : Prop :=
  ∀ (c0 c1 c2 : Bool) (s : State), ∃ t, exec (.powerOnReset c0 c1 c2) s = .next t ∧
    t.clock =
      { time := ⟨0, 0⟩, tickInstant := t.now, timeUnset := true, stagedDay := none
        inForce := { schedule := [⟨0, 0⟩], intervalMin := 15, bridgeS := 60 }, pending := none
        nextBoundary := ⟨0, 900⟩ } ∧
    (∀ b, t.sessions.get b = none) ∧ t.sessionCounter = 0 ∧ t.carried = none ∧ t.now = 0

/-- Power-on reset with every breaker open leaves the machine as after reset; plant memory and the waiting commands lie
outside the part (the model's choice, logs 4 and 9). A breaker that is closed at the release is taken as an uncommanded
close at that instant: TRIP is pulsed and the berth is TRIPPED, with its TRIPPED EVENT; a berth whose breaker is open is
IDLE with its dead time running. The order of the berths' EVENTs is the model's choice (log 33), and so are an idle memory
face, no response, and the values of registers for which the spec gives none, in the state after reset (logs 31 and 52).
-/
def Obligations.PowerOnTakesBreakerLevels : Prop :=
  (∀ s : State, exec (.powerOnReset false false false) s =
    .next { State.reset with bus := { State.reset.bus with mem := s.bus.mem }, pending := s.pending }) ∧
  ∀ (c0 c1 c2 : Bool) (s : State), ∃ t, exec (.powerOnReset c0 c1 c2) s = .next t ∧
    t.jour = (forBerths (fun b u => if (PerBerth.mk c0 c1 c2).get b = true then
      emitEvent .tripped TripCause.uncommandedClose.toCause.code (some b) [put 0 32 BerthState.idle.code] u else u)
      State.reset).jour ∧
    ∀ b, (t.sync.get b).view = (PerBerth.mk c0 c1 c2).get b ∧ (t.sync.get b).deadTime = .running 5000000 ∧
      ((PerBerth.mk c0 c1 c2).get b = true →
        (t.seq.get b).state = .tripped ∧ (t.seq.get b).tripCause = some .uncommandedClose ∧
          (t.sync.get b).tripPulse = .running 100000 ∧ t.summaryBit (.berthTrip b) = true) ∧
      ((PerBerth.mk c0 c1 c2).get b = false → t.seq.get b = Seq.reset 0 ∧ (t.sync.get b).tripPulse = .stopped)

/-- A line reset drives TRIP and ends CLOSE, puts everything outside the retained domain at its reset values, and
keeps the pool states LOCKED_OUT and OUT_OF_SERVICE, the clock but for the staged day, the sessions and their
counter, the holding queue with its sequence number, chain value and lost count, and plant memory; a transfer that
the face carries is carried on, those that wait are refused, and the refused-transfer records and the pass count are
clear. A carried session keeps its whole record, and one of a berth in SHORE_ONLY counts an interruption. Plant memory,
the instant at which the reset is taken, responses that stay readable, and the values of registers for which the spec gives
none (heartbeat period, latest heartbeat, start of the latest pulse, voltage difference and slip) are the model's (logs 4,
28, 31, 40 and 52). -/
def Obligations.LineResetKeepsRetainedDomain : Prop :=
  ∀ s : State, s.resetLow = false → ∃ t, exec .lineReset s = .next t ∧
    t.resetLow = true ∧ (∀ b, t.tripLine b = true ∧ t.closeLine b = false) ∧ t.attention = false ∧
    (∀ m, t.mods.get m =
      { Module.reset with
        standing := if (s.mods.get m).standing = .lockedOut then .lockedOut
          else if (s.mods.get m).standing = .outOfService then .outOfService else .available }) ∧
    t.claims = [] ∧ t.prot = Protection.default ∧ t.service = ServiceResult.reset ∧
    t.params = PerBerth.all BerthParams.default ∧ t.pendingParams = PerBerth.all none ∧
    t.osc = PerBerth.all Osc.stopped ∧ t.meas = PerBerth.all Meas.reset ∧
    (∀ b, t.sync.get b =
      { Sync.reset false .stopped with
        level := (s.sync.get b).level, heldUs := (s.sync.get b).heldUs, view := (s.sync.get b).view }) ∧
    t.seq = PerBerth.all (Seq.reset s.now) ∧
    t.clock = { s.clock with stagedDay := none } ∧ t.sessionCounter = s.sessionCounter ∧
    (∀ b, t.sessions.get b = if (s.seq.get b).state = .shoreOnly then
        (s.sessions.get b).map fun x => { x with interruptions := min (x.interruptions + 1) 65535 }
      else s.sessions.get b) ∧
    t.carried = (match s.carried with
      | some x => some x
      | none => if s.openSessions = 0 then none else some s.clock.time) ∧
    t.jour =
      { Journal.reset with
        queue := s.jour.queue, nextSeq := s.jour.nextSeq, chain := s.jour.chain, lost := s.jour.lost } ∧
    t.bus.table = List.replicate 12 WindowEntry.none ∧ t.bus.firstCommit = false ∧ t.bus.passList = [] ∧
    t.bus.refused = PerTag.all ⟨0, .none⟩ ∧ t.bus.passCount = 0 ∧
    t.bus.mem = s.bus.mem ∧ (∀ i ∈ s.bus.passList, t.bus.resp.get i.tag = some .refused) ∧
    (∀ k, (∀ i ∈ s.bus.passList, i.tag ≠ k) → t.bus.resp.get k = s.bus.resp.get k) ∧
    (∀ i, s.bus.face = some (.pass i) → t.bus.face = some (.pass i)) ∧
    (∀ a ws live, s.bus.face = some (.journal a ws live) → t.bus.face = some (.journal a ws false)) ∧
    (s.bus.face = none → t.bus.face = none) ∧
    t.page = Page.reset .line ∧ t.now = s.now ∧ t.tbPhase = s.tbPhase ∧ t.tbValue = s.tbValue ∧ t.pending = s.pending

/-- RESET_N returns high: the trip hold runs 100 ms more, and the sessions that were carried are closed, B0, B1, B2: each
with its final INTERVAL, which ends at the reset time and is PARTIAL, and its SESSION_CLOSE with cause RESET; RESET_RECOVERED
is set and its EVENT tells the number of sessions and the reset time. Without a carried session nothing more happens. What
the records hold is stated with the ends of sessions. That the entry instants are set again here, and that the EVENT comes
after the closing records, are the model's (logs 28 and 33). -/
def Obligations.ResetReleaseClosesCarriedSessions : Prop :=
  (∀ s : State, s.openSessions = Berth.list.countP fun b => (s.sessions.get b).isSome) ∧
  ∀ s : State, s.resetLow = true → ∃ t, exec .lineResetRelease s = .next t ∧
    t.resetLow = false ∧ t.tripHold = .running 100000 ∧ t.carried = none ∧
    (∀ b, t.seq.get b = { s.seq.get b with entry := s.now }) ∧
    (s.carried = none → t.jour = s.jour ∧ t.sessions = s.sessions ∧ t.page = s.page) ∧
    (∀ r : StationTime, s.carried = some r → (∀ b, t.sessions.get b = none) ∧
      t.summaryBit .resetRecovered = true ∧
      t.jour = (emitEvent .resetRecovered 0 none [put 0 32 s.openSessions, r.day, put 0 32 r.second]
        (forBerths (fun b u => produceClose 2 r b u) s)).jour) ∧
    t.mods = s.mods ∧ t.claims = s.claims ∧ t.osc = s.osc ∧ t.meas = s.meas ∧ t.sync = s.sync ∧ t.clock = s.clock ∧
    t.bus = s.bus ∧ t.params = s.params ∧ t.prot = s.prot ∧ t.sessionCounter = s.sessionCounter ∧ t.now = s.now ∧
    t.pending = s.pending

/-- The trip hold ends: every dead-time timer starts, and a berth whose breaker view is closed is tripped again; with
every view open nothing else changes. -/
def Obligations.TripHoldEndStartsDeadTimes : Prop :=
  (∀ s : State, s.tripHold = .running 0 → ∃ t, exec .tripHoldEnd s = .next t ∧ t.tripHold = .stopped ∧
    ∀ b, (t.sync.get b).deadTime = .running ((s.params.get b).deadTimeS * 1000000) ∧
      ((s.sync.get b).view = true →
        (t.seq.get b).state = .tripped ∧ (t.sync.get b).tripPulse = .running 100000 ∧
          (t.sync.get b).closePulse = .stopped)) ∧
    ∀ s : State, s.tripHold = .running 0 → (∀ b, (s.sync.get b).view = false) → ∃ y, exec .tripHoldEnd s =
      .next { s with tripHold := .stopped, sync := y } ∧
      ∀ b, y.get b = { s.sync.get b with deadTime := .running ((s.params.get b).deadTimeS * 1000000) }

/-! ## The bus path -/

/-- R165, with the treatments of R166 that are refusals and what R171 does at each refusal. -/
def Obligations.TransferRefusedRecordsCause : Prop :=
  ∀ (x : Transfer) (s : State), x.wellFormed = true → s.Takes x.tag →
    ∀ refusal : RefuseCause → State,
      (∀ c, refusal c = setSummary .refusedTransfer { s with bus := { s.bus with
        refused := s.bus.refused.set x.tag ⟨min ((s.bus.refused.get x.tag).count + 1) 65535, c⟩
        resp := s.bus.resp.set x.tag (some .refused) } }) →
      (x.tag = .unknown → exec (.transferAccept x) s = .next (refusal .badTag)) ∧
      (x.tag ≠ .unknown → s.burstRegion x.addr.toNat x.len = none →
        exec (.transferAccept x) s = .next (refusal .span)) ∧
      (x.tag = .meter ∨ x.tag = .link → ∀ ws, x.access = .write ws →
        s.burstRegion x.addr.toNat x.len = some .station →
        exec (.transferAccept x) s = .next (refusal .denied)) ∧
      (x.tag ≠ .unknown → ∀ ws n e, x.access = .write ws → s.burstRegion x.addr.toNat x.len = some (.window n e) →
        ¬(e.kind = .measure ∧ x.tag = .meter) → ¬(e.kind = .berthPage ∧ x.tag = .supervisor) →
        ¬(e.kind = .moduleStat ∧ x.tag = .link) → exec (.transferAccept x) s = .next (refusal .denied)) ∧
      (x.tag = .supervisor → ∀ ws n e, x.access = .write ws → s.burstRegion x.addr.toNat x.len = some (.window n e) →
        e.kind = .berthPage → 8 < (x.addr.toNat - e.base) / 4 + ws.length →
        exec (.transferAccept x) s = .next (refusal .denied)) ∧
      (x.tag = .meter → ∀ ws n e, x.access = .write ws → s.burstRegion x.addr.toNat x.len = some (.window n e) →
        e.kind = .measure → ¬(ws.length = 4 ∧ x.addr.toNat % 16 = 0) →
        exec (.transferAccept x) s = .next (refusal .badShape)) ∧
      (x.tag = .link → ∀ ws n e, x.access = .write ws → s.burstRegion x.addr.toNat x.len = some (.window n e) →
        e.kind = .moduleStat → ¬(ws.length = 8 ∧ (x.addr.toNat - e.base) % 32 = 0) →
        exec (.transferAccept x) s = .next (refusal .badShape))

/-- A transfer of a master that has one outstanding, or that comes while RESET_N is low, is held off and changes nothing
(the model's choice, log 6); one that no burst can be is refused by the model (log 7). A transfer to a PLAIN address, and a
read of a MEASURE, MODULE_STAT or JOURNAL window, passes: it joins the pass list, and nothing else is done with it. An
address belongs to the station page, else to the first window that covers it, else it is PLAIN; a burst has a classification
where all its words share one below the top of the address space. A snooped write that is carried out does what its row's
command does: a METER write of one record at a 16-byte place of MEASURE, a LINK write of one record of MODULE_STAT, a
SUPERVISOR write within words 0 to 7 of a berth page, a request among them, and one of station page words. That the command
of such a row is the whole transfer is the model's choice (log 5). -/
def Obligations.TransferHeldOffOrPasses : Prop :=
  (∀ (s : State) (a : Nat),
    (s.region a = .station ↔ 16776192 ≤ a) ∧
    (∀ n e, s.region a = .window n e ↔ a < 16776192 ∧ ∃ before after, s.bus.table = before ++ e :: after ∧
      before.length = n ∧ e.kind ≠ .none ∧ e.base ≤ a ∧ a < e.base + e.size ∧
      ∀ c ∈ before, ¬(c.kind ≠ .none ∧ c.base ≤ a ∧ a < c.base + c.size)) ∧
    ∀ len r, 1 ≤ len → (s.burstRegion a len = some r ↔
      a + 4 * len ≤ 16777216 ∧ ∀ i, i < len → s.region (a + 4 * i) = r)) ∧
  (∀ (x : Transfer) (s : State), x.wellFormed = true → (s.resetLow = true ∨ s.outstanding x.tag = true) →
    exec (.transferAccept x) s = .next s) ∧
  (∀ x : Transfer, x.wellFormed = true ↔ x.addr.toNat % 4 = 0 ∧ 1 ≤ x.len ∧ x.len ≤ 8) ∧
  (∀ (s : State) (k : Tag), s.outstanding k = true ↔
    (∃ i ∈ s.bus.passList, i.tag = k) ∨ ∃ i, s.bus.face = some (.pass i) ∧ i.tag = k) ∧
  (∀ (x : Transfer) (s : State) (ws : List Word), x.wellFormed = true → s.TableOk → x.access = .write ws →
    (x.tag = .supervisor → s.burstRegion x.addr.toNat x.len = some .station →
      exec (.transferAccept x) s = exec (.stationPageWrite ((x.addr.toNat - 16776192) / 4) ws) s) ∧
    ∀ n e, s.burstRegion x.addr.toNat x.len = some (.window n e) → ∀ at' : Nat, at' = x.addr.toNat - e.base →
      (∀ b w0 w1 w2 w3, x.tag = .meter → e.kind = .measure → e.berth = Berth.num b → x.addr.toNat % 16 = 0 →
        ws = [w0, w1, w2, w3] →
        exec (.transferAccept x) s = exec (.measurementRecord b (at' / 16) w0 w1 w2 w3) s) ∧
      (∀ m, x.tag = .link → e.kind = .moduleStat → at' = 32 * ModuleId.num m → ws.length = 8 →
        exec (.transferAccept x) s = exec (.moduleStatusRecord m ws) s) ∧
      ∀ b, x.tag = .supervisor → e.kind = .berthPage → e.berth = Berth.num b → at' / 4 + ws.length ≤ 8 →
        exec (.transferAccept x) s = exec (.requestShadowWrite b (at' / 4) ws) s ∧
        ∀ c k t rest, request? c = some (b, k, t, rest) → at' = 0 → ws = requestWord k.toNat t :: rest →
          exec (.transferAccept x) s = exec c s) ∧
  (∀ (x : Transfer) (s : State), x.wellFormed = false → exec (.transferAccept x) s = .refused .illFormed) ∧
  ∀ (x : Transfer) (s : State), x.wellFormed = true → s.Takes x.tag → x.tag ≠ .unknown →
    (s.burstRegion x.addr.toNat x.len = some .plain →
      (∀ ws, x.access = .write ws →
        exec (.transferAccept x) s = .next (passOn (writeItem x.tag x.addr.toNat ws) s)) ∧
      ∀ len, x.access = .read len → (x.tag = .link → s.bus.firstCommit = true) →
        exec (.transferAccept x) s =
          .next (passOn { tag := x.tag, addr := x.addr.toNat, load := .read [] (List.replicate len none) [] } s)) ∧
    ∀ n e len, s.burstRegion x.addr.toNat x.len = some (.window n e) → x.access = .read len →
      e.kind = .measure ∨ e.kind = .moduleStat ∨ e.kind = .journal → (x.tag = .link → s.bus.firstCommit = true) →
      exec (.transferAccept x) s =
        .next (passOn { tag := x.tag, addr := x.addr.toNat, load := .read [] (List.replicate len none) [] } s)

/-- The arbiter: a transfer that passes waits behind those of the pass list while the face is busy, and is granted an idle
face; at a free face the head of the pass list goes first, and the journal claim goes when the list is empty or after
four passing transfers. That the response last given to the master is withdrawn when its next transfer passes is the
model's (log 40). -/
def Obligations.ArbiterGrantsFace : Prop :=
  (∀ (s : State) (w : Writing), waitingClaim s = some w ↔ s.jour.writing = some w ∧ w.granted = false) ∧
  (∀ (i : PassItem) (s : State), s.bus.face.isSome = true → passOn i s =
    { s with bus := { s.bus with passList := s.bus.passList ++ [i], resp := s.bus.resp.set i.tag none } }) ∧
    (∀ (i : PassItem) (s : State), s.bus.face = none → s.bus.passList = [] → waitingClaim s = none → passOn i s =
      { s with bus := { s.bus with
        face := some (.pass i), passCount := min (s.bus.passCount + 1) 4, resp := s.bus.resp.set i.tag none } }) ∧
    (∀ (i : PassItem) (l : List PassItem) (s : State), s.bus.face = none → s.bus.passList = i :: l →
      waitingClaim s = none ∨ s.bus.passCount ≠ 4 → grant s =
        { s with bus := { s.bus with
          face := some (.pass i), passList := l, passCount := min (s.bus.passCount + 1) 4 } }) ∧
    (∀ (w : Writing) (s : State), s.bus.face = none → waitingClaim s = some w →
      s.bus.passList = [] ∨ s.bus.passCount = 4 → grant s =
        { s with
          jour := { s.jour with writing := some { w with granted := true } }
          bus := { s.bus with
            face := some (.journal (claimBurst s w).1 (claimBurst s w).2 true), passCount := 0 } }) ∧
    ∀ s : State, s.bus.passList = [] → waitingClaim s = none → grant s = s

/-- R168. -/
def Obligations.LinkReadsZeroBeforeFirstCommit : Prop :=
  ∀ (x : Transfer) (s : State), x.wellFormed = true → s.Takes x.tag → s.bus.firstCommit = false → s.TableOk →
    (∀ len r, x.tag = .link → x.access = .read len → s.burstRegion x.addr.toNat x.len = some r →
      exec (.transferAccept x) s =
        .next { s with bus := { s.bus with resp := s.bus.resp.set .link (some (.done (List.replicate len 0))) } }) ∧
      (∀ len, x.tag = .link → x.access = .read len → s.burstRegion x.addr.toNat x.len = none →
        exec (.transferAccept x) s = .next (refuseTransfer .link .span s)) ∧
      (∀ ws r, x.tag = .link → x.access = .write ws → s.burstRegion x.addr.toNat x.len = some r → r ≠ .station →
        exec (.transferAccept x) s = .next (passOn (writeItem .link x.addr.toNat ws) s)) ∧
      ∀ len r, x.tag = .supervisor ∨ x.tag = .meter → x.access = .read len →
        s.burstRegion x.addr.toNat x.len = some r → r ≠ .station →
        exec (.transferAccept x) s =
          .next (passOn { tag := x.tag, addr := x.addr.toNat, load := .read [] (List.replicate len none) [] } s)

/-- Reads of module command records and of berth page words 8 to 63 are answered at once with the words as they stand, and
change nothing but the response; a read of a berth page that begins in words 0 to 7 passes, its memory-face transfer spans
words up to 7, and the words from 8 on are substituted. A read of the station page is answered at once where every word is
substituted; else it passes, with a memory-face transfer from the first memory word to the last. A SUPERVISOR read clears
the refused-transfer records that it covers. Which station page words are substituted, and the layout of these and of the
berth status. How a field stands in a word, and the codes of 11.2 and 11.3 in the order of their tables. That the response
stays until the next transfer is the model's (log 40), and so are the scales and roundings of what is shown (logs 10 to 13,
42 and 48), over-wide fields cut to their low bits (log 29), the low four bits of an unknown request kind (log 24), the input
shown apart from the view (log 8), the accepted sections in word 255 alone (log 47) and 0 for a voltage difference or slip
that there is not (log 52). -/
def Obligations.SubstitutedReadsAnswerSnapshot : Prop :=
  (∀ (lo len v : Nat) (x : Int) (f : Bool) (w : Word) (ws : List Word) (i : Nat),
    put lo len v = BitVec.ofNat 32 (v % 2 ^ len * 2 ^ lo) ∧
    putInt lo len x = BitVec.ofNat 32 ((x % 2 ^ len).toNat * 2 ^ lo) ∧
    putBit lo f = (if f = true then BitVec.ofNat 32 (2 ^ lo) else 0) ∧
    (fields ws).getLsbD i = (ws.any fun y => y.getLsbD i) ∧ field w lo len = w.toNat / 2 ^ lo % 2 ^ len) ∧
  (Berth.list = [.b0, .b1, .b2] ∧ Berth.list.map Berth.num = List.range 3 ∧
    ModuleId.list = [.m0, .m1, .m2, .m3, .m4, .m5, .m6, .m7] ∧ ModuleId.list.map ModuleId.num = List.range 8 ∧
    [Tag.supervisor, .meter, .link, .unknown].map Tag.num = List.range 4 ∧
    [BerthState.idle, .waitingModules, .energising, .energised, .matching, .armed, .closing, .parallelIn, .shoreOnly,
      .parallelOut, .opening, .deEnergising, .tripped].map BerthState.code = List.range 13 ∧
    (∀ f ∈ [RequestKind.code, fun k => k.bits.toNat],
      [RequestKind.connect, .sync, .gensOff, .gensOn, .abort, .disconnect, .clear].map f = List.range' 1 7) ∧
    (∀ n k, RequestKind.ofCode? n = some k ↔ n = k.code) ∧
    [ReqOutcome.none, .done, .failed, .timeout, .aborted, .refusedState, .refusedParam, .refusedBusy, .refusedLost,
      .refusedTimeUnset, .refusedBacklog].map ReqOutcome.code = List.range 11 ∧
    [none, some Cause.claimTimeout, some .syncTimeout, some .energiseFailed, some .closeFailed, some .openFailed,
      some .uncommandedClose, some .overload, some .externalOpen, some .abort, some .lost, some .loadReturned,
      some .handoverTimeout, some .reversePower].map causeCode = List.range 14 ∧
    [TripCause.energiseFailed, .openFailed, .uncommandedClose, .overload].map TripCause.toCause =
      [.energiseFailed, .openFailed, .uncommandedClose, .overload] ∧
    [OpenCause.overload, .loadReturned, .handoverTimeout, .reversePower].map OpenCause.toCause =
      [.overload, .loadReturned, .handoverTimeout, .reversePower] ∧
    [OscMode.nominal, .trackSlip, .trackLock, .island, .hold].map OscMode.code = List.range 5 ∧
    [WatchState.notWatching, .watching, .armed, .closeWait, .closedWatch, .openWait].map WatchState.code =
      List.range 6 ∧
    [Direction.level, .rising, .falling].map Direction.code = List.range 3 ∧
    [Freshness.noData, .fresh, .stale].map Freshness.code = List.range 3 ∧
    (∀ n, [Timer.stopped, .running n, .held n].map Timer.code = List.range 3 ∧
      [Timer.stopped, .running n, .held n].map Timer.left = [0, n, n] ∧
      [Timer.stopped, .running n, .held n].map Timer.isRunning = [false, true, false]) ∧
    (∀ b r, [Standing.available, .assigned b r, .lockedOut, .outOfService].map Standing.code = List.range 4 ∧
      [Standing.available, .assigned b r, .lockedOut, .outOfService].map Standing.berth? = [none, some b, none, none] ∧
      [Standing.available, .assigned b r, .lockedOut, .outOfService].map Standing.run? = [none, some r, none, none]) ∧
    (∀ (x : Module) (b : Berth), x.serves b = true ↔ ∃ r, x.standing = .assigned b r) ∧
    [RunState.joining, .running, .retryWaitFast, .retryWaitSlow, .blockedByBerth].map RunState.code =
      List.range' 1 5 ∧
    [CmdMode.off, .blocked, .form, .follow].map CmdMode.code = List.range 4 ∧
    [ModuleState.ready, .running, .fault].map ModuleState.code = List.range' 1 3 ∧
    [Channel.initial, .started, .stopPending, .stopped].map Channel.code = List.range 4 ∧
    [Coalescing.waitingFirst, .running, .signalled].map Coalescing.code = List.range 3 ∧
    [ServiceOutcome.none, .done, .refusedState, .refusedAssigned, .badRequest].map ServiceOutcome.code =
      List.range 5 ∧
    [RefuseCause.none, .badTag, .span, .denied, .badShape].map RefuseCause.code = List.range 5 ∧
    [CommitOutcome.none, .accepted, .badCrc, .badRange, .badState, .locked, .noJournalRoom].map CommitOutcome.code =
      List.range 7 ∧
    (∀ v, [Unlock.closed, .firstTaken v, .opened].map Unlock.code = List.range 3) ∧
    [Section.windows, .berths, .pool, .journal, .protection, .metrology, .attention].map Section.bit = List.range 7 ∧
    [Presence.inactive, .awaiting, .present, .lost].map Presence.code = List.range 4 ∧
    [SummaryBit.journalReady, .requestDone .b0, .requestDone .b1, .requestDone .b2, .berthTrip .b0, .berthTrip .b1,
      .berthTrip .b2, .measureStale .b0, .measureStale .b1, .measureStale .b2, .moduleLockout, .configDone, .eventsLost,
      .refusedTransfer, .supervisorLost, .resetRecovered].map SummaryBit.pos = List.range 16 ∧
    ∀ (fresh : Bool) (o : Osc), o.sourceUnavailable fresh = true ↔
      o.running = true ∧ (o.requested = .trackSlip ∨ o.requested = .trackLock) ∧ fresh = false) ∧
  (∀ (x : Transfer) (s : State) (n : Nat) (e : WindowEntry) (len : Nat),
    x.wellFormed = true → s.Takes x.tag → x.tag ≠ .unknown → (x.tag = .link → s.bus.firstCommit = true) →
    x.access = .read len → s.burstRegion x.addr.toNat x.len = some (.window n e) →
    (e.kind = .moduleCmd → exec (.transferAccept x) s = .next { s with bus := { s.bus with
      resp := s.bus.resp.set x.tag
        (some (.done ((List.range len).map fun i => s.cmdWord ((x.addr.toNat - e.base) / 4 + i)))) } }) ∧
    ∀ b : Berth, e.kind = .berthPage → e.berth = b.num →
      (8 ≤ (x.addr.toNat - e.base) / 4 → exec (.transferAccept x) s = .next { s with bus := { s.bus with
        resp := s.bus.resp.set x.tag
          (some (.done ((List.range len).map fun i => s.berthWord b ((x.addr.toNat - e.base) / 4 + i)))) } }) ∧
      ∀ k, k = (x.addr.toNat - e.base) / 4 → k < 8 → exec (.transferAccept x) s = .next (passOn
        { tag := x.tag, addr := x.addr.toNat
          load := .read [] (List.replicate (min len (8 - k)) none)
            ((List.range (len - (8 - k))).map fun i => s.berthWord b (8 + i)) } s)) ∧
  (∀ (x : Transfer) (s u : State) (n len : Nat), x.wellFormed = true → s.Takes x.tag → x.tag ≠ .unknown →
    (x.tag = .link → s.bus.firstCommit = true) → x.access = .read len →
    s.burstRegion x.addr.toNat x.len = some .station → n = (x.addr.toNat - 16776192) / 4 →
    u = { s with bus := { s.bus with refused := u.bus.refused } } →
    (∀ k : Tag, u.bus.refused.get k = if x.tag = .supervisor ∧ n ≤ 231 + k.num ∧ 231 + k.num < n + len then ⟨0, .none⟩
      else s.bus.refused.get k) →
    ((∀ i, i < len → (s.stationWord (n + i)).isSome = true) → exec (.transferAccept x) s = .next { u with bus :=
      { u.bus with
        resp := s.bus.resp.set x.tag
          (some (.done ((List.range len).map fun i => (s.stationWord (n + i)).getD 0))) } }) ∧
    ((∃ i, i < len ∧ s.stationWord (n + i) = none) → ∃ before span after,
      ((List.range len).map fun i => s.stationWord (n + i)) = before.map some ++ span ++ after.map some ∧
        span.head? = some none ∧ span.getLast? = some none ∧ exec (.transferAccept x) s = .next (passOn
          { tag := x.tag, addr := x.addr.toNat + 4 * before.length, load := .read before span after } u))) ∧
  (∀ s : State,
    (∀ n, (s.stationWord n).isSome = true ↔
      n = 217 ∨ 222 ≤ n ∧ n ≤ 228 ∨ 230 ≤ n ∧ n ≤ 251 ∨ n = 254 ∨ n = 255) ∧
    s.stationWord 217 = some (s.page.summary.setWidth 32) ∧
    s.stationWord 222 = some (fields
      [put 0 2 s.jour.channel.code, putBit 2 s.jour.writing.isSome, putBit 3 (s.bus.firstCommit && s.jour.ring.isSome),
        put 4 2 s.jour.coalescing.code, putBit 6 (metrologyHeld s.jour.queue != 0),
        put 7 2 (billingHeld s.jour.queue .b0), put 9 2 (billingHeld s.jour.queue .b1),
        put 11 2 (billingHeld s.jour.queue .b2), put 13 3 (eventsHeld s.jour.queue), put 16 5 s.jour.queue.length,
        put 21 11 (unconsumed s.jour.len s.jour.produce s.jour.consume)]) ∧
    s.stationWord 223 = some (fields [put 0 12 s.jour.len, put 16 16 s.jour.refusals]) ∧
    s.stationWord 224 = some (fields [put 0 11 s.jour.produce, put 16 11 s.jour.consume]) ∧
    s.stationWord 225 = some s.jour.nextSeq ∧ s.stationWord 226 = some (put 0 16 s.jour.lost) ∧
    s.stationWord 227 = some s.clock.time.day ∧
    s.stationWord 228 = some (fields [put 0 17 s.clock.time.second, put 20 2 s.band, putBit 24 s.clock.timeUnset]) ∧
    s.stationWord 230 = some (fields
      [put 0 4 s.service.idx.toNat, put 8 8 s.service.action.toNat, put 16 4 s.service.outcome.code,
        put 24 8 s.service.count.toNat]) ∧
    (∀ k : Tag, s.stationWord (231 + k.num) =
      some (fields [put 0 16 (s.bus.refused.get k).count, put 16 3 (s.bus.refused.get k).cause.code])) ∧
    (∀ m : ModuleId, s.stationWord (235 + m.num) = some (fields
      [putBit 0 (s.mods.get m).present, put 1 2 (s.mods.get m).standing.code,
        put 3 2 (((s.mods.get m).standing.berth?.map Berth.num).getD 0),
        put 5 3 (((s.mods.get m).standing.run?.map RunState.code).getD 0), put 8 2 (s.mods.get m).mode.code,
        putBit 10 (s.mods.get m).fit, putBit 11 (s.mods.get m).stale,
        put 12 2 (((s.mods.get m).latest.map fun y => y.state.code).getD 0), put 16 5 ((s.mods.get m).rating / 100),
        put 24 8 (s.mods.get m).badCount])) ∧
    (∀ b : Berth, ∀ c, c = (s.meas.get b).counters →
      s.stationWord (243 + 3 * b.num) = some (fields [put 0 16 c.badRecord, put 16 16 c.timeBad]) ∧
      s.stationWord (244 + 3 * b.num) = some (fields [put 0 16 c.outOfOrder, put 16 16 c.implausible]) ∧
      s.stationWord (245 + 3 * b.num) = some (fields [put 0 16 c.meterStatus, put 16 16 c.gap])) ∧
    s.stationWord 254 = some (fields
      [put 0 3 s.page.result.outcome.code, put 3 2 s.page.unlock.code, put 5 7 s.page.result.mask.toNat,
        put 12 3 ((s.page.result.sect.map fun x => x.bit + 1).getD 0), put 16 8 s.page.result.count.toNat,
        put 24 8 s.page.result.index]) ∧
    s.stationWord 255 = some (fields
      [putBit 0 (s.page.cause == .line), putBit 1 s.clock.timeUnset, put 2 2 s.page.presence.code,
        putBit 4 s.bus.firstCommit, put 8 7 s.page.accepted.toNat])) ∧
  ∀ (s : State) (b : Berth),
    ∀ q m o u, q = s.seq.get b → m = s.meas.get b → o = s.osc.get b → u = s.sync.get b →
    ((List.range 56).map fun i => s.berthWord b (8 + i)) =
      [fields
          [put 0 4 q.state.code, put 4 4 (causeCode (q.tripCause.map TripCause.toCause)),
            put 8 4 (causeCode (q.openCause.map OpenCause.toCause)), putBit 12 (s.pendingParams.get b).isSome,
            putBit 13 q.profile.isSome, putBit 14 q.current.isSome, put 16 2 q.dir.code, putBit 18 q.staleHold,
            putBit 19 q.lostHold],
        q.entry, (q.profile.map (·.shipCode)).getD 0,
        (q.profile.map fun p =>
          fields [put 0 16 p.callNumber.toNat, put 16 8 (p.demand / 100), put 24 2 p.reserve]).getD 0,
        (q.profile.map fun p => fields [put 0 16 p.nominalFreq, put 16 16 p.nominalVolt]).getD 0,
        (q.current.map fun r => fields [put 0 4 r.kind.code, put 16 16 r.tag.toNat]).getD 0,
        fields
          [put 0 4 q.last.kind.toNat, putBit 4 q.last.overtaken.isSome, put 8 4 q.last.outcome.code,
            put 12 4 (causeCode q.last.cause), put 16 16 q.last.tag.toNat],
        fields [put 0 16 ((q.last.overtaken.getD 0).toNat), put 16 16 q.count.toNat],
        fields [put 0 16 (q.setpoint / 1000000), put 16 16 q.target],
        fields [put 0 16 (s.voltSetpoint b), put 16 4 (ModuleId.list.countP fun k => (s.mods.get k).serves b)],
        fields [put 0 16 (s.healthy b), put 16 16 (s.standingCap b)]] ++
      [q.energise, q.syncT, q.parallel, q.overload, q.reverse,
        ((s.claims.find? fun c => c.berth == b).map (·.timer)).getD .stopped].map
          (fun x => fields [put 0 24 (x.left / 1000), put 30 2 x.code]) ++
      [fields
          [put 0 17 (o.freq / 1000000), put 17 3 o.requested.code, put 20 3 o.effective.code, putBit 24 o.lock,
            putBit 25 (o.sourceUnavailable (s.shipFresh b)), putBit 26 o.running, putBit 27 o.lastError.isSome],
        fields [put 0 16 (o.phase / 30517578125), putInt 16 16 (o.lastError.getD 0)], put 0 32 (o.target / 1000000),
        fields
          [put 0 3 (s.watch b).code, putBit 4 u.view, putBit 5 u.level, putBit 6 (s.closeLine b),
            putBit 7 (s.tripLine b), putBit 8 u.window.holds, putBit 9 u.window.c1, putBit 10 u.window.c2,
            putBit 11 u.window.c3, putBit 12 u.window.c4, putBit 13 u.window.c5, putBit 14 u.closeUsed,
            putBit 15 u.deadTime.isRunning, putBit 16 (u.lastClose.any (·.rough)),
            putBit 17 (u.lastClose.any (·.angle.isSome)), putBit 18 u.lastClose.isSome, putBit 19 u.prediction.isSome,
            putBit 20 u.residual.isSome],
        fields [putInt 0 16 (u.window.voltDiff.getD 0), putInt 16 16 (u.window.slip.getD 0)],
        fields [put 0 16 (u.residual.getD 0), put 16 16 u.closeCount.toNat],
        (u.prediction.map (·.coincidence)).getD 0, (u.prediction.map (·.due)).getD 0,
        if u.deadTime.isRunning = true then s.now + BitVec.ofNat 32 u.deadTime.left else 0,
        putInt 0 32 ((u.lastClose.bind (·.angle)).getD 0), put 0 32 ((u.lastClose.map (·.timeUs)).getD 0)] ++
      (m.ship.latest.map fun p => [put 0 32 p.freq, put 0 32 p.volt, put 0 32 p.phase, p.stamp]).getD [0, 0, 0, 0] ++
      (m.shore.latest.map fun p => [put 0 32 p.freq, put 0 32 p.volt, put 0 32 p.phase, p.stamp]).getD [0, 0, 0, 0] ++
      (m.feeder.latest.map fun f => [putInt 0 32 f.power, put 0 32 f.epoch.toNat, f.register, f.stamp]).getD
        [0, 0, 0, 0] ++
      [fields
          [put 0 2 m.ship.fresh.code, put 2 2 m.shore.fresh.code, put 4 2 m.feeder.fresh.code, putBit 8 m.baselineSet,
            putBit 9 m.base.isSome, put 16 8 m.expected.toNat, put 24 8 ((m.base.map fun x => x.epoch.toNat).getD 0)],
        put 0 32 (((s.sessions.get b).map fun x => x.number.toNat).getD 0)] ++ List.replicate 14 0

/-- A SUPERVISOR read of a refused-transfer record returns the record and then clears it, and changes nothing else. -/
def Obligations.RefusedRecordReadClears : Prop :=
  (∀ r : RefusedRecord, r.word = fields [put 0 16 r.count, put 16 3 r.cause.code]) ∧
  ∀ (k : Tag) (s : State), s.Takes .supervisor → exec (.refusedRecordRead k) s =
    .next { s with bus := { s.bus with
      refused := s.bus.refused.set k ⟨0, .none⟩
      resp := s.bus.resp.set .supervisor (some (.done [(s.bus.refused.get k).word])) } }

/-- The memory face finishes a passing transfer: a write's words stand in memory and every other word is as before, a
read's words are memory's but for those substituted at acceptance, within the span of its memory-face transfer and before
and after it; the response is given and the next grant is decided. The form of plant memory is the model's (log 4). -/
def Obligations.MemoryFaceCarriesTransfer : Prop :=
  ∀ (s : State) (item : PassItem), s.bus.face = some (.pass item) →
    (∀ ws, item.load = .write ws → ∃ m,
      exec .memoryFaceDone s = .next (grant { s with bus := { s.bus with
        face := none, mem := m, resp := s.bus.resp.set item.tag (some (.done [])) } }) ∧
      (s.MemOk → memWf m = true ∧ (∀ i, i < ws.length → memRead m (item.addr / 4 + i) = ws.getD i 0) ∧
        ∀ k, k < item.addr / 4 ∨ item.addr / 4 + ws.length ≤ k → memRead m k = memRead s.bus.mem k)) ∧
    ∀ before fill after, item.load = .read before fill after → ∃ words,
      exec .memoryFaceDone s = .next (grant { s with bus := { s.bus with
        face := none, resp := s.bus.resp.set item.tag (some (.done (before ++ words ++ after))) } }) ∧
      words.length = fill.length ∧
      ∀ i, i < fill.length → words.getD i 0 = (fill.getD i none).getD (memRead s.bus.mem (item.addr / 4 + i))

/-- Plant memory changes only where the memory face finishes carrying a transfer or a journal claim. Plant memory is
a field of the model's (log 4). -/
def Obligations.OnlyTheFaceWritesMemory : Prop :=
  ∀ (c : Instr) (s t : State), c ≠ .memoryFaceDone → c ≠ .journalClaimDone → exec c s = .next t →
    t.bus.mem = s.bus.mem

/-- No command changes the queue of waiting commands, and none but power-on reset the microsecond count and TIMEBASE;
the reset line moves only at a reset and its release. That time passes only in a step on an empty queue is the
model's choice (log 1). -/
def Obligations.CommandsLeaveTimeAndQueue : Prop :=
  ∀ (c : Instr) (s t : State), exec c s = .next t →
    t.pending = s.pending ∧
      ((∀ c0 c1 c2, c ≠ .powerOnReset c0 c1 c2) →
        t.now = s.now ∧ t.tbPhase = s.tbPhase ∧ t.tbValue = s.tbValue ∧
          (c ≠ .lineReset → c ≠ .lineResetRelease → t.resetLow = s.resetLow))

/-! ## The journal -/

/-- The write of the head record begins: its sixteen words are completed with the next sequence number, the lost
count and the chain value, and the first claim is made; the record stays in the queue. The first fifteen words of each kind
of record are those of 11.6, payloads padded with zeros. The codes of records and EVENTs. When a write begins: in STARTED,
with no record being written, one held, the ring configured and room in it for one more. The CRC's bit order is deduced (log
15). -/
def Obligations.JournalWriteStarts : Prop :=
  (∀ s : State, s.canWrite = true ↔ s.jour.channel = .started ∧ s.jour.writing = none ∧ s.jour.queue ≠ [] ∧
    s.bus.firstCommit = true ∧ s.jour.ring.isSome = true ∧
    unconsumed s.jour.len s.jour.produce s.jour.consume + 1 ≠ s.jour.len) ∧
  (∀ ws i code q,
    [Body.sessionOpen ws, .interval i, .sessionClose ws, .configChange ws, .event code q ws].map Body.code =
      List.range' 1 5) ∧
  [EventCode.connected, .paralleled, .shoreOnly, .returned, .externalOpen, .tripped, .released, .roughClose,
    .moduleLockout, .supervisorLost, .supervisorRestored, .timeStep, .meterRestart, .resetRecovered].map EventCode.code =
      List.range' 1 14 ∧
  (∀ r : Record, r.isEvent = true ↔ ∃ code q ws, r.body = .event code q ws) ∧
  (∀ (r : Record) (seq : Word) (lost : Nat), ∀ words : Word → List Word → List Word,
    (∀ flags payload, words flags payload =
      fields [put 0 3 r.body.code, put 4 2 ((r.berth.map Berth.num).getD 3), flags, put 16 16 r.session.toNat] ::
        seq :: r.time.day :: put 0 32 r.time.second :: (payload ++ List.replicate 11 0).take 11) →
    (∀ ws, r.body = .sessionOpen ws ∨ r.body = .sessionClose ws ∨ r.body = .configChange ws →
      r.words seq lost = words 0 ws) ∧
    (∀ i, r.body = .interval i → r.words seq lost = words
      (fields
        [putBit 8 i.flags.partialInterval, putBit 9 i.flags.timeStep, putBit 10 i.flags.gap, putBit 11 i.flags.merged,
          putBit 12 i.flags.metrology])
      [i.start.day, put 0 32 i.start.second, i.stop.day, put 0 32 i.stop.second, i.bands.band0, i.bands.band1,
        i.bands.band2, i.bands.band3, i.bridged, i.unattributed, i.demand]) ∧
    ∀ code q ws, r.body = .event code q ws →
      r.words seq lost = words 0 (fields [put 0 8 code.code, put 8 8 q, put 16 16 lost] :: ws)) ∧
  ∀ (s : State) (r : Record) (rest : List Record), s.canWrite = true → s.jour.queue = r :: rest →
    ∃ w, exec .journalWriteStart s = .next (grant { s with jour := { s.jour with writing := some w } }) ∧
      w.words.length = 16 ∧ w.words.take 15 = r.words s.jour.nextSeq (if r.isEvent = true then s.jour.lost else 0) ∧
      w.words.getD 1 0 = s.jour.nextSeq ∧ w.chain = crc32 (s.jour.chain :: w.words.take 15) ∧
      w.words.getD 15 0 = w.chain ∧ w.claim = 1 ∧ w.granted = false ∧
      w.lostTaken = (if r.isEvent = true then s.jour.lost else 0)

/-- A record goes to memory in three claims: words 0 to 7 to slot P, words 8 to 15 behind them, and (P + 1) mod L to
the write-back address; when the third has been carried the record leaves the queue and P, the sequence number, the
chain value, the lost count and the channel follow. In a ring in order one record more is then unconsumed, and never more
than the ring length less one. A record that is urgent or reaches the threshold sets JOURNAL_READY; any other starts the
coalescing timer where the first is awaited, and leaves it where not. The form of plant memory is the model's (log 4). -/
def Obligations.JournalClaimsCarryRecord : Prop :=
  (∀ l p c, p < l → c < l → unconsumed l p c = if c ≤ p then p - c else p + l - c) ∧
    (∀ j : Journal, j.len = (j.ring.map (·.length)).getD 0) ∧
    (∀ s : State, s.TableOk → s.bus.firstCommit = true →
      ∃ e ∈ s.bus.table, e.kind = .journal ∧ s.journalBase = e.base) ∧
  (∀ (s : State) (w : Writing) (g : Ring), s.jour.ring = some g →
    (w.claim = 1 → claimBurst s w = (s.journalBase + 64 * s.jour.produce, w.words.take 8)) ∧
    (w.claim = 2 → claimBurst s w = (s.journalBase + 64 * s.jour.produce + 32, w.words.drop 8)) ∧
    (w.claim = 3 → claimBurst s w = (g.writeBack, [BitVec.ofNat 32 ((s.jour.produce + 1) % g.length)]))) ∧
    (∀ (s : State) (w : Writing) (a : Nat) (ws : List Word), s.bus.face = some (.journal a ws true) →
      s.jour.writing = some w → w.claim < 3 →
      exec .journalClaimDone s = .next (grant { s with
        bus := { s.bus with face := none, mem := memWriteBurst s.bus.mem (a / 4) ws }
        jour := { s.jour with writing := some { w with claim := w.claim + 1, granted := false } } })) ∧
    (∀ (s : State) (w : Writing) (a : Nat) (ws : List Word) (r : Record) (rest : List Record),
      s.bus.face = some (.journal a ws true) → s.jour.writing = some w → w.claim = 3 → s.jour.queue = r :: rest →
      ∃ u, exec .journalClaimDone s = .next (grant u) ∧
        u.bus = { s.bus with face := none, mem := memWriteBurst s.bus.mem (a / 4) ws } ∧
        u.jour.queue = rest ∧ u.jour.writing = none ∧ u.jour.produce = (s.jour.produce + 1) % s.jour.len ∧
        u.jour.nextSeq = s.jour.nextSeq + 1 ∧ u.jour.chain = w.chain ∧ u.jour.lost = s.jour.lost - w.lostTaken ∧
        u.jour.channel = (if s.jour.channel = .stopPending then .stopped else s.jour.channel) ∧
        u.jour.consume = s.jour.consume ∧
        (s.RingOk →
          unconsumed s.jour.len u.jour.produce s.jour.consume =
              unconsumed s.jour.len s.jour.produce s.jour.consume + 1 ∧
            unconsumed s.jour.len u.jour.produce s.jour.consume + 1 ≤ s.jour.len) ∧
        ((s.jour.threshold ≤ unconsumed s.jour.len ((s.jour.produce + 1) % s.jour.len) s.jour.consume ∨
          r.isUrgent = true) → u.page = (setSummary .journalReady s).page ∧ u.summaryBit .journalReady = true ∧
            u.jour.coalescing = .signalled ∧ u.jour.coalTimer = .stopped) ∧
        (unconsumed s.jour.len ((s.jour.produce + 1) % s.jour.len) s.jour.consume < s.jour.threshold →
          r.isUrgent = false → u.page = s.page ∧
            (s.jour.coalescing = .waitingFirst →
              u.jour.coalescing = .running ∧ u.jour.coalTimer = .running (s.jour.coalTimeMs * 1000)) ∧
            (s.jour.coalescing ≠ .waitingFirst →
              u.jour.coalescing = s.jour.coalescing ∧ u.jour.coalTimer = s.jour.coalTimer))) ∧
    (∀ r : Record, r.isUrgent = true ↔
      (∃ ws, r.body = .sessionClose ws) ∨ ∃ q ws, r.body = .event .tripped q ws) ∧
    ∀ (s : State) (a : Nat) (ws : List Word), s.bus.face = some (.journal a ws false) →
      exec .journalClaimDone s = .next (grant { s with
        bus := { s.bus with face := none, mem := memWriteBurst s.bus.mem (a / 4) ws } })

/-! ## The measurement intake -/

/-- A METER write of one record in a MEASURE window in the table. Where the sixteen-bit halves do not sum to 0, the berth
field is another or the kind names none, the write passes and BAD_RECORD of the window's berth rises, and nothing else
changes (R61). Else, where the stamp differs from the count by more than the staleness limit either way, the write passes and
TIME_BAD rises, and nothing else changes; within the limit neither counter rises (R62). Counters stop at 65,535. That the
command is the whole transfer, which does nothing where the berth has no MEASURE window, and that the intake decides at its
acceptance, are the model's choices (logs 5 and 45). -/
def Obligations.RecordIdentityAndTimestampChecked : Prop :=
  ∀ (b : Berth) (e : WindowEntry) (k : Nat) (w0 w1 w2 w3 : Word) (s : State), s.MeterOpen b e k →
    (((field w0 0 16 + field w0 16 16 + field w1 0 16 + field w1 16 16 + field w2 0 16 + field w2 16 16 +
        field w3 0 16 + field w3 16 16) % 65536 ≠ 0 ∨ field w0 2 2 ≠ b.num ∨ field w0 0 2 = 0) →
      exec (.measurementRecord b k w0 w1 w2 w3) s =
        .next (passOn (writeItem .meter (e.base + 16 * k) [w0, w1, w2, w3]) (s.updMeas b fun m =>
          { m with counters := { m.counters with badRecord := min (m.counters.badRecord + 1) 65535 } }))) ∧
    ((field w0 0 16 + field w0 16 16 + field w1 0 16 + field w1 16 16 + field w2 0 16 + field w2 16 16 +
        field w3 0 16 + field w3 16 16) % 65536 = 0 → field w0 2 2 = b.num → field w0 0 2 ≠ 0 →
      ((s.params.get b).stalenessMs * 1000 < (w1 - s.now).toInt.natAbs →
        exec (.measurementRecord b k w0 w1 w2 w3) s =
          .next (passOn (writeItem .meter (e.base + 16 * k) [w0, w1, w2, w3]) (s.updMeas b fun m =>
            { m with counters := { m.counters with timeBad := min (m.counters.timeBad + 1) 65535 } }))) ∧
      ((w1 - s.now).toInt.natAbs ≤ (s.params.get b).stalenessMs * 1000 →
        ∃ u, exec (.measurementRecord b k w0 w1 w2 w3) s =
          .next (passOn (writeItem .meter (e.base + 16 * k) [w0, w1, w2, w3]) u) ∧
          (u.meas.get b).counters.badRecord = (s.meas.get b).counters.badRecord ∧
          (u.meas.get b).counters.timeBad = (s.meas.get b).counters.timeBad))

/-- The sequence check of the stream: a first record sets the baseline, a record in order passes, a jump of 1 to 127
passes and raises GAP by it with a gap notice, and an older or repeated one is discarded and counted OUT_OF_ORDER. What the
identity and timestamp checks before it are.
That the command is the whole transfer, and that the intake decides at its acceptance, are the model's choices (logs 5 and
45). -/
def Obligations.RecordSequenceChecked : Prop :=
  (∀ (b : Berth) (w0 w1 w2 w3 now : Word) (us : Nat),
    (identityOk b (parseMeas w0 w1 w2 w3) = true ↔
      (field w0 0 16 + field w0 16 16 + field w1 0 16 + field w1 16 16 + field w2 0 16 + field w2 16 16 +
        field w3 0 16 + field w3 16 16) % 65536 = 0 ∧ field w0 2 2 = b.num ∧ field w0 0 2 ≠ 0) ∧
    (timeOk now w1 us = true ↔ (w1 - now).toInt.natAbs ≤ us)) ∧
  (∀ (s : State) (b : Berth), s.stalenessUs b = (s.params.get b).stalenessMs * 1000) ∧
  ∀ (b : Berth) (q : BitVec 8) (s : State),
    ((s.meas.get b).baselineSet = false → applySeq b q s =
      some (s.updMeas b fun m => { m with baselineSet := true, expected := q + 1 })) ∧
    ((s.meas.get b).baselineSet = true →
      ((q - (s.meas.get b).expected).toNat = 0 → applySeq b q s =
        some (s.updMeas b fun m => { m with baselineSet := true, expected := q + 1 })) ∧
      (1 ≤ (q - (s.meas.get b).expected).toNat → (q - (s.meas.get b).expected).toNat ≤ 127 → ∃ u,
        applySeq b q s = some u ∧ s.OnlyBerth b u ∧
        u.meas.get b = { s.meas.get b with
          baselineSet := true, expected := q + 1
          counters := { (s.meas.get b).counters with
            gap := min ((s.meas.get b).counters.gap + (q - (s.meas.get b).expected).toNat) 65535 } } ∧
        u.sessions.get b = (s.sessions.get b).map fun x =>
          { x with gaps := min (x.gaps + 1) 65535, acc := { x.acc with gap := true } }) ∧
      (128 ≤ (q - (s.meas.get b).expected).toNat → applySeq b q s = none)) ∧
    ∀ (e : WindowEntry) (k : Nat) (w0 w1 w2 w3 : Word), s.MeterOpen b e k → q = w0.extractLsb' 8 8 →
      identityOk b (parseMeas w0 w1 w2 w3) = true → timeOk s.now w1 (s.stalenessUs b) = true →
      applySeq b q s = none →
      exec (.measurementRecord b k w0 w1 w2 w3) s =
        .next (passOn (writeItem .meter (e.base + 16 * k) [w0, w1, w2, w3]) (s.updMeas b fun m =>
          { m with counters := { m.counters with outOfOrder := min (m.counters.outOfOrder + 1) 65535 } }))

/-- A plausible record of each kind is taken, and the write passes. An accepted record makes its slot FRESH with its values
and starts the slot's staleness timer. A ship phasor gives the oscillator its phase error and the target of its mode, ends a
HOLD, completes a switch and judges the lock flag (2 and 5 degrees), and gives the residual. A shore phasor of a berth in
ENERGISING at nominal voltage makes the energising check. Either evaluates the window. A feeder record with meter status 0
becomes the register baseline and restarts the bridge timer; the stale hold ends, the ramp resumes, the protection timers are
judged, and in PARALLEL_OUT power below the release threshold opens with LOAD_RETURNED. The rise of the register since the
baseline of the same epoch goes to the open session: to the band in force while the bridge timer runs, and as bridged too
after a stale stretch, else as unattributed; a change of epoch gives no energy but a METER_RESTART EVENT. A feeder record
with a meter fault makes the slot FRESH and takes neither power nor reading: where the slot was FRESH it changes nothing
further, else the stale hold ends, the ramp resumes and the protection timers judge the last good power. Nothing outside the
berth changes but, for a shore phasor, what a first ENERGISED changes. The scales of frequency, phase and setpoint, the width
of the accumulators, the order of a record's users, the mark of a glide, a stopped protection timer at a record with status
fault, the command as the whole transfer and the instant of the intake's decision are the model's (logs 5, 10, 11, 23, 30,
34, 41 and 45), and so is the one evaluation of the window after every other update (log 17); that a protection timer started
while the slot is not fresh starts held, and that holds are kept across states, is deduced (log 27). -/
def Obligations.MeasurementRecordAccepted : Prop :=
  (∀ (b : Berth) (s : State),
    (∀ p, ∃ x, acceptShip b p s = evaluate b (((s.updMeas b fun m =>
          { m with
            ship := { fresh := .fresh, latest := some p, timer := .running ((s.params.get b).stalenessMs * 1000) } }).updOsc
              b fun _ => x).updSync b fun u =>
            { u with prev := some p, residual := u.prev.map fun q => residualOf q p }) ∧
      s.OnlyBerth b (acceptShip b p s) ∧ ((s.osc.get b).running = false → x = s.osc.get b) ∧
      ∀ (o : Osc) (d target : Int) (prior : OscMode), o = s.osc.get b → o.running = true → o.Ok →
        d = Int.tdiv (o.lead p s.now) 30517578125 →
        prior = (if o.effective = .hold ∧ (o.requested = .trackSlip ∨ o.requested = .trackLock) then
          o.beforeHold.getD .hold else o.effective) →
        (o.requested = .nominal ∨ o.requested = .island → target = s.nominalFreq b) →
        (o.requested = .trackSlip → target = (p.freq : Int) + (s.params.get b).slipTarget) →
        (o.requested = .trackLock → target = (p.freq : Int) - max (-100) (min 100 (Int.tdiv (d * 720) 65536))) →
        x = { o with
          lastError := some d, target := (max 45000 (min 65000 target)).toNat * 1000000, gliding := x.gliding
          effective := x.effective, beforeHold := x.beforeHold, lock := x.lock } ∧
        (x.gliding = true ↔ o.freq ≠ x.target) ∧
        x.effective = (if o.requested = .trackLock ∧ prior ≠ .hold ∧ d.natAbs ≤ 364 ∨
            o.requested ≠ .trackLock ∧ (o.freq - x.target) + (x.target - o.freq) ≤ 10000000 then o.requested
          else prior) ∧
        x.beforeHold = (if x.effective = .hold then o.beforeHold else none) ∧
        (x.lock = true ↔ x.effective = .trackLock ∧ d.natAbs ≤ if o.lock = true then 910 else 364)) ∧
    (∀ p v, v = s.updMeas b (fun m =>
        { m with
          shore := { fresh := .fresh, latest := some p, timer := .running ((s.params.get b).stalenessMs * 1000) } }) →
      s.SameStation (acceptShore b p s) ∧ (acceptShore b p s).meas = v.meas ∧
      ((s.seq.get b).state ≠ .energising ∨ (s.seq.get b).volt ≠ .nominal → acceptShore b p s = evaluate b v) ∧
      ((s.seq.get b).state = .energising → (s.seq.get b).volt = .nominal →
        (((p.volt : Int) - s.nominalVolt b).natAbs * 100 ≤ 5 * s.nominalVolt b →
          s.BecomesEnergised b (acceptShore b p s)) ∧
        (5 * s.nominalVolt b < ((p.volt : Int) - s.nominalVolt b).natAbs * 100 → acceptShore b p s = v))) ∧
    (∀ f, (acceptFeeder b f s).meas.get b = { s.meas.get b with
        feeder := { fresh := .fresh, latest := some f, timer := .running ((s.params.get b).stalenessMs * 1000) }
        base := some { value := f.register, epoch := f.epoch }
        bridge := .running (s.clock.inForce.bridgeS * 1000000), staleBetween := false } ∧
      s.OnlyBerth b (acceptFeeder b f s) ∧
      (∃ v, v.meas = (acceptFeeder b f s).meas ∧ s.OnlyBerth b v ∧ s.FeederJudged b v ∧
        ((s.seq.get b).state = .parallelOut ∧ f.power < (s.params.get b).releaseKw →
          v.Opens b .loadReturned (acceptFeeder b f s) ∧ v.Opened b (acceptFeeder b f s)) ∧
        (¬((s.seq.get b).state = .parallelOut ∧ f.power < (s.params.get b).releaseKw) → acceptFeeder b f s = v)) ∧
      ((s.meas.get b).base = none →
        (acceptFeeder b f s).sessions = s.sessions ∧ (acceptFeeder b f s).jour = s.jour) ∧
      (∀ y, (s.meas.get b).base = some y → y.epoch ≠ f.epoch → (acceptFeeder b f s).sessions = s.sessions ∧
        (acceptFeeder b f s).jour = (emitEvent .meterRestart 0 (some b)
          [put 0 8 y.epoch.toNat, y.value, put 0 8 f.epoch.toNat, f.register] s).jour) ∧
      ∀ y, (s.meas.get b).base = some y → y.epoch = f.epoch → (acceptFeeder b f s).jour = s.jour ∧
        ∀ rise : BitVec 64, rise = (f.register - y.value).setWidth 64 →
          (acceptFeeder b f s).sessions.get b = (s.sessions.get b).map fun x =>
            { x with acc := { x.acc with energy :=
              if (s.meas.get b).bridge.isRunning = true then
                { x.acc.energy with
                  bands := ⟨if s.band = 0 then x.acc.energy.bands.band0 + rise else x.acc.energy.bands.band0,
                    if s.band = 1 then x.acc.energy.bands.band1 + rise else x.acc.energy.bands.band1,
                    if s.band = 2 then x.acc.energy.bands.band2 + rise else x.acc.energy.bands.band2,
                    if 3 ≤ s.band then x.acc.energy.bands.band3 + rise else x.acc.energy.bands.band3⟩
                  bridged := if (s.meas.get b).staleBetween = true then x.acc.energy.bridged + rise
                    else x.acc.energy.bridged }
              else { x.acc.energy with unattributed := x.acc.energy.unattributed + rise } } }) ∧
    ((acceptFeederFault b s).meas.get b = { s.meas.get b with
        feeder := { (s.meas.get b).feeder with
          fresh := .fresh, timer := .running ((s.params.get b).stalenessMs * 1000) }
        counters := { (s.meas.get b).counters with meterStatus := min ((s.meas.get b).counters.meterStatus + 1) 65535 } } ∧
      ((s.meas.get b).feeder.fresh = .fresh →
        acceptFeederFault b s = s.updMeas b fun _ => (acceptFeederFault b s).meas.get b) ∧
      ((s.meas.get b).feeder.fresh ≠ .fresh → s.FeederJudged b (acceptFeederFault b s)) ∧
      (acceptFeederFault b s).sessions = s.sessions ∧
      (acceptFeederFault b s).jour = s.jour ∧ s.OnlyBerth b (acceptFeederFault b s)) ∧
    (s.feederFresh b = true ↔ (s.meas.get b).feeder.fresh = .fresh) ∧
    (s.overloaded b = true ↔ ∃ f, (s.meas.get b).feeder.latest = some f ∧ (s.healthy b : Int) < f.power) ∧
    (s.reversed b = true ↔ ∃ f, (s.meas.get b).feeder.latest = some f ∧ f.power < -(s.prot.reverseKw : Int)) ∧
    ∀ (dur n : Nat) (fresh : Bool) (x : Timer), judgeTimer false fresh dur x = .stopped ∧
      judgeTimer true true dur .stopped = .running dur ∧ judgeTimer true false dur .stopped = .held dur ∧
      (x = .running n ∨ x = .held n →
        judgeTimer true true dur x = .running n ∧ judgeTimer true false dur x = .held n)) ∧
  ∀ (b : Berth) (e : WindowEntry) (k : Nat) (w0 w1 w2 w3 : Word) (s u : State), s.MeterOpen b e k →
    identityOk b (parseMeas w0 w1 w2 w3) = true → timeOk s.now w1 (s.stalenessUs b) = true →
    applySeq b (w0.extractLsb' 8 8) s = some u →
    (field w0 0 2 = 1 → 45000 ≤ field w2 0 16 → field w2 0 16 ≤ 65000 →
      exec (.measurementRecord b k w0 w1 w2 w3) s =
        .next (passOn (writeItem .meter (e.base + 16 * k) [w0, w1, w2, w3])
          (acceptShip b ⟨field w2 0 16, field w2 16 16, field w3 0 16, w1⟩ u))) ∧
    (field w0 0 2 = 2 → 45000 ≤ field w2 0 16 → field w2 0 16 ≤ 65000 →
      exec (.measurementRecord b k w0 w1 w2 w3) s =
        .next (passOn (writeItem .meter (e.base + 16 * k) [w0, w1, w2, w3])
          (acceptShore b ⟨field w2 0 16, field w2 16 16, field w3 0 16, w1⟩ u))) ∧
    (field w0 0 2 = 1 ∨ field w0 0 2 = 2 → (field w2 0 16 < 45000 ∨ 65000 < field w2 0 16) →
      exec (.measurementRecord b k w0 w1 w2 w3) s =
        .next (passOn (writeItem .meter (e.base + 16 * k) [w0, w1, w2, w3]) (u.updMeas b fun m =>
          { m with counters := { m.counters with implausible := min (m.counters.implausible + 1) 65535 } }))) ∧
    (field w0 0 2 = 3 → field w2 24 8 = 0 →
      exec (.measurementRecord b k w0 w1 w2 w3) s =
        .next (passOn (writeItem .meter (e.base + 16 * k) [w0, w1, w2, w3])
          (acceptFeeder b ⟨(w2.extractLsb' 0 16).toInt, w2.extractLsb' 16 8, w3, w1⟩ u))) ∧
    (field w0 0 2 = 3 → field w2 24 8 ≠ 0 →
      exec (.measurementRecord b k w0 w1 w2 w3) s =
        .next (passOn (writeItem .meter (e.base + 16 * k) [w0, w1, w2, w3]) (acceptFeederFault b u)))

/-- A slot whose staleness timer has elapsed goes STALE with its values kept, MEASURE_STALE of the berth is set and
nothing outside the berth changes. A ship phasor's puts a tracking oscillator in HOLD, frozen where a tracking mode is asked
for, with its lock dropped, and forgets the residual; it and a shore phasor's evaluate the window, which fails, so that an
ARMED berth is back in MATCHING without its prediction. A feeder slot's is remembered for the next reading, hands the open
session a gap notice, and holds the ramp in a parallel state and the running overload and reverse power timers with the time
they have left. The glide target then is read from the rules (log 35); the scale of frequencies and the mark of a glide
are the model's (logs 10 and 30), and so is the one evaluation of the window after the other updates (log 17). That the
stale hold is set in the parallel states and kept is deduced (log 27). -/
def Obligations.SlotGoesStale : Prop :=
  (∀ m : Meas, m.slotTimer .shipPhasor = m.ship.timer ∧ m.slotTimer .shorePhasor = m.shore.timer ∧
    m.slotTimer .feederPower = m.feeder.timer) ∧
  ∀ (b : Berth) (k : SlotKind) (s : State), (s.meas.get b).slotTimer k = .running 0 →
    ∃ t, exec (.slotStalenessExpiry b k) s = .next t ∧ s.OnlyBerth b t ∧ t.summaryBit (.measureStale b) = true ∧
      (k = .shipPhasor → (∃ x, t = evaluate b (((setSummary (.measureStale b) (s.updMeas b fun m =>
            { m with ship := { m.ship with fresh := .stale, timer := .stopped } })).updOsc b fun _ => x).updSync b
              fun u => { u with prev := none, residual := none }) ∧
          ((s.osc.get b).running = false → x = s.osc.get b) ∧
          ∀ o, o = s.osc.get b → o.running = true → o.Ok →
            x = { o with
              effective := if o.effective.isTracking = true then .hold else o.effective
              beforeHold := if o.effective.isTracking = true then some o.effective else o.beforeHold
              lock := false, target := x.target, gliding := x.gliding } ∧
            (x.gliding = true ↔ o.freq ≠ x.target) ∧
            x.target = if o.requested.isTracking = true ∧ x.effective = .hold then o.freq
              else (max 45000 (min 65000 (s.nominalFreq b))) * 1000000) ∧
        t.meas.get b = { s.meas.get b with ship := { (s.meas.get b).ship with fresh := .stale, timer := .stopped } } ∧
        (t.sync.get b).prev = none ∧ (t.sync.get b).residual = none ∧
        ((s.seq.get b).state = .armed → (t.seq.get b).state = .matching ∧ (t.sync.get b).prediction = none ∧
          (t.sync.get b).closeDue = .stopped)) ∧
      (k = .shorePhasor →
        t.meas.get b =
          { s.meas.get b with shore := { (s.meas.get b).shore with fresh := .stale, timer := .stopped } } ∧
        ((s.seq.get b).state = .armed → s.Stands b .matching t ∧ (t.sync.get b).window.holds = false ∧
          (t.sync.get b).window.c1 = false ∧ t.sync.get b =
            { s.sync.get b with window := (t.sync.get b).window, prediction := none, closeDue := .stopped }) ∧
        ((s.seq.get b).state = .matching → t.seq = s.seq ∧ t.osc = s.osc ∧ (t.sync.get b).window.c1 = false ∧
          t.sync.get b = { s.sync.get b with window := t.evalWindow b }) ∧
        ((s.seq.get b).state.isWatching = false → t.seq = s.seq ∧ t.osc = s.osc ∧ t.sync = s.sync)) ∧
      (k = .feederPower →
        t.meas.get b = { s.meas.get b with
          feeder := { (s.meas.get b).feeder with fresh := .stale, timer := .stopped }
          staleBetween := (s.meas.get b).staleBetween || (s.meas.get b).base.isSome } ∧
        (t.sessions.get b = (s.sessions.get b).map fun x =>
          { x with gaps := min (x.gaps + 1) 65535, acc := { x.acc with gap := true } }) ∧
        t.seq.get b =
          { s.seq.get b with
            staleHold := (s.seq.get b).staleHold || (s.seq.get b).state.isParallel, dir := (t.seq.get b).wantDir
            overload := (s.seq.get b).overload.hold, reverse := (s.seq.get b).reverse.hold } ∧
        (∀ n, (Timer.running n).hold = .held n) ∧ (∀ n, (Timer.held n).hold = .held n) ∧
        Timer.stopped.hold = .stopped ∧ t.osc = s.osc ∧ t.sync = s.sync ∧ s.BlanksModules b t ∧
        ((s.seq.get b).state = .parallelIn ∨ (s.seq.get b).state = .parallelOut →
          (t.seq.get b).staleHold = true ∧ (t.seq.get b).dir = .level))

/-! ## Timers that end and do little more -/

/-- Eight expiries, each with all it does: the retry window ends with both retry counts 0; a blanking, a bridge timer, a
glide, a close pulse and a dead time end and do nothing more; the unlock timer closes the unlock window; the coalescing
timer sets JOURNAL_READY and the coalescing state is SIGNALLED. The mark of a gliding oscillator is the model's (log 30). -/
def Obligations.ExpiriesThatOnlyStop : Prop :=
  ∀ s : State,
    (∀ m, (s.mods.get m).retryWindow = .running 0 → exec (.retryWindowExpiry m) s =
      .next (s.updMod m fun r => { r with fastCount := 0, slowCount := 0, retryWindow := .stopped })) ∧
    (∀ m x, (s.mods.get m).blankExpiry = some x → stampDiff x s.now ≤ 0 → exec (.blankingExpiry m) s =
      .next (s.updMod m fun r => { r with blankExpiry := none })) ∧
    (∀ b, (s.meas.get b).bridge = .running 0 → exec (.bridgeTimerExpiry b) s =
      .next (s.updMeas b fun m => { m with bridge := .stopped })) ∧
    (∀ b, (s.osc.get b).running = true → (s.osc.get b).gliding = true → (s.osc.get b).freq = (s.osc.get b).target →
      exec (.glideTargetReached b) s = .next (s.updOsc b fun o => { o with gliding := false })) ∧
    (∀ b, (s.sync.get b).closePulse = .running 0 → exec (.closePulseExpiry b) s =
      .next (s.updSync b fun u => { u with closePulse := .stopped })) ∧
    (∀ b, (s.sync.get b).deadTime = .running 0 → exec (.deadTimeExpiry b) s =
      .next (s.updSync b fun u => { u with deadTime := .stopped })) ∧
    (s.page.unlockTimer = .running 0 → exec .unlockTimerExpiry s =
      .next { s with page := { s.page with unlock := .closed, unlockTimer := .stopped } }) ∧
    (s.jour.coalTimer = .running 0 → exec .coalescingTimerExpiry s =
      .next (setSummary .journalReady
        { s with jour := { s.jour with coalescing := .signalled, coalTimer := .stopped } }))

/-! ## Modules -/

/-- A status record with a bad check is counted and discarded, and a repeat of the last status sequence is discarded
without counting. An accepted one becomes the module's latest status, restarts its staleness timer and clears its
stale mark, and its fit flag follows the record's fault flags; reports of the other modules stay as they were. The
write passes. What the words of a record say. That the command is the whole transfer is the model's choice (log 5). -/
def Obligations.StatusRecordDiscardedOrAccepted : Prop :=
  (∀ ws : List Word,
    checkSum ws = ((ws.map fun w => w.toNat % 65536 + w.toNat / 65536).sum) % 65536 ∧
    parseStatus ws =
      { state := (parseStatus ws).state
        flags := ⟨(wordAt ws 0).getLsbD 8, (wordAt ws 0).getLsbD 9, (wordAt ws 0).getLsbD 10, (wordAt ws 0).getLsbD 11⟩
        current := wordAt ws 1, power := wordAt ws 2, temperature := wordAt ws 3
        seq := (wordAt ws 0).extractLsb' 16 16 } ∧
    (parseStatus ws).state =
      (if field (wordAt ws 0) 0 2 = 2 then .running else if field (wordAt ws 0) 0 2 = 3 then .fault else .ready)) ∧
  (∀ (m : ModuleId) (e : WindowEntry) (ws : List Word) (s : State), s.LinkOpen e ws →
    (checkSum ws ≠ 0 → exec (.moduleStatusRecord m ws) s =
      .next (passOn (writeItem .link (e.base + 32 * m.num) ws)
        (s.updMod m fun r => { r with badCount := min (r.badCount + 1) 255 }))) ∧
    ∀ y, checkSum ws = 0 → (s.mods.get m).latest = some y → y.seq = (wordAt ws 0).extractLsb' 16 16 →
      exec (.moduleStatusRecord m ws) s = .next (passOn (writeItem .link (e.base + 32 * m.num) ws) s)) ∧
  ∀ (m : ModuleId) (e : WindowEntry) (ws : List Word) (s : State), s.LinkOpen e ws → checkSum ws = 0 →
    (∀ y, (s.mods.get m).latest = some y → y.seq ≠ (wordAt ws 0).extractLsb' 16 16) →
    ∃ u, exec (.moduleStatusRecord m ws) s = .next (passOn (writeItem .link (e.base + 32 * m.num) ws) u) ∧
      s.SameStation u ∧ (u.mods.get m).latest = some (parseStatus ws) ∧ (u.mods.get m).staleTimer = .running 100000 ∧
      (u.mods.get m).stale = false ∧ (u.mods.get m).fit = !(parseStatus ws).flags.any ∧
      ∀ k, k ≠ m → (u.mods.get k).latest = (s.mods.get k).latest ∧ (u.mods.get k).fit = (s.mods.get k).fit ∧
        (u.mods.get k).stale = (s.mods.get k).stale

/-- How the fault flags of an accepted status record are counted, and what the record does to its module. A flag not shown
clears its count, a flag shown raises it to at most 4 where the module counts faults and leaves it elsewhere, and OVERCURRENT
of a blanked module is taken as not shown; GATE reaches its threshold at 1, the others at the deglitch parameter. A flag that
reaches its threshold in a JOINING or RUNNING module is a counted fault: the next step of the ladder, with its cause told at
a lockout. A JOINING module that reports RUNNING is RUNNING, or, when it was returning and its berth meets its requirement
without it, is given back and the pool is tried; a module that becomes fit in the pool makes a try. A healthy capacity that
the record changes is reported: target and setpoint follow the bound, the timers are judged and the shares and blanking
expiries follow, and a lockout that leaves the berth short then makes a try. That a give-back's blanking comes before the
flags of its record are counted, and a share step's after them, are the model's (log 46), and so are the command as the whole
transfer (log 5), the scale of setpoints (log 11) and the one recomputation of shares where a report also clamps the setpoint
(log 49); that holds are kept across states, and a timer started on a slot not fresh is held, is deduced (log 27). -/
def Obligations.DeglitchCountsFlags : Prop :=
  ((∀ c n, deglitchCount false c n = 0) ∧ (∀ n, deglitchCount true false n = n) ∧
    (∀ n, deglitchCount true true n = min (n + 1) 4) ∧
    (∀ f, countedFlags true f = { f with overcurrent := false }) ∧ (∀ f, countedFlags false f = f) ∧
    ∀ (d : Nat) (f : PerFlag Bool) (n : PerFlag Nat),
      ((reached d f n).overcurrent = true ↔ f.overcurrent = true ∧ d ≤ n.overcurrent) ∧
      ((reached d f n).overtemp = true ↔ f.overtemp = true ∧ d ≤ n.overtemp) ∧
      ((reached d f n).dcLink = true ↔ f.dcLink = true ∧ d ≤ n.dcLink) ∧
      ((reached d f n).gate = true ↔ f.gate = true ∧ 1 ≤ n.gate)) ∧
  (∀ (r : Module) (now : Word), r.isBlanked now = true ↔ ∃ x, r.blankExpiry = some x ∧ 0 < (x - now).toInt) ∧
  (∀ (s : State) (b : Berth) (m : ModuleId), s.meetsWithout b m = true ↔ ∃ l : List Nat,
    l.Perm ((ModuleId.list.filter fun k => k != m && (s.mods.get k).standsFor b).map fun k => (s.mods.get k).rating) ∧
      l.Pairwise (fun x y => y ≤ x) ∧ s.demand b ≤ (l.drop (((s.seq.get b).profile.map (·.reserve)).getD 0)).sum) ∧
  ∀ (m : ModuleId) (e : WindowEntry) (ws : List Word) (s : State), s.LinkOpen e ws → checkSum ws = 0 →
    (∀ y, (s.mods.get m).latest = some y → y.seq ≠ (wordAt ws 0).extractLsb' 16 16) →
    ∀ x : StatusReport, x = parseStatus ws →
    ∀ shown : PerFlag Bool, shown = countedFlags ((s.mods.get m).isBlanked s.now) x.flags →
    ∀ count : Bool → PerFlag Nat, (∀ k, count k =
      ⟨deglitchCount shown.overcurrent k (s.mods.get m).deglitch.overcurrent,
        deglitchCount shown.overtemp k (s.mods.get m).deglitch.overtemp,
        deglitchCount shown.dcLink k (s.mods.get m).deglitch.dcLink,
        deglitchCount shown.gate k (s.mods.get m).deglitch.gate⟩) →
    ∀ taken : Module → Module, (∀ r, taken r =
      { r with latest := some x, staleTimer := .running 100000, stale := false, fit := !x.flags.any }) →
    ∀ hit : PerFlag Bool, hit = reached s.prot.deglitch shown (count true) →
    ∃ u, exec (.moduleStatusRecord m ws) s = .next (passOn (writeItem .link (e.base + 32 * m.num) ws) u) ∧
      ((∃ b, (s.mods.get m).standing = .assigned b .blockedByBerth ∨ (s.mods.get m).standing = .assigned b .retryWaitFast ∨
          (s.mods.get m).standing = .assigned b .retryWaitSlow) →
        (u.mods.get m).standing = (s.mods.get m).standing ∧ (u.mods.get m).deglitch = count false) ∧
      (((s.mods.get m).standing = .lockedOut ∨ (s.mods.get m).standing = .outOfService ∨
          (s.mods.get m).standing = .available ∧ ¬(x.flags.any = false ∧
            ((s.mods.get m).fit = false ∨ (s.mods.get m).stale = true))) →
        u = s.updMod m fun r => { taken r with deglitch := count false }) ∧
      ((s.mods.get m).standing = .available → x.flags.any = false →
        (s.mods.get m).fit = false ∨ (s.mods.get m).stale = true →
        u = tryPool (s.updMod m fun r => { taken r with deglitch := count false })) ∧
      (∀ b, (s.mods.get m).standing = .assigned b .joining → x.state = .running →
        (s.mods.get m).returning = true → s.meetsWithout b m = true →
        ∃ v, u = tryPool v ∧ s.SameStation v ∧ s.Reported b v ∧
          (v.mods.get m).standing = .available ∧ (v.mods.get m).mode = .off ∧
          (v.mods.get m).share = 0 ∧ (v.mods.get m).returning = false ∧ (v.mods.get m).retryWindow = .stopped ∧
          (v.mods.get m).latest = some x ∧ ((v.mods.get m).deglitch = count false ∨
            s.prot.blankingMs ≠ 0 ∧ (v.mods.get m).deglitch = { count false with overcurrent := 0 })) ∧
      ∀ b, (s.mods.get m).standing = .assigned b .running ∨ (s.mods.get m).standing = .assigned b .joining ∧
          ¬(x.state = .running ∧ (s.mods.get m).returning = true ∧ s.meetsWithout b m = true) →
        (∃ v, s.Reported b v ∧
          u = if (v.mods.get m).standing = .lockedOut ∧ v.needs b = true then tryPool v else v) ∧
        (hit.any = false →
          (u.mods.get m).standing =
              (if x.state = .running then .assigned b .running else (s.mods.get m).standing) ∧
            ((s.mods.get m).standing = .assigned b .joining → x.state = .running →
              (u.mods.get m).returning = false) ∧
            (u.mods.get m).deglitch = count true ∧ s.OnlyBerth b u ∧ u.jour = s.jour) ∧
        (hit.any = true →
          ((s.mods.get m).fastCount < s.prot.fastCount →
            (u.mods.get m).standing = .assigned b .retryWaitFast ∧
              (u.mods.get m).fastCount = (s.mods.get m).fastCount + 1 ∧
              (u.mods.get m).retryWait = .running (s.prot.fastDelayMs * 1000) ∧ (u.mods.get m).mode = .blocked ∧
              (u.mods.get m).deglitch = ⟨0, 0, 0, 0⟩ ∧ s.OnlyBerth b u ∧ u.jour = s.jour) ∧
          (s.prot.fastCount ≤ (s.mods.get m).fastCount → (s.mods.get m).slowCount < s.prot.slowCount →
            (u.mods.get m).standing = .assigned b .retryWaitSlow ∧
              (u.mods.get m).slowCount = (s.mods.get m).slowCount + 1 ∧
              (u.mods.get m).retryWait = .running (s.prot.slowDelayS * 1000000) ∧ (u.mods.get m).mode = .blocked ∧
              (u.mods.get m).deglitch = ⟨0, 0, 0, 0⟩ ∧ s.OnlyBerth b u ∧ u.jour = s.jour) ∧
          (s.prot.fastCount ≤ (s.mods.get m).fastCount → s.prot.slowCount ≤ (s.mods.get m).slowCount →
            (u.mods.get m).standing = .lockedOut ∧ (u.mods.get m).mode = .off ∧ (u.mods.get m).share = 0 ∧
              u.summaryBit .moduleLockout = true ∧
              u.jour = (emitEvent .moduleLockout m.num (some b)
                [fields [putBit 0 hit.overcurrent, putBit 1 hit.overtemp, putBit 2 hit.dcLink, putBit 3 hit.gate],
                  put 0 32 (s.mods.get m).fastCount, put 0 32 (s.mods.get m).slowCount] s).jour))

/-- A module whose status goes stale is stale and unfit; one that counts faults takes the next step of the ladder: a fast
retry while its fast count allows, then a slow retry, then lockout, with its share 0, MODULE_LOCKOUT set and its EVENT,
which names COMMS as the cause. A healthy capacity that this changes is reported: target and setpoint follow the bound, and
the shares and blanking expiries follow; a lockout that leaves the berth short then makes a try. Setpoints are in mW (the
model's scale, log 11), and one recomputation of shares where a report also clamps the setpoint is its choice (log 49). That
holds are kept across states, and a timer started on a slot not fresh is held, is deduced (log 27). -/
def Obligations.StaleModuleTakesLadderStep : Prop :=
  ∀ (m : ModuleId) (s : State), (s.mods.get m).staleTimer = .running 0 →
    ∃ t, exec (.moduleStatusStale m) s = .next t ∧ s.SameStation t ∧
      (t.mods.get m).stale = true ∧ (t.mods.get m).fit = false ∧ (t.mods.get m).staleTimer = .stopped ∧
      (t.mods.get m).latest = (s.mods.get m).latest ∧
      ((s.mods.get m).standing.counting? = none →
        t = s.updMod m fun r => { r with stale := true, fit := false, staleTimer := .stopped }) ∧
      ∀ b, (s.mods.get m).standing = .assigned b .joining ∨ (s.mods.get m).standing = .assigned b .running →
        (∃ v, s.Reported b v ∧
          t = if (v.mods.get m).standing = .lockedOut ∧ v.needs b = true then tryPool v else v) ∧
        ((s.mods.get m).fastCount < s.prot.fastCount →
          (t.mods.get m).standing = .assigned b .retryWaitFast ∧
            (t.mods.get m).fastCount = (s.mods.get m).fastCount + 1 ∧
            (t.mods.get m).retryWait = .running (s.prot.fastDelayMs * 1000) ∧ (t.mods.get m).mode = .blocked ∧
            (t.mods.get m).deglitch = ⟨0, 0, 0, 0⟩ ∧ (t.mods.get m).retryWindow = .stopped ∧ s.OnlyBerth b t) ∧
        (s.prot.fastCount ≤ (s.mods.get m).fastCount → (s.mods.get m).slowCount < s.prot.slowCount →
          (t.mods.get m).standing = .assigned b .retryWaitSlow ∧
            (t.mods.get m).slowCount = (s.mods.get m).slowCount + 1 ∧
            (t.mods.get m).retryWait = .running (s.prot.slowDelayS * 1000000) ∧ (t.mods.get m).mode = .blocked ∧
            (t.mods.get m).deglitch = ⟨0, 0, 0, 0⟩ ∧ (t.mods.get m).retryWindow = .stopped ∧ s.OnlyBerth b t) ∧
        (s.prot.fastCount ≤ (s.mods.get m).fastCount → s.prot.slowCount ≤ (s.mods.get m).slowCount →
          (t.mods.get m).standing = .lockedOut ∧ (t.mods.get m).mode = .off ∧ (t.mods.get m).share = 0 ∧
            (t.mods.get m).fastCount = 0 ∧ (t.mods.get m).slowCount = 0 ∧ (t.mods.get m).retryWait = .stopped ∧
            (t.mods.get m).blankExpiry = none ∧ t.summaryBit .moduleLockout = true ∧
            t.jour = (emitEvent .moduleLockout m.num (some b)
              [16, put 0 32 (s.mods.get m).fastCount, put 0 32 (s.mods.get m).slowCount] s).jour)

/-- At the end of its retry wait a module of an active berth restarts in JOINING with its retry window running, blanked where
its commanded mode changes; one whose berth is no longer active is released and the pool is tried. A blanking event sets
the expiry to the later of its value and now plus the blanking time, and a blanking time of 0 leaves it. -/
def Obligations.RetryWaitRestartsModule : Prop :=
  (∀ (now : Word) (ms : Nat) (old : Option Word),
    (ms = 0 → blankedUntil now ms old = old) ∧
    (ms ≠ 0 → ∀ e, e = now + BitVec.ofNat 32 (ms * 1000) → (old = none → blankedUntil now ms old = some e) ∧
      ∀ x, old = some x → blankedUntil now ms old = some (if 0 < (e - x).toInt then e else x))) ∧
  ∀ (m : ModuleId) (s : State) (b : Berth) (r : RunState), (s.mods.get m).retryWait = .running 0 →
    (s.mods.get m).standing = .assigned b r →
    ((s.seq.get b).state.isActive = true → ∃ x, exec (.retryWaitExpiry m) s = .next (s.updMod m x) ∧
      x (s.mods.get m) = { s.mods.get m with
        standing := .assigned b .joining, returning := true, retryWait := .stopped, retryWindow := .running 60000000
        staleTimer := .running 100000, mode := (s.seq.get b).state.moduleMode
        blankExpiry := if (s.mods.get m).mode = (s.seq.get b).state.moduleMode then (s.mods.get m).blankExpiry
          else blankedUntil s.now s.prot.blankingMs (s.mods.get m).blankExpiry }) ∧
    ((s.seq.get b).state.isActive = false → ∃ t, exec (.retryWaitExpiry m) s = .next t ∧ s.SameStation t ∧
      t = tryPool (s.updMod m fun r =>
        { r with
          standing := .available, returning := false, share := 0, mode := .off, retryWait := .stopped, fastCount := 0
          slowCount := 0, retryWindow := .stopped, blankExpiry := none }) ∧
      ((t.mods.get m).standing = .available ∨ ∃ c, (t.mods.get m).standing = .assigned c .joining) ∧
      (t.mods.get m).retryWait = .stopped ∧ (t.mods.get m).retryWindow = .stopped ∧ (t.mods.get m).fastCount = 0 ∧
      (t.mods.get m).slowCount = 0 ∧ (t.mods.get m).returning = false ∧
      (t.mods.get m).latest = (s.mods.get m).latest ∧ (t.mods.get m).deglitch = (s.mods.get m).deglitch)

/-- Allocation is all or nothing: it takes the candidates in order until their ratings reach the demand, then as many more
as the reserve asks, and fails where they run out. A try of the pool serves replacement needs first, B0, B1, B2 and in
ascending index, then the head claims one after another: an allocated claim leaves the queue and its berth is in ENERGISING,
and a head that cannot be served stays and ends the try. A module given to a berth is JOINING in the berth's module mode,
blanked where its commanded mode changes, with its staleness timer at 100 ms. That holds are kept across states is deduced
(log 27). -/
def Obligations.AllocationIsAllOrNothing : Prop :=
  (∀ (cands : List (ModuleId × Nat)) (demand reserve : Nat),
    (∀ ms, allocate cands demand reserve = some ms →
      ∃ k, k + reserve ≤ cands.length ∧ ms = (cands.take (k + reserve)).map (·.1) ∧
        demand ≤ ((cands.take k).map (·.2)).sum ∧ ∀ j, j < k → ((cands.take j).map (·.2)).sum < demand) ∧
    (allocate cands demand reserve = none →
      ∀ k, k + reserve ≤ cands.length → ((cands.take k).map (·.2)).sum < demand)) ∧
  (∀ (s : State) (demand reserve : Nat), s.allocation demand reserve = allocate
    ((ModuleId.list.filter fun m => (s.mods.get m).present && (s.mods.get m).standing == .available &&
      (s.mods.get m).fit).map fun m => (m, (s.mods.get m).rating)) demand reserve) ∧
  (∀ (s : State) (b : Berth), s.needs b = true ↔
    (s.seq.get b).state.isActive = true ∧ s.standingCap b < s.demand b) ∧
  (∀ (s : State) (m : ModuleId), (s.mods.get m).isCandidate = true ↔
    (s.mods.get m).present = true ∧ (s.mods.get m).standing = .available ∧ (s.mods.get m).fit = true) ∧
  (∀ (s : State) (b : Berth) (m : ModuleId), enterJoining b m s = s.updMod m fun r =>
    { r with
      standing := .assigned b .joining, staleTimer := .running 100000, mode := (s.seq.get b).state.moduleMode
      blankExpiry := if r.mode = (s.seq.get b).state.moduleMode then r.blankExpiry
        else blankedUntil s.now s.prot.blankingMs r.blankExpiry }) ∧
  (∀ (s : State) (b : Berth), s.demand b = ((s.seq.get b).profile.map (·.demand)).getD 0 ∧
    s.Stands b .energising (enterState b .energising s) ∧ s.OnlyBerth b (enterState b .energising s) ∧
    ((enterState b .energising s).seq.get b).energise =
      .running ((s.params.get b).energiseRampS * 1000000 + 5000000)) ∧
  (∀ (s : State) (b : Berth) (m : ModuleId), replaceWith b m s =
    if s.needs b = true ∧ (s.mods.get m).isCandidate = true then enterJoining b m s else s) ∧
  (∀ s : State, ∃ u, u = forModules (replaceWith .b2) (forModules (replaceWith .b1) (forModules (replaceWith .b0) s)) ∧
    tryPool s = serveClaims u.claims u) ∧
  ∀ s : State, serveClaims [] s = { s with claims := [] } ∧
    ∀ c cs, (s.allocation c.demand c.reserve = none → serveClaims (c :: cs) s = { s with claims := c :: cs }) ∧
      ∀ ms, s.allocation c.demand c.reserve = some ms → serveClaims (c :: cs) s =
        serveClaims cs (enterState c.berth .energising
          (ms.foldl (fun u m => enterJoining c.berth m u) { s with claims := cs }))

/-- The shares of a berth in FOLLOW sum to its setpoint taken as a whole kW; a module that is not healthy has share 0, and
the lowest healthy module carries the remainder. Which modules are healthy, which count in the standing capacity, and which
is the lowest healthy one. The healthy and the standing capacity are sums of ratings, and the bound of a setpoint is the
smaller of contracted demand and healthy capacity. The setpoint is held in mW (the model's scale, log 11). -/
def Obligations.SharesSumToSetpoint : Prop :=
  ∀ (b : Berth) (s : State),
    (s.healthy b = (ModuleId.list.map fun m => if (s.mods.get m).standing = .assigned b .running ∧
        ((s.mods.get m).latest.map (·.state)) = some .running then (s.mods.get m).rating else 0).sum ∧
      s.standingCap b = (ModuleId.list.map fun m => if (s.mods.get m).standing = .assigned b .joining ∨
        (s.mods.get m).standing = .assigned b .running ∨ (s.mods.get m).standing = .assigned b .retryWaitFast ∨
        (s.mods.get m).standing = .assigned b .retryWaitSlow then (s.mods.get m).rating else 0).sum ∧
      s.bound b = min (((s.seq.get b).profile.map (·.demand)).getD 0) (s.healthy b) ∧
      (s.seq.get b).wholeKw = (s.seq.get b).setpoint / 1000000) ∧
    (∀ m,
      ((s.mods.get m).healthyFor b = true ↔ (s.mods.get m).standing = .assigned b .running ∧
        ((s.mods.get m).latest.map (·.state)) = some .running) ∧
      ((s.mods.get m).standsFor b = true ↔ (s.mods.get m).standing = .assigned b .joining ∨
        (s.mods.get m).standing = .assigned b .running ∨ (s.mods.get m).standing = .assigned b .retryWaitFast ∨
        (s.mods.get m).standing = .assigned b .retryWaitSlow) ∧
      (s.firstHealthy b = some m ↔ (s.mods.get m).healthyFor b = true ∧
        ∀ k : ModuleId, k.num < m.num → (s.mods.get k).healthyFor b = false)) ∧
    ((s.seq.get b).state.moduleMode = .follow → 0 < s.healthy b →
      (ModuleId.list.map fun m => s.shareOf b m).sum = (s.seq.get b).wholeKw ∧
      (∀ m, (s.mods.get m).healthyFor b = true → s.firstHealthy b ≠ some m →
        s.shareOf b m = ((s.seq.get b).wholeKw * (s.mods.get m).rating / s.healthy b : Nat))) ∧
    (∀ m, (s.mods.get m).healthyFor b = false → s.shareOf b m = 0) ∧
    ((s.seq.get b).state.moduleMode ≠ .follow → ∀ m, s.shareOf b m = 0)

/-- Word i of module m's command record is word 8m + i of the MODULE_CMD window. The command record of a module: its mode, its berth and the stamp, with frequency, phase, voltage, power and
current limit in FORM and FOLLOW; OFF reads all zero, and so does every record while RESET_N or the trip hold is on. The
voltage setpoint rises to nominal, and falls from it, over the energise ramp. The scales and the rounding of the voltage
are the model's (logs 10 and 12). -/
def Obligations.CommandRecordShowsDrive : Prop :=
  (∀ (s : State) (m : ModuleId) (i : Nat), i < 8 → s.cmdWord (8 * m.num + i) = (s.commandRecord m).getD i 0) ∧
  (∀ s : State, s.inHold = true ↔ s.resetLow = true ∨ ∃ n, s.tripHold = .running n) ∧
  (∀ (s : State) (b : Berth) (nominal ramp : Nat), nominal = ((s.seq.get b).profile.map (·.nominalVolt)).getD 0 →
    ramp = (s.params.get b).energiseRampS * 1000000 → s.nominalVolt b = nominal ∧
    ((s.seq.get b).volt = .zero → s.voltSetpoint b = 0) ∧
    ((s.seq.get b).volt = .nominal → s.voltSetpoint b = nominal) ∧
    (∀ us, (s.seq.get b).volt = .rising us → s.voltSetpoint b = min nominal (nominal * us / ramp)) ∧
    ∀ us, (s.seq.get b).volt = .falling us → s.voltSetpoint b = nominal * (ramp - us) / ramp) ∧
  ∀ (s : State) (m : ModuleId) (b : Berth) (r : RunState),
    (s.inHold = true ∨ (s.mods.get m).mode = .off → s.commandRecord m = [0, 0, 0, 0, 0, 0, 0, 0]) ∧
    (s.inHold = false → (s.mods.get m).standing = .assigned b r →
      ((s.mods.get m).mode = .blocked → s.commandRecord m = [put 0 2 1 ||| put 4 2 b.num, 0, 0, s.now, 0, 0, 0, 0]) ∧
      ((s.mods.get m).mode = .form → s.commandRecord m =
        [put 0 2 2 ||| put 4 2 b.num, put 0 32 ((s.osc.get b).freq / 1000000),
          put 0 16 ((s.osc.get b).phase / 30517578125), s.now, put 0 32 (s.voltSetpoint b),
          put 0 32 (s.mods.get m).rating,
          put 0 32 ((s.mods.get m).rating * 1000000 / (1732 * s.nominalVolt b)), 0]) ∧
      ((s.mods.get m).mode = .follow → s.commandRecord m =
        [put 0 2 3 ||| put 4 2 b.num, put 0 32 ((s.osc.get b).freq / 1000000),
          put 0 16 ((s.osc.get b).phase / 30517578125), s.now, put 0 32 (s.voltSetpoint b),
          putInt 0 32 (s.mods.get m).share,
          put 0 32 ((s.mods.get m).rating * 1000000 / (1732 * s.nominalVolt b)), 0]))

/-! ## Timers of the sequencer and of the Synchronising Unit -/

/-- The sync timer in MATCHING or ARMED, and the close confirm timer in CLOSING, return the berth to ENERGISED; SYNC ends
TIMEOUT with SYNC_TIMEOUT, and FAILED with CLOSE_FAILED. Nothing outside the berth changes. Which oscillator mode, module
mode and voltage each berth state drives. That holds are kept across states, and a timer started on a slot not fresh is held,
is deduced (log 27). -/
def Obligations.TimersReturnToEnergised : Prop :=
  (∀ (x : BerthState) (old : VoltRamp),
    (x = .energising ∨ x = .energised ∨ x = .deEnergising ∨ x = .tripped → modeRequest x = some .nominal) ∧
    (x = .matching ∨ x = .armed ∨ x = .closing → modeRequest x = some .trackSlip) ∧
    (x = .parallelIn ∨ x = .parallelOut ∨ x = .opening → modeRequest x = some .trackLock) ∧
    (x = .shoreOnly → modeRequest x = some .island) ∧
    (x.moduleMode = if x = .idle ∨ x = .waitingModules then .off else if x = .tripped then .blocked
      else if x = .parallelIn ∨ x = .parallelOut ∨ x = .opening then .follow else .form) ∧
    voltOnEntry x old = if x = .idle ∨ x = .waitingModules ∨ x = .tripped then .zero
      else if x = .energising then .rising 0
      else if x = .deEnergising then if old = .zero then .zero else .falling 0 else .nominal) ∧
  ∀ (b : Berth) (s : State),
    ((s.seq.get b).syncT = .running 0 → (s.seq.get b).state = .matching ∨ (s.seq.get b).state = .armed →
      ∃ t, exec (.syncTimerExpiry b) s = .next t ∧ s.OnlyBerth b t ∧ s.Stands b .energised t ∧
        (s.seq.get b).Completes .timeout (some .syncTimeout) (t.seq.get b) ∧
        t.sync.get b = { s.sync.get b with prediction := none, closeDue := .stopped }) ∧
    ((s.sync.get b).closeConfirm = .running 0 → (s.seq.get b).state = .closing →
      ∃ t, exec (.closeConfirmExpiry b) s = .next t ∧ s.OnlyBerth b t ∧ s.Stands b .energised t ∧
        (s.seq.get b).Completes .failed (some .closeFailed) (t.seq.get b) ∧
        t.sync.get b = { s.sync.get b with closeConfirm := .stopped })

/-- The parallel timer, the overload timer in a parallel state and the reverse power timer open the breaker: the
berth is in OPENING with the timer's cause, TRIP is pulsed, the setpoint is held within its bound, and a session that
leaves SHORE_ONLY counts an interruption. Nothing outside the berth changes. Which states judge overload and which reverse
power, and the other classes of states. Setpoints are in mW (the model's scale, log 11); a request of TRACK_LOCK with the slot
not fresh, or that finds it effective, rests on the model's choices (logs 50 and 51). That holds are kept across states is
deduced (log 27). -/
def Obligations.TimersThatOpen : Prop :=
  (∀ x : BerthState,
    (x.judgesOverload = true ↔
      x ∈ [.energising, .energised, .matching, .armed, .parallelIn, .shoreOnly, .parallelOut]) ∧
    (x.judgesReverse = true ↔ x ∈ [.parallelIn, .shoreOnly, .parallelOut]) ∧
    (x.isParallel = true ↔ x ∈ [.parallelIn, .parallelOut]) ∧ (x.isWatching = true ↔ x ∈ [.matching, .armed]) ∧
    (x.isClosed = true ↔ x ∈ [.parallelIn, .shoreOnly, .parallelOut, .opening]) ∧
    (x.isActive = true ↔ x ∉ [.idle, .waitingModules, .tripped]) ∧
    (x.hasSetpoint = true ↔ x ∈ [.parallelIn, .parallelOut, .opening])) ∧
  ∀ (b : Berth) (s : State),
    ((s.seq.get b).parallel = .running 0 → (s.seq.get b).state = .parallelIn ∨ (s.seq.get b).state = .parallelOut →
      ∃ t, exec (.parallelTimerExpiry b) s = .next t ∧ s.Opens b .handoverTimeout t ∧ s.Opened b t ∧
        t.sessions = s.sessions) ∧
    ((s.seq.get b).overload = .running 0 → (s.seq.get b).state = .parallelIn ∨ (s.seq.get b).state = .parallelOut →
      ∃ t, exec (.overloadTimerExpiry b) s = .next t ∧ s.Opens b .overload t ∧ s.Opened b t ∧
        t.sessions = s.sessions) ∧
    ((s.seq.get b).reverse = .running 0 → (s.seq.get b).state.judgesReverse = true →
      ∃ t, exec (.reversePowerTimerExpiry b) s = .next t ∧ s.Opens b .reversePower t ∧ s.Opened b t ∧
        ((s.seq.get b).state ≠ .shoreOnly → t.sessions = s.sessions) ∧
        ((s.seq.get b).state = .shoreOnly → t.sessions.get b = (s.sessions.get b).map fun x =>
          { x with interruptions := min (x.interruptions + 1) 65535 }))

/-- The energise timer, the open confirm timer, and the overload timer outside the parallel states trip the berth, each
with its cause and its TRIPPED EVENT; a failed opening and an overload in SHORE_ONLY pulse TRIP; the session counts the
trip, and the interruption where the berth leaves SHORE_ONLY. Nothing outside the berth changes. That holds are kept across
states is deduced (log 27). -/
def Obligations.TimersThatTrip : Prop :=
  ∀ (b : Berth) (s : State),
    ((s.seq.get b).energise = .running 0 → (s.seq.get b).state = .energising →
      ∃ t, exec (.energiseTimerExpiry b) s = .next t ∧ s.Trips b .energiseFailed t ∧ s.OnlyBerth b t ∧
        t.sync.get b = s.sync.get b ∧
        t.sessions.get b = (s.sessions.get b).map fun x => { x with trips := min (x.trips + 1) 65535 }) ∧
    ((s.sync.get b).openConfirm = .running 0 → (s.seq.get b).state = .opening →
      ∃ t, exec (.openConfirmExpiry b) s = .next t ∧ s.Trips b .openFailed t ∧ s.OnlyBerth b t ∧
        t.sync.get b =
          { s.sync.get b with
            openConfirm := .stopped, secondTrip := true, closePulse := .stopped, tripPulse := .running 100000 } ∧
        t.sessions.get b = (s.sessions.get b).map fun x => { x with trips := min (x.trips + 1) 65535 }) ∧
    ((s.seq.get b).overload = .running 0 →
      (s.seq.get b).state = .energising ∨ (s.seq.get b).state = .energised ∨ (s.seq.get b).state = .matching ∨
        (s.seq.get b).state = .armed →
      ∃ t, exec (.overloadTimerExpiry b) s = .next t ∧ s.Trips b .overload t ∧ s.OnlyBerth b t ∧
        (t.sync.get b).tripPulse = (s.sync.get b).tripPulse ∧
        (t.sessions.get b = (s.sessions.get b).map fun x => { x with trips := min (x.trips + 1) 65535 }) ∧
        ((s.seq.get b).state = .matching ∨ (s.seq.get b).state = .armed →
          (t.sync.get b).prediction = none ∧ (t.sync.get b).closeDue = .stopped)) ∧
    ((s.seq.get b).overload = .running 0 → (s.seq.get b).state = .shoreOnly →
      ∃ t, exec (.overloadTimerExpiry b) s = .next t ∧ s.Trips b .overload t ∧ s.OnlyBerth b t ∧
        t.sync.get b = { s.sync.get b with closePulse := .stopped, tripPulse := .running 100000 } ∧
        t.sessions.get b = (s.sessions.get b).map fun x =>
          { x with interruptions := min (x.interruptions + 1) 65535, trips := min (x.trips + 1) 65535 })

/-- At the end of the energise ramp the voltage setpoint is at nominal and the energising check is made: the shore bus is
fresh and within 5 percent of nominal. Where it fails nothing more happens; where it passes the berth is ENERGISED, the
request in progress is DONE, and a first ENERGISED opens a session with the next number and produces SESSION_OPEN and the
EVENT CONNECTED, in this order. That holds are kept across states, and a timer started on a slot not fresh is held, is
deduced (log 27). -/
def Obligations.EnergiseRampEndsInCheck : Prop :=
  ∀ (b : Berth) (s : State) (us : Nat), (s.seq.get b).volt = .rising us →
    (s.params.get b).energiseRampS * 1000000 ≤ us → (s.seq.get b).state = .energising →
    (s.energiseCheck b = true ↔ (s.meas.get b).shore.fresh = .fresh ∧ ∃ p, (s.meas.get b).shore.latest = some p ∧
      ((p.volt : Int) - s.nominalVolt b).natAbs * 100 ≤ 5 * s.nominalVolt b) ∧
    (s.energiseCheck b = false →
      exec (.energiseRampComplete b) s = .next (s.updSeq b fun q => { q with volt := .nominal })) ∧
    (s.energiseCheck b = true → ∃ t, exec (.energiseRampComplete b) s = .next t ∧ s.BecomesEnergised b t) ∧
    nextSessionNumber s.sessionCounter = (if s.sessionCounter.toNat = 65535 then 1 else s.sessionCounter + 1) ∧
    ∀ m : ModuleId, (s.moduleMask b).getLsbD m.num = (s.mods.get m).serves b

/-- A berth whose claim times out, or whose voltage has fallen to 0 in DE_ENERGISING, is in IDLE: no profile, no
session, no claim and no module, its oscillator stopped and a pending parameter set in force; CONNECT ends TIMEOUT,
DISCONNECT is DONE. An open session ends with its final INTERVAL, PARTIAL, and its SESSION_CLOSE, cause RELEASED; a berth
that was de-energised then produces RELEASED. What the final INTERVAL and the SESSION_CLOSE of a session hold. That the try
of the pool passes the berth over is deduced (log 16), and the widths of energies and interval words are the model's choice
(log 23). -/
def Obligations.BerthReturnsToIdle : Prop :=
  (∀ (s : State) (b : Berth),
    s.claimTimer b = ((s.claims.find? fun c => c.berth == b).map (·.timer)).getD .stopped) ∧
  (∀ (b : Berth) (s : State),
    (s.claimTimer b = .running 0 → ∃ t, exec (.claimTimerExpiry b) s = .next t ∧ s.Idles b t ∧
      (s.seq.get b).Completes .timeout (some .claimTimeout) (t.seq.get b) ∧
      ((s.seq.get b).state ≠ .deEnergising → t.jour = (produceClose 1 s.clock.time b s).jour) ∧
      ((∀ m, (s.mods.get m).serves b = false) → ∀ m, (t.mods.get m).serves b = false)) ∧
    ∀ us, (s.seq.get b).volt = .falling us → (s.params.get b).energiseRampS * 1000000 ≤ us →
      (s.seq.get b).state = .deEnergising → (∀ c ∈ s.claims, c.berth ≠ b) →
      ∃ t, exec (.deEnergisingComplete b) s = .next t ∧ s.Idles b t ∧
        (s.seq.get b).Completes .done none (t.seq.get b) ∧ (∀ m, (t.mods.get m).serves b = false) ∧
        t.jour = (produceReleased b (s.seq.get b).profile (produceClose 1 s.clock.time b s)).jour) ∧
  (∀ (b : Berth) (p : Option ShipProfile) (u : State), produceReleased b p u =
    emitEvent .released 0 (some b)
      ((p.map fun x => [x.shipCode, put 0 16 x.callNumber.toNat]).getD [0, 0]) (u.setSession b none)) ∧
  (∀ (b : Berth) (cause : Nat) (stop : StationTime) (s : State),
    (s.sessions.get b = none → produceClose cause stop b s = s) ∧
    ∀ x, s.sessions.get b = some x → ∀ i y,
      (i, y) = closeInterval s.clock.inForce.intervalMin stop true false x →
      produceClose cause stop b s = admitBilling b
        { berth := some b, session := x.number, time := s.clock.time
          body := .sessionClose
            [fields [put 0 17 stop.second, put 24 2 cause], stop.day, y.totals.bands.band0.setWidth 32,
              y.totals.bands.band1.setWidth 32, y.totals.bands.band2.setWidth 32, y.totals.bands.band3.setWidth 32,
              y.totals.bridged.setWidth 32, y.totals.unattributed.setWidth 32,
              fields [put 0 16 y.peak, put 16 16 y.intervals.toNat],
              fields [put 0 16 y.interruptions, put 16 16 y.parallels],
              fields [put 0 16 y.gaps, put 16 16 y.trips]] }
        (admitInterval b { berth := some b, session := x.number, time := s.clock.time, body := .interval i } i s)) ∧
  ∀ (minutes : Nat) (stop : StationTime) (forced step : Bool) (x : Session) (len demand : Nat) (part : Bool),
    len = (stop.day - x.acc.start.day).toNat * 86400 + stop.second - x.acc.start.second →
    demand = (if len = 0 then 0 else
      (x.acc.energy.bands.band0.toNat + x.acc.energy.bands.band1.toNat + x.acc.energy.bands.band2.toNat +
        x.acc.energy.bands.band3.toNat) * 3600 / (1000 * len)) →
    (part = true ↔ forced = true ∨ ¬(x.acc.start.second % (minutes * 60) = 0 ∧ len = minutes * 60)) →
    closeInterval minutes stop forced step x =
      ({ flags := { partialInterval := part, timeStep := step || x.acc.timeStep, gap := x.acc.gap, merged := false
                    metrology := x.acc.metrology }
         start := x.acc.start, stop := stop
         bands := ⟨x.acc.energy.bands.band0.setWidth 32, x.acc.energy.bands.band1.setWidth 32,
           x.acc.energy.bands.band2.setWidth 32, x.acc.energy.bands.band3.setWidth 32⟩
         bridged := x.acc.energy.bridged.setWidth 32, unattributed := x.acc.energy.unattributed.setWidth 32
         demand := put 0 32 demand },
       { x with
         totals :=
           { bands := ⟨x.totals.bands.band0 + x.acc.energy.bands.band0,
               x.totals.bands.band1 + x.acc.energy.bands.band1, x.totals.bands.band2 + x.acc.energy.bands.band2,
               x.totals.bands.band3 + x.acc.energy.bands.band3⟩
             bridged := x.totals.bridged + x.acc.energy.bridged
             unattributed := x.totals.unattributed + x.acc.energy.unattributed }
         intervals := x.intervals + 1, peak := if part = true then x.peak else max x.peak demand })

/-- A ramp at its end is LEVEL with the shares of its last setpoint and its modules blanked, and one whose whole-kW setpoint
has moved shares it anew, blanking a module whose share steps by more than one tenth of its rating. What direction a berth's
context calls for. A request of a mode sets the glide target of the governing mode at once, completes a switch to TRACK_LOCK
within 2 degrees and another within 10 mHz, and ends a HOLD. A glide that comes within 10 mHz of its target makes the
requested mode effective but for TRACK_LOCK, and the window is evaluated. A trip pulse ends with the second trip mark
cleared, and in OPENING the open confirm timer starts with 200 ms; the watch state follows the berth state and that mark.
The scales, the mark of a glide, one evaluation of the window in an event, no phase error at a request of TRACK_LOCK with the
slot not fresh, and the lock flag left as it was at one that finds or restores TRACK_LOCK, are the model's (logs 10, 11, 17,
30, 50 and 51); that holds are kept across states is deduced (log 27). -/
def Obligations.RampsGlidesAndTripPulses : Prop :=
  (∀ q : Seq, q.wantDir =
    if q.staleHold = true ∨ q.lostHold = true then .level
    else if q.state = .parallelIn ∧ q.setpoint < q.target * 1000000 then .rising
    else if q.state = .parallelOut ∧ 0 < q.setpoint then .falling else .level) ∧
  (∀ m : OscMode, m.isTracking = true ↔ m = .trackSlip ∨ m = .trackLock) ∧
  (∀ (s : State) (b : Berth), s.nominalFreq b = ((s.seq.get b).profile.map (·.nominalFreq)).getD 0 ∧
    (s.shipFresh b = true ↔ (s.meas.get b).ship.fresh = .fresh) ∧
    ((s.seq.get b).kwMoved = true ↔ (s.seq.get b).setpoint / 1000000 ≠ (s.seq.get b).sharedKw)) ∧
  (∀ (s : State) (b : Berth), s.oscEnv b =
    { nominal := ((s.seq.get b).profile.map (·.nominalFreq)).getD 0, slip := (s.params.get b).slipTarget
      ship := if (s.meas.get b).ship.fresh = .fresh then (s.meas.get b).ship.latest else none, now := s.now }) ∧
  (∀ (e : OscEnv) (m : OscMode) (o x : Osc), x = o.request e m →
    (o.running = false ∨ o.requested = m → x = o) ∧
    ∀ prior governing : OscMode, o.running = true → o.requested ≠ m → m ≠ .hold → o.Ok →
      prior = (if o.effective = .hold ∧ (m = .trackSlip ∨ m = .trackLock) ∧ e.ship.isSome = true then
        o.beforeHold.getD .hold else o.effective) →
      governing = (if (m = .trackSlip ∨ m = .trackLock) ∧ e.ship = none then o.effective else m) →
      x = { o with
        requested := m, effective := x.effective, beforeHold := x.beforeHold, target := x.target, lock := x.lock
        lastError := x.lastError, gliding := x.gliding } ∧
      (x.gliding = true ↔ o.freq ≠ x.target) ∧
      (governing = .nominal ∨ governing = .island → x.target = (max 45000 (min 65000 e.nominal)) * 1000000) ∧
      (governing = .hold → x.target = o.freq) ∧
      (e.ship = none ∨ m ≠ .trackLock → x.lastError = o.lastError) ∧
      (∀ p d, e.ship = some p → d = Int.tdiv (o.lead p e.now) 30517578125 →
        (m = .trackSlip → x.target = (max 45000 (min 65000 (p.freq + e.slip))) * 1000000) ∧
        (m = .trackLock → x.lastError = some d ∧ x.target =
          (max 45000 (min 65000 ((p.freq : Int) - max (-100) (min 100 (Int.tdiv (d * 720) 65536))))).toNat * 1000000 ∧
          x.effective = if prior ≠ .hold ∧ d.natAbs ≤ 364 then .trackLock else prior)) ∧
      (e.ship = none → m = .trackLock → x.effective = prior) ∧
      (m ≠ .trackLock → x.effective =
        if governing = m ∧ (o.freq - x.target) + (x.target - o.freq) ≤ 10000000 then m else prior) ∧
      x.beforeHold = (if x.effective = .hold then o.beforeHold else none) ∧
      (x.lock = true ↔ x.effective = .trackLock ∧ (prior = .trackLock → o.lock = true))) ∧
  ∀ (b : Berth) (s : State),
    (((s.seq.get b).dir = .rising ∧ (s.seq.get b).target * 1000000 ≤ (s.seq.get b).setpoint ∨
        (s.seq.get b).dir = .falling ∧ (s.seq.get b).setpoint = 0) →
      ∃ t, exec (.rampEnd b) s = .next t ∧ s.OnlyBerth b t ∧
        t.seq.get b = { s.seq.get b with dir := .level, sharedKw := (s.seq.get b).wholeKw } ∧
        (∀ m, (s.mods.get m).serves b = true → t.mods.get m =
          { s.mods.get m with
            share := s.shareOf b m
            blankExpiry := blankedUntil s.now s.prot.blankingMs (s.mods.get m).blankExpiry }) ∧
        t.osc = s.osc ∧ t.sync = s.sync) ∧
    ((s.osc.get b).running = true → (s.osc.get b).requested ≠ (s.osc.get b).effective →
      (s.osc.get b).requested ≠ .trackLock → (s.osc.get b).governing (s.shipFresh b) = (s.osc.get b).requested →
      ((s.osc.get b).freq - (s.osc.get b).target) + ((s.osc.get b).target - (s.osc.get b).freq) ≤ 10000000 →
      exec (.glideNearTarget b) s = .next (evaluate b (s.updOsc b fun o =>
        { o with effective := o.requested, beforeHold := none, lock := false }))) ∧
    ((s.osc.get b).requested = .trackLock → exec (.glideNearTarget b) s = .next s) ∧
    ((s.osc.get b).governing (s.shipFresh b) =
      if (s.osc.get b).requested.isTracking = true ∧ s.shipFresh b = false then (s.osc.get b).effective
      else (s.osc.get b).requested) ∧
    ((s.sync.get b).tripPulse = .running 0 → exec (.tripPulseExpiry b) s = .next (s.updSync b fun u =>
      { u with
        tripPulse := .stopped
        openConfirm := if (s.seq.get b).state = .opening then .running 200000 else u.openConfirm
        secondTrip := false })) ∧
    (∀ st, st = (s.seq.get b).state → s.watch b =
      if st = .matching then .watching else if st = .armed then .armed else if st = .closing then .closeWait
      else if st = .parallelIn ∨ st = .shoreOnly ∨ st = .parallelOut then .closedWatch
      else if st = .opening ∨ st = .tripped ∧ (s.sync.get b).secondTrip = true ∧
        (s.sync.get b).tripPulse.isRunning = true then .openWait else .notWatching) ∧
    ((s.seq.get b).kwMoved = true → ∃ t, exec (.setpointKwStep b) s = .next t ∧ s.OnlyBerth b t ∧
      (∀ m, (s.mods.get m).serves b = true → t.mods.get m =
        { s.mods.get m with
          share := s.shareOf b m
          blankExpiry := if (s.mods.get m).rating < 10 * (s.shareOf b m - (s.mods.get m).share).natAbs then
              blankedUntil s.now s.prot.blankingMs (s.mods.get m).blankExpiry
            else (s.mods.get m).blankExpiry }) ∧
      t.seq.get b = { s.seq.get b with sharedKw := (s.seq.get b).wholeKw } ∧ t.osc = s.osc ∧ t.sync = s.sync ∧
      t.meas = s.meas ∧ t.sessions = s.sessions ∧ t.jour = s.jour ∧ t.page = s.page)

/-- An evaluation of the sync window: outside MATCHING and ARMED it does nothing; it arms a MATCHING berth whose
window holds and predicts the close; it predicts anew in ARMED while the window holds, and drops the prediction and
returns to MATCHING when it fails. The window holds exactly where its five conditions do: both phasor slots FRESH, TRACK_SLIP
effective, the voltages near, the slip in its band and at least 10 mHz, the residual within angle_max. The residual is the
new phasor's phase against the one foretold, and the sweep to the coincidence follows from the oscillator's lead and the
slip, one slip period later where it is shorter than the breaker close time. The scales and the rounding to the nearest
microsecond are the model's (logs 10 and 14), and so is that a voltage difference or slip is absent where a slot has no
values (log 52). That holds are kept across states is deduced (log 27). -/
def Obligations.WindowEvaluationArms : Prop :=
  (∀ (b : Berth) (s : State) (w : WindowResult), w = s.evalWindow b →
    (w.c1 = true ↔ (s.meas.get b).ship.fresh = .fresh ∧ (s.meas.get b).shore.fresh = .fresh) ∧
    (w.c2 = true ↔ (s.osc.get b).effective = .trackSlip) ∧
    (w.c3 = true ↔ ∃ p q, (s.meas.get b).ship.latest = some p ∧ (s.meas.get b).shore.latest = some q ∧
      ((q.volt : Int) - p.volt).natAbs * 100 ≤ (s.params.get b).voltMax * s.nominalVolt b) ∧
    (w.c4 = true ↔ ∃ p x, (s.meas.get b).ship.latest = some p ∧
      x = ((s.osc.get b).freq / 1000000 : Nat) - (p.freq : Int) ∧ 10 ≤ x ∧
      ((s.params.get b).slipTarget : Int) - (s.params.get b).slipTolerance ≤ x ∧
      x ≤ ((s.params.get b).slipTarget : Int) + (s.params.get b).slipTolerance) ∧
    (w.c5 = true ↔ ∃ n, (s.sync.get b).residual = some n ∧ n * 360 ≤ (s.params.get b).angleMax * 65536) ∧
    (w.holds = true ↔ w.c1 = true ∧ w.c2 = true ∧ w.c3 = true ∧ w.c4 = true ∧ w.c5 = true) ∧
    (∀ p q, (s.meas.get b).ship.latest = some p → (s.meas.get b).shore.latest = some q →
      w.voltDiff = some ((q.volt : Int) - p.volt)) ∧
    ((s.meas.get b).ship.latest = none ∨ (s.meas.get b).shore.latest = none → w.voltDiff = none) ∧
    ((s.meas.get b).ship.latest = none → w.slip = none) ∧ s.closeUs b = (s.params.get b).closeTimeMs * 1000 ∧
    ∀ p, (s.meas.get b).ship.latest = some p → w.slip = some (((s.osc.get b).freq / 1000000 : Nat) - (p.freq : Int))) ∧
  (∀ q p : Phasor, ∃ d turns : Int,
    d = p.phase * 30517578125 - (q.phase * 30517578125 + q.freq * (p.stamp - q.stamp).toInt * 2000000) +
        turns * 2000000000000000 ∧
      -1000000000000000 ≤ d ∧ d < 1000000000000000 ∧ residualOf q p = (d.natAbs + 15258789062) / 30517578125) ∧
  (∀ (o : Osc) (p : Phasor) (t : Word), ∃ turns : Int,
    o.lead p t = o.phase - (p.phase * 30517578125 + p.freq * (t - p.stamp).toInt * 2000000) +
        turns * 2000000000000000 ∧
      -1000000000000000 ≤ o.lead p t ∧ o.lead p t < 1000000000000000) ∧
  (∀ (lead : Int) (slip closeUs sweep time : Nat), 0 < slip → (sweep : Int) = (-lead) % 2000000000000000 →
    time = (sweep + slip * 2000000 / 2) / (slip * 2000000) →
    sweepTime lead slip closeUs = if time < closeUs then time + (1000000000 + slip / 2) / slip else time) ∧
  ∀ (b : Berth) (s : State),
    ((s.seq.get b).state ≠ .matching → (s.seq.get b).state ≠ .armed → evaluate b s = s) ∧
    ((s.evalWindow b).holds = false →
      ((s.seq.get b).state = .matching → evaluate b s = s.updSync b fun u => { u with window := s.evalWindow b }) ∧
      ((s.seq.get b).state = .armed → s.OnlyBerth b (evaluate b s) ∧ s.Stands b .matching (evaluate b s) ∧
        (evaluate b s).sync.get b =
          { s.sync.get b with window := s.evalWindow b, prediction := none, closeDue := .stopped })) ∧
    ((s.evalWindow b).holds = true →
      (s.evalWindow b).c1 = true ∧ (s.evalWindow b).c2 = true ∧ (s.evalWindow b).c3 = true ∧
      (s.evalWindow b).c4 = true ∧ (s.evalWindow b).c5 = true ∧
      ∃ p x, (s.meas.get b).ship.latest = some p ∧ (s.evalWindow b).slip = some x ∧ 10 ≤ x ∧
      ∃ sweep, sweep = sweepTime ((s.osc.get b).lead p s.now) x.toNat (s.closeUs b) ∧
        ((s.params.get b).closeTimeMs ≤ 200 → x ≤ 400 → s.closeUs b ≤ sweep) ∧
        ((s.seq.get b).state = .armed → evaluate b s = s.updSync b fun u =>
          { u with
            window := s.evalWindow b
            prediction := some
              { coincidence := s.now + BitVec.ofNat 32 sweep, due := s.now + BitVec.ofNat 32 (sweep - s.closeUs b) }
            closeDue := .running (sweep - s.closeUs b) }) ∧
        ((s.seq.get b).state = .matching → (s.osc.get b).requested = .trackSlip →
          s.OnlyBerth b (evaluate b s) ∧ s.Stands b .armed (evaluate b s) ∧ (evaluate b s).sync.get b =
            { s.sync.get b with
              window := s.evalWindow b
              prediction := some
                { coincidence := s.now + BitVec.ofNat 32 sweep, due := s.now + BitVec.ofNat 32 (sweep - s.closeUs b) }
              closeDue := .running (sweep - s.closeUs b) }))

/-- The due instant of a close: where the window fails the berth is back in MATCHING without a pulse; where the dead
time runs, TRIP is driven or the close is used, the close moves one slip period; else CLOSE is pulsed once and the
berth is in CLOSING with its close confirm running. No step raises CLOSE but this one: only in ARMED, with both phasor slots
FRESH, the window holding, the dead time elapsed, TRIP low and the close unused, which is then used; and no step but an
accepted SYNC or a reset makes it unused again. CLOSE is high while its pulse runs, TRIP while its pulse or the trip hold
does. The rounding is the model's (log 14); that the prediction is not computed anew, and that holds are kept across states,
is deduced (logs 18 and 27). -/
def Obligations.CloseDueDecides : Prop :=
  (∀ (s : State) (b : Berth), (s.closeLine b = true ↔ ∃ n, (s.sync.get b).closePulse = .running n) ∧
    (s.tripLine b = true ↔ (∃ n, (s.sync.get b).tripPulse = .running n) ∨ s.inHold = true)) ∧
  (∀ (s t : State) (b : Berth), step s = .next t →
    (s.closeLine b = false → t.closeLine b = true →
      (s.seq.get b).state = .armed ∧ (s.meas.get b).ship.fresh = .fresh ∧ (s.meas.get b).shore.fresh = .fresh ∧
        (s.evalWindow b).holds = true ∧ (s.sync.get b).deadTime.isRunning = false ∧ s.tripLine b = false ∧
        (s.sync.get b).closeUsed = false ∧ (s.sync.get b).closeDue = .running 0 ∧
        (t.sync.get b).closeUsed = true ∧ (t.seq.get b).state = .closing) ∧
    ((s.sync.get b).closeUsed = true → (t.sync.get b).closeUsed = false →
      (s.seq.get b).state = .energised ∧ ((t.seq.get b).state = .matching ∨ (t.seq.get b).state = .armed) ∨
        (∃ c0 c1 c2 rest, s.pending = .powerOnReset c0 c1 c2 :: rest) ∨ ∃ rest, s.pending = .lineReset :: rest)) ∧
  ∀ (b : Berth) (s : State), (s.sync.get b).closeDue = .running 0 → (s.seq.get b).state = .armed →
    ((s.evalWindow b).holds = false → ∃ t, exec (.closeDueExpiry b) s = .next t ∧ s.OnlyBerth b t ∧
      s.Stands b .matching t ∧ t.sync.get b =
        { s.sync.get b with window := s.evalWindow b, prediction := none, closeDue := .stopped }) ∧
    (∀ x, (s.evalWindow b).holds = true → (s.evalWindow b).slip = some x →
      (s.sync.get b).deadTime.isRunning = true ∨ s.tripLine b = true ∨ (s.sync.get b).closeUsed = true →
      exec (.closeDueExpiry b) s = .next (s.updSync b fun u =>
        { u with
          window := s.evalWindow b
          prediction := u.prediction.map fun p =>
            { coincidence := p.coincidence + BitVec.ofNat 32 ((1000000000 + x.toNat / 2) / x.toNat)
              due := p.due + BitVec.ofNat 32 ((1000000000 + x.toNat / 2) / x.toNat) }
          closeDue := .running ((1000000000 + x.toNat / 2) / x.toNat) })) ∧
    ((s.evalWindow b).holds = true → (s.sync.get b).deadTime.isRunning = false → s.tripLine b = false →
      (s.sync.get b).closeUsed = false → ∃ t, exec (.closeDueExpiry b) s = .next t ∧ s.OnlyBerth b t ∧
      s.Stands b .closing t ∧ t.closeLine b = true ∧ t.tripLine b = false ∧ t.sync.get b =
        { s.sync.get b with
          window := s.evalWindow b, closeUsed := true, closeCount := (s.sync.get b).closeCount + 1
          closePulse := .running 100000
          closeConfirm := .running ((s.params.get b).closeTimeMs * 1000 + 200000)
          closeDue := .stopped, pulseStart := s.now })

/-! ## Breaker movements -/

/-- An accepted rise of a breaker: no event where the view is already closed; under RESET_N or the trip hold only the view
follows; in CLOSING it confirms the close with its record and the berth is in PARALLEL_IN, its setpoint RISING from 0 but
where a hold is set, with PARALLELED after a ROUGH_CLOSE where the close was rough; in a breaker-closed state only the view
follows; elsewhere it is an uncommanded close, with a trip pulse and a trip. An accepted fall: likewise under the hold; in
OPENING it confirms the opening with RETURNED, in the other breaker-closed states it is an external open with EXTERNAL_OPEN,
both to ENERGISED, and it always starts the dead time. The commands are the filter's acceptances, with the input at the
level accepted (the model's choice, log 8); the phase error is in the model's scale (log 10), and ROUGH_CLOSE before
PARALLELED is its choice (log 33), as is a request of TRACK_LOCK with the slot not fresh, or that finds it effective (logs
50 and 51). That PARALLEL_IN takes over the holds set before is deduced (log 27). -/
def Obligations.BreakerMovements : Prop :=
  (∀ (o : Osc) (p : Phasor) (t : Word), o.phaseError p t = Int.tdiv (o.lead p t) 30517578125) ∧
  ∀ (b : Berth) (s : State),
    ((s.sync.get b).view = true → exec (.breakerViewRise b) s = .next s) ∧
    ((s.sync.get b).view = false → s.inHold = true ∨ (s.seq.get b).state.isClosed = true →
      exec (.breakerViewRise b) s = .next (s.updSync b fun u => { u with level := true, heldUs := 0, view := true })) ∧
    ((s.sync.get b).view = false → s.inHold = false → (s.seq.get b).state = .closing →
      ∃ t r, exec (.breakerViewRise b) s = .next t ∧ s.OnlyBerth b t ∧ s.Stands b .parallelIn t ∧
        (t.seq.get b).setpoint = 0 ∧ (t.seq.get b).target = s.bound b ∧
        (t.seq.get b).staleHold = ((s.seq.get b).staleHold || !s.feederFresh b) ∧
        (t.seq.get b).lostHold = ((s.seq.get b).lostHold || s.page.presence == .lost) ∧
        ((t.seq.get b).dir = if (t.seq.get b).staleHold = true ∨ (t.seq.get b).lostHold = true then .level
          else if 0 < s.bound b then .rising else .level) ∧
        (t.seq.get b).parallel = .running ((s.params.get b).parallelS * 1000000) ∧
        (s.seq.get b).Completes .done none (t.seq.get b) ∧
        t.sync.get b =
          { s.sync.get b with
            level := true, heldUs := 0, view := true, closeConfirm := .stopped, lastClose := some r } ∧
        r.timeUs = (s.now - (s.sync.get b).pulseStart).toNat ∧
        (s.shipFresh b = false → r.angle = none ∧ r.rough = false) ∧
        (∀ p, s.shipFresh b = true → (s.meas.get b).ship.latest = some p →
          r.angle = some ((s.osc.get b).phaseError p s.now) ∧
          (r.rough = true ↔
            (s.params.get b).angleMax * 65536 < ((s.osc.get b).phaseError p s.now).natAbs * 360)) ∧
        t.jour = (emitEvent .paralleled (if r.angle.isSome = true then 1 else 0) (some b)
          [putInt 0 32 (r.angle.getD 0), put 0 32 r.timeUs]
          (if r.rough = true then emitEvent .roughClose 0 (some b)
            [putInt 0 32 (r.angle.getD 0), putInt 0 32 ((s.sync.get b).window.slip.getD 0), put 0 32 r.timeUs] s
          else s)).jour ∧
        t.sessions.get b = (s.sessions.get b).map fun x => { x with parallels := min (x.parallels + 1) 65535 }) ∧
    ((s.sync.get b).view = false → s.inHold = false → (s.seq.get b).state.isClosed = false →
      (s.seq.get b).state ≠ .closing → ∃ t, exec (.breakerViewRise b) s = .next t ∧ s.SameStation t ∧
        (t.sync.get b).view = true ∧ t.tripLine b = true ∧ (t.sync.get b).tripPulse = .running 100000 ∧
        t.closeLine b = false ∧ (t.sync.get b).closeDue = .stopped ∧ (∀ c ∈ t.claims, c.berth ≠ b) ∧
        ((s.seq.get b).state ≠ .tripped → s.Trips b .uncommandedClose t ∧
          t.sessions.get b = (s.sessions.get b).map fun x => { x with trips := min (x.trips + 1) 65535 }) ∧
        ((s.seq.get b).state = .tripped → t.seq.get b = s.seq.get b ∧ t.jour = s.jour)) ∧
    ((s.sync.get b).view = false → exec (.breakerViewFall b) s = .next s) ∧
    ((s.sync.get b).view = true → s.inHold = true →
      exec (.breakerViewFall b) s = .next (s.updSync b fun u => { u with level := false, heldUs := 0, view := false })) ∧
    ((s.sync.get b).view = true → s.inHold = false →
      ((s.seq.get b).state.isClosed = false → exec (.breakerViewFall b) s = .next (s.updSync b fun u =>
        { u with
          level := false, heldUs := 0, view := false, deadTime := .running ((s.params.get b).deadTimeS * 1000000) })) ∧
      ((s.seq.get b).state = .opening → ∃ t, exec (.breakerViewFall b) s = .next t ∧ s.OnlyBerth b t ∧
        s.Stands b .energised t ∧
        (s.seq.get b).Completes .done ((s.seq.get b).openCause.map OpenCause.toCause) (t.seq.get b) ∧
        t.sync.get b =
          { s.sync.get b with
            level := false, heldUs := 0, view := false, openConfirm := .stopped
            deadTime := .running ((s.params.get b).deadTimeS * 1000000) } ∧
        t.jour = (emitEvent .returned (causeCode ((s.seq.get b).openCause.map OpenCause.toCause)) (some b)
          [putInt 0 32 (((s.meas.get b).feeder.latest.map Feeder.power).getD 0)] s).jour) ∧
      ((s.seq.get b).state.isClosed = true → (s.seq.get b).state ≠ .opening →
        ∃ t, exec (.breakerViewFall b) s = .next t ∧ s.OnlyBerth b t ∧ s.Stands b .energised t ∧
          (s.seq.get b).Completes .done (some .externalOpen) (t.seq.get b) ∧
          t.sync.get b =
            { s.sync.get b with
              level := false, heldUs := 0, view := false
              deadTime := .running ((s.params.get b).deadTimeS * 1000000) } ∧
          t.jour = (emitEvent .externalOpen (s.seq.get b).state.code (some b)
            [putInt 0 32 (((s.meas.get b).feeder.latest.map Feeder.power).getD 0)] s).jour ∧
          t.sessions.get b = (s.sessions.get b).map fun x =>
            if (s.seq.get b).state = .shoreOnly then { x with interruptions := min (x.interruptions + 1) 65535 }
            else x))

/-! ## Requests -/

/-- A SUPERVISOR write of berth page words 0 to 7: words 1 to 7 replace those of the request shadow, a write that
carries word 0 then asks with the kind and tag of that word, and the named requests are such writes; a write without
word 0 asks nothing. That a request command is the whole transfer is the model's choice (log 5). -/
def Obligations.RequestWordsReachSequencer : Prop :=
  (∀ (k : Nat) (t : BitVec 16), requestWord k t = put 0 8 k ||| put 16 16 t.toNat) ∧
  ∀ (b : Berth) (e : WindowEntry) (s : State), s.PageOpen b e →
    (∀ (n : Nat) (ws : List Word), 1 ≤ n → 1 ≤ ws.length → n + ws.length ≤ 8 →
      exec (.requestShadowWrite b n ws) s =
        .next (passOn (writeItem .supervisor (e.base + 4 * n) ws) (writeShadow b (numbered n ws) s)) ∧
      ∃ sh, writeShadow b (numbered n ws) s = s.updSeq b (fun q => { q with shadow := sh }) ∧
        ((s.seq.get b).shadow.length = 7 → sh.length = 7 ∧ ∀ i, i < 7 → sh.getD i 0 =
          if n ≤ i + 1 ∧ i + 1 < n + ws.length then ws.getD (i + 1 - n) 0 else (s.seq.get b).shadow.getD i 0)) ∧
    (∀ (w : Word) (rest : List Word), rest.length ≤ 7 → exec (.requestShadowWrite b 0 (w :: rest)) s =
      .next (passOn (writeItem .supervisor e.base (w :: rest))
        (takeRequest b (w.extractLsb' 0 8) (w.extractLsb' 16 16) (writeShadow b (numbered 1 rest) s)))) ∧
    ∀ (c : Instr) (k : BitVec 8) (t : BitVec 16) (rest : List Word), request? c = some (b, k, t, rest) →
      rest.length ≤ 7 → exec c s =
        .next (passOn (requestItem e k t rest) (takeRequest b k t (writeShadow b (numbered 1 rest) s)))

/-- The checks of a request in their order: an unknown kind, a lost station, a request in progress (but for ABORT), a state
in which the kind is not accepted, and for CONNECT the clock not set, billing records still held, parameters or profile not
in order, and a pool that can never serve it. A refusal writes the last result, raises the count, sets REQUEST_DONE and
changes nothing else but the shadow that the write carries. Which profile the shadow spells, and its ranges. The kind kept
for an unknown request is the model's (log 24), and so is the request command as the whole transfer (log 5). -/
def Obligations.RequestsRefusedInOrder : Prop :=
  (∀ (shadow : List Word) (p : ShipProfile), parseProfile shadow = some p ↔
    p = { shipCode := wordAt shadow 0, callNumber := (wordAt shadow 1).extractLsb' 0 16
          reserve := field (wordAt shadow 1) 16 2, nominalFreq := (wordAt shadow 2).toNat
          nominalVolt := (wordAt shadow 3).toNat, demand := (wordAt shadow 4).toNat } ∧
      (p.nominalFreq = 50000 ∨ p.nominalFreq = 60000) ∧ (p.nominalVolt = 6600 ∨ p.nominalVolt = 11000) ∧
      1000 ≤ p.demand ∧ p.demand ≤ 16000 ∧ p.demand % 100 = 0 ∧ p.reserve ≤ 2) ∧
  ∀ (b : Berth) (e : WindowEntry) (c : Instr) (k : BitVec 8) (t : BitVec 16) (rest : List Word) (s u : State),
    s.PageOpen b e → rest.length ≤ 7 → request? c = some (b, k, t, rest) →
    u = writeShadow b (numbered 1 rest) s →
    let no : ReqOutcome → Prop := fun o =>
      exec c s = .next (passOn (requestItem e k t rest) (setSummary (.requestDone b)
        (u.updSeq b fun q =>
          { q with
            last := { kind := k, tag := t, outcome := o, cause := none, overtaken := none }
            count := q.count + 1 })));
      (RequestKind.ofCode? k.toNat = none → no .refusedParam) ∧
      ∀ r, RequestKind.ofCode? k.toNat = some r →
        (s.page.presence = .lost → no .refusedLost) ∧
        (s.page.presence ≠ .lost → (s.seq.get b).current.isSome = true → r ≠ .abort → no .refusedBusy) ∧
        (s.page.presence ≠ .lost → (s.seq.get b).current = none ∨ r = .abort →
          ((r = .connect → (s.seq.get b).state ≠ .idle → no .refusedState) ∧
            (r = .sync → (s.seq.get b).state ≠ .energised → no .refusedState) ∧
            (r = .gensOff → (s.seq.get b).state ≠ .parallelIn → no .refusedState) ∧
            (r = .gensOn → (s.seq.get b).state ≠ .shoreOnly → no .refusedState) ∧
            (r = .abort → (s.seq.get b).state ≠ .waitingModules → (s.seq.get b).state ≠ .matching →
              (s.seq.get b).state ≠ .armed → (s.seq.get b).state ≠ .parallelIn → no .refusedState) ∧
            (r = .disconnect → (s.seq.get b).state ≠ .energised → (s.seq.get b).state ≠ .tripped →
              no .refusedState) ∧
            (r = .clear → ¬((s.seq.get b).state = .tripped ∧ (s.seq.get b).profile.isSome = true ∧
              (s.sync.get b).view = false ∧ s.tripLine b = false) → no .refusedState)) ∧
          (r = .connect → (s.seq.get b).state = .idle →
            (s.clock.timeUnset = true → no .refusedTimeUnset) ∧
            (s.clock.timeUnset = false → billingHeld s.jour.queue b ≠ 0 → no .refusedBacklog) ∧
            (s.clock.timeUnset = false → billingHeld s.jour.queue b = 0 →
              ((s.params.get b).configured = false ∨ parseProfile (u.seq.get b).shadow = none → no .refusedParam) ∧
              ∀ p, (s.params.get b).configured = true → parseProfile (u.seq.get b).shadow = some p →
                s.poolAnswer p = .unservable → no .refusedParam)))

/-- An accepted CONNECT takes the profile from the shadow and becomes the current request: with modules to be had at once
the berth is in ENERGISING with them JOINING in FORM and blanked, the oscillator started at nominal frequency, the voltage
rising from 0 and the energise timer running; else it is in WAITING_MODULES with its claim at the end of the queue.
The pool can never serve a profile that all the present modules together, whatever their state, do not allocate; it serves
one at once where no claim waits and the candidates allocate; any other waits. The scale of frequencies and the mark of a
glide are the model's (logs 10 and 30); that holds are kept across states is deduced (log 27). -/
def Obligations.ConnectServedOrQueued : Prop :=
  (∀ (s : State) (p : ShipProfile) (all : Option (List ModuleId)), all = allocate
      ((ModuleId.list.filter fun m => (s.mods.get m).present).map fun m => (m, (s.mods.get m).rating))
      p.demand p.reserve →
    (s.poolAnswer p = .unservable ↔ all = none) ∧
    (∀ ms, s.poolAnswer p = .served ms ↔
      all.isSome = true ∧ s.claims = [] ∧ s.allocation p.demand p.reserve = some ms) ∧
    (s.poolAnswer p = .queued ↔
      all.isSome = true ∧ (s.claims ≠ [] ∨ s.allocation p.demand p.reserve = none))) ∧
  ∀ (b : Berth) (e : WindowEntry) (tag : BitVec 16) (rest : List Word) (s u : State) (p : ShipProfile),
    s.Asked b e rest → u = writeShadow b (numbered 1 rest) s → (s.seq.get b).state = .idle →
    s.clock.timeUnset = false → billingHeld s.jour.queue b = 0 → (s.params.get b).configured = true →
    parseProfile (u.seq.get b).shadow = some p →
    (∀ ms, s.poolAnswer p = .served ms → ∃ t, exec (.connect b tag rest) s =
        .next (passOn (requestItem e 1 tag rest) t) ∧ s.SameStation t ∧ s.Stands b .energising t ∧
      (t.seq.get b).profile = some p ∧ (t.seq.get b).current = some { kind := .connect, tag := tag } ∧
      (t.seq.get b).firstEnergised = false ∧ (t.seq.get b).volt = .rising 0 ∧
      (t.seq.get b).energise = .running ((s.params.get b).energiseRampS * 1000000 + 5000000) ∧
      (t.seq.get b).count = (s.seq.get b).count ∧ t.claims = s.claims ∧
      ((s.osc.get b).running = false → ∀ f, f = (max 45000 (min 65000 p.nominalFreq)) * 1000000 → t.osc.get b =
        { running := true, freq := f, phase := 0, requested := .nominal, effective := .nominal, beforeHold := none
          target := f, lock := false, lastError := none, gliding := false }) ∧
      ∀ m ∈ ms, (t.mods.get m).standing = .assigned b .joining ∧ (t.mods.get m).mode = .form ∧
        (t.mods.get m).staleTimer = .running 100000 ∧ (s.ModesOk →
          (t.mods.get m).blankExpiry = blankedUntil s.now s.prot.blankingMs (s.mods.get m).blankExpiry)) ∧
    (s.poolAnswer p = .queued → ∃ t, exec (.connect b tag rest) s =
        .next (passOn (requestItem e 1 tag rest) t) ∧ s.SameStation t ∧ s.Stands b .waitingModules t ∧
      (t.seq.get b).profile = some p ∧ (t.seq.get b).current = some { kind := .connect, tag := tag } ∧
      (t.seq.get b).firstEnergised = false ∧ (t.seq.get b).count = (s.seq.get b).count ∧
      t.claims = s.claims ++
        [{ berth := b, demand := p.demand, reserve := p.reserve
           timer := if (s.params.get b).claimTimeoutMin = 0 then .stopped
             else .running ((s.params.get b).claimTimeoutMin * 60000000) }])

/-- The other requests in the states that accept them. SYNC: the oscillator is asked for TRACK_SLIP and the window is
evaluated and recorded: ARMED with a prediction exactly where it holds, else MATCHING; the sync timer runs and the close is
unused. GENS_OFF: SHORE_ONLY, done at once, with its EVENT. GENS_ON: PARALLEL_OUT with the parallel timer started afresh and
the setpoint FALLING from its start value but where a hold is set. DISCONNECT: the voltage falls in DE_ENERGISING, and from
0 the berth is IDLE at once, with the records of the session's end and RELEASED. CLEAR: ENERGISING with no trip cause, and
the blocked modules JOINING. Setpoints are in mW (the model's scale, log 11); one evaluation of the window (log 17) and a
request of TRACK_LOCK with the slot not fresh, or that finds it effective (logs 50 and 51), are its choices. That PARALLEL_OUT
takes over the holds set before is deduced (log 27). -/
def Obligations.RequestsMoveSequencer : Prop :=
  ∀ (b : Berth) (e : WindowEntry) (tag : BitVec 16) (rest : List Word) (s : State), s.Asked b e rest →
    ((s.seq.get b).state = .energised → ∃ t, exec (.sync b tag rest) s =
        .next (passOn (requestItem e 2 tag rest) t) ∧ s.OnlyBerth b t ∧
      (t.sync.get b).window = t.evalWindow b ∧
      ((t.evalWindow b).holds = true → s.Stands b .armed t ∧ (t.sync.get b).prediction.isSome = true) ∧
      ((t.evalWindow b).holds = false → s.Stands b .matching t ∧ (t.sync.get b).prediction = none) ∧
      ((s.osc.get b).running = true → (t.osc.get b).running = true ∧ (t.osc.get b).requested = .trackSlip) ∧
      t.meas = s.meas ∧ t.jour = s.jour ∧
      (t.seq.get b).current = some { kind := .sync, tag := tag } ∧
      (t.seq.get b).syncT = .running ((s.params.get b).syncTimeoutS * 1000000) ∧
      (t.sync.get b).closeUsed = false ∧ (t.sync.get b).closeCount = (s.sync.get b).closeCount) ∧
    ((s.seq.get b).state = .parallelIn → ∃ t, exec (.gensOff b tag rest) s =
        .next (passOn (requestItem e 3 tag rest) t) ∧ s.OnlyBerth b t ∧ s.Stands b .shoreOnly t ∧
      (t.seq.get b).current = none ∧ (t.seq.get b).count = (s.seq.get b).count + 1 ∧
      (t.seq.get b).last = { kind := 3, tag := tag, outcome := .done, cause := none, overtaken := none } ∧
      t.jour = (emitEvent .shoreOnly 0 (some b)
        [putInt 0 32 (((s.meas.get b).feeder.latest.map Feeder.power).getD 0)] s).jour) ∧
    ((s.seq.get b).state = .shoreOnly → ∃ t, exec (.gensOn b tag rest) s =
        .next (passOn (requestItem e 4 tag rest) t) ∧ s.OnlyBerth b t ∧ s.Stands b .parallelOut t ∧
      (t.seq.get b).current = some { kind := .gensOn, tag := tag } ∧
      (t.seq.get b).parallel = .running ((s.params.get b).parallelS * 1000000) ∧ (t.seq.get b).target = 0 ∧
      (t.seq.get b).setpoint =
        min (((s.meas.get b).feeder.latest.map Feeder.power).getD 0).toNat (s.bound b) * 1000000 ∧
      (t.seq.get b).staleHold = ((s.seq.get b).staleHold || !s.feederFresh b) ∧
      ((t.seq.get b).dir = if (t.seq.get b).staleHold = true ∨ (s.seq.get b).lostHold = true then .level
        else if 0 < (t.seq.get b).setpoint then .falling else .level) ∧
      t.sessions = s.sessions) ∧
    ((s.seq.get b).state = .energised → (s.seq.get b).volt ≠ .zero → ∃ t, exec (.disconnect b tag rest) s =
        .next (passOn (requestItem e 6 tag rest) t) ∧ s.OnlyBerth b t ∧ s.Stands b .deEnergising t ∧
      (t.seq.get b).volt = .falling 0 ∧ (t.seq.get b).current = some { kind := .disconnect, tag := tag }) ∧
    ((s.seq.get b).state = .tripped → (s.seq.get b).volt = .zero → (∀ c ∈ s.claims, c.berth ≠ b) →
      ∃ t, exec (.disconnect b tag rest) s = .next (passOn (requestItem e 6 tag rest) t) ∧ s.Idles b t ∧
        (t.seq.get b).current = none ∧ (t.seq.get b).count = (s.seq.get b).count + 1 ∧
        (t.seq.get b).last = { kind := 6, tag := tag, outcome := .done, cause := none, overtaken := none } ∧
        t.jour = (produceReleased b (s.seq.get b).profile (produceClose 1 s.clock.time b s)).jour ∧
        ∀ m, (t.mods.get m).serves b = false) ∧
    ((s.seq.get b).state = .tripped → (s.seq.get b).profile.isSome = true → (s.sync.get b).view = false →
      s.tripLine b = false → (∀ c ∈ s.claims, c.berth ≠ b) →
      ∃ t, exec (.clear b tag rest) s = .next (passOn (requestItem e 7 tag rest) t) ∧ s.SameStation t ∧
        s.Stands b .energising t ∧ (t.seq.get b).current = some { kind := .clear, tag := tag } ∧
        (t.seq.get b).tripCause = none ∧ (t.seq.get b).profile = (s.seq.get b).profile ∧
        (t.seq.get b).volt = .rising 0 ∧
        (t.seq.get b).energise = .running ((s.params.get b).energiseRampS * 1000000 + 5000000) ∧
        ∀ m, (s.mods.get m).standing = .assigned b .blockedByBerth →
          (t.mods.get m).standing = .assigned b .joining ∧ (t.mods.get m).mode = .form)

/-- An accepted ABORT overtakes the request in progress and completes at once, with the tag it overtook: from WAITING_MODULES
the berth is IDLE without its claim, from MATCHING and ARMED it is ENERGISED and no longer watches, from PARALLEL_IN it is in
PARALLEL_OUT with the parallel timer running on and the setpoint FALLING but where a hold is set. Setpoints are in mW (the
model's scale, log 11), the request command is the whole transfer (log 5), and a request of TRACK_LOCK with the slot not
fresh, or that finds it effective, is its choice (logs 50 and 51). That PARALLEL_OUT takes over the holds set in PARALLEL_IN
is deduced (log 27). -/
def Obligations.AbortOvertakes : Prop :=
  ∀ (b : Berth) (e : WindowEntry) (tag : BitVec 16) (rest : List Word) (s : State), s.PageOpen b e →
    rest.length ≤ 7 → s.page.presence ≠ .lost →
    let done : State → Prop := fun t =>
      (t.seq.get b).current = none ∧
        (t.seq.get b).last =
          { kind := 5, tag := tag, outcome := .done, cause := none
            overtaken := (s.seq.get b).current.map (·.tag) } ∧
        (t.seq.get b).count = (s.seq.get b).count + (if (s.seq.get b).current.isSome = true then 2 else 1) ∧
        t.summaryBit (.requestDone b) = true;
      ((s.seq.get b).state = .waitingModules → ∃ t, exec (.abort b tag rest) s =
          .next (passOn (requestItem e 5 tag rest) t) ∧ done t ∧ s.Idles b t) ∧
      ((s.seq.get b).state = .matching ∨ (s.seq.get b).state = .armed → ∃ t, exec (.abort b tag rest) s =
          .next (passOn (requestItem e 5 tag rest) t) ∧ done t ∧ s.OnlyBerth b t ∧ s.Stands b .energised t ∧
          (t.sync.get b).prediction = none ∧ (t.sync.get b).closeDue = .stopped) ∧
      ((s.seq.get b).state = .parallelIn → ∃ t, exec (.abort b tag rest) s =
          .next (passOn (requestItem e 5 tag rest) t) ∧ done t ∧ s.OnlyBerth b t ∧ s.Stands b .parallelOut t ∧
          (t.seq.get b).target = 0 ∧ (t.seq.get b).parallel = (s.seq.get b).parallel ∧
          (t.seq.get b).staleHold = ((s.seq.get b).staleHold || !s.feederFresh b) ∧
          ((t.seq.get b).dir = if (t.seq.get b).staleHold = true ∨ (s.seq.get b).lostHold = true then .level
            else if 0 < (t.seq.get b).setpoint then .falling else .level) ∧
          (t.seq.get b).setpoint =
            min (((s.meas.get b).feeder.latest.map Feeder.power).getD 0).toNat (s.bound b) * 1000000)

/-! ## The station page -/

/-- A SUPERVISOR write of station page words: each word is taken in ascending order. Words 0 to 215 are the shadow
and word 252 its CRC; the words of substituted reads and the spare ones take nothing; a write of a control word by
its own command is such a write, that of JOURNAL_CMD, of MODULE_SERVICE and of COMMIT too. A JOURNAL_CMD value other than 1, 2
and 3 has no effect, and of MODULE_SERVICE only its two fields are read. That a control word's command is the whole transfer
is the model's choice (log 5). -/
def Obligations.StationPageWordsTaken : Prop :=
  ∀ s : State, s.Takes .supervisor →
    (∀ (n : Nat) (ws : List Word), 1 ≤ ws.length → ws.length ≤ 8 → n + ws.length ≤ 256 →
      exec (.stationPageWrite n ws) s = .next (passOn (stationItem n ws) (takeStationWords (numbered n ws) s))) ∧
    (∀ (n : Nat) (v : Word) (ws : List Word) (u : State),
      takeStationWords (numbered n (v :: ws)) u =
        takeStationWords (numbered (n + 1) ws) (takeStationWord n v u)) ∧
    (∀ (n : Nat) (v : Word) (u : State),
      (n < 216 → takeStationWord n v u = { u with page := { u.page with shadow := u.page.shadow.set n v } }) ∧
      (n = 252 → takeStationWord n v u = { u with page := { u.page with shadowCrc := v } }) ∧
      (n = 217 ∨ 222 ≤ n ∧ n ≤ 226 ∨ 230 ≤ n ∧ n ≤ 251 ∨ 254 ≤ n → takeStationWord n v u = u)) ∧
    (∀ v, exec (.heartbeat v) s = exec (.stationPageWrite 216 [v]) s ∧
      exec (.eventAck v) s = exec (.stationPageWrite 218 [v]) s ∧
      exec (.unlock v) s = exec (.stationPageWrite 219 [v]) s ∧
      exec (.journalConsume v) s = exec (.stationPageWrite 221 [v]) s ∧
      exec (.timeSetDay v) s = exec (.stationPageWrite 227 [v]) s ∧
      exec (.timeSetSecond v) s = exec (.stationPageWrite 228 [v]) s ∧
      exec (.commitNamingNoSection v) s = exec (.stationPageWrite 253 [v]) s) ∧
    (exec .journalCmdStart s = exec (.stationPageWrite 220 [1]) s ∧
      exec .journalCmdStop s = exec (.stationPageWrite 220 [2]) s ∧
      exec .journalCmdReset s = exec (.stationPageWrite 220 [3]) s ∧
      ∀ (v : Word) (u : State), v ≠ 1 → v ≠ 2 → v ≠ 3 → takeStationWord 220 v u = u) ∧
    (∀ (i : BitVec 4) (a : BitVec 8), serviceWord i a = put 0 4 i.toNat ||| put 8 8 a.toNat ∧
      exec (.clearLockout i) s = exec (.stationPageWrite 229 [serviceWord i 1]) s ∧
      exec (.takeOut i) s = exec (.stationPageWrite 229 [serviceWord i 2]) s ∧
      exec (.returnModule i) s = exec (.stationPageWrite 229 [serviceWord i 3]) s ∧
      exec (.unknownServiceAction i a) s = exec (.stationPageWrite 229 [serviceWord i a]) s ∧
      ∀ (v : Word) (u : State), v.extractLsb' 0 4 = i → v.extractLsb' 8 8 = a →
        takeStationWord 229 v u = takeStationWord 229 (serviceWord i a) u) ∧
    (∀ (x : Section) (v : Word), names v x = v.getLsbD x.bit ∧ ∀ y, names (naming x v) y = (names v y || y == x)) ∧
    ∀ (c : Instr) (m : Word), commitMask? c = some m → exec c s = exec (.stationPageWrite 253 [m]) s

/-- HEARTBEAT has no effect while INACTIVE, and else makes the station PRESENT with the heartbeat timer at its period; from
LOST it also ends the lost holds, so that a ramp resumes where no stale hold is set, and tells the time lost. When the timer
expires in PRESENT the station is LOST, SUPERVISOR_LOST is set with its EVENT, a berth in MATCHING or ARMED is back in
ENERGISED with its request ABORTED for LOST, and the ramp of PARALLEL_IN is held. The time lost in whole ms, rounded down,
and the scale of setpoints are the model's (logs 44 and 11); that holds are kept across states is deduced (log 27). -/
def Obligations.HeartbeatAndLoss : Prop :=
  (∀ (v : Word) (s : State), s.Takes .supervisor →
    (s.page.presence = .inactive → exec (.heartbeat v) s = .next (passOn (stationItem 216 [v]) s)) ∧
    (s.page.presence = .awaiting ∨ s.page.presence = .present → exec (.heartbeat v) s =
      .next (passOn (stationItem 216 [v]) { s with page := { s.page with
        presence := .present, hbTimer := .running (s.prot.heartbeatMs * 1000), lastHeartbeat := s.now } })) ∧
    (s.page.presence = .lost → ∃ t, exec (.heartbeat v) s = .next (passOn (stationItem 216 [v]) t) ∧
      t.page.presence = .present ∧ t.page.hbTimer = .running (s.prot.heartbeatMs * 1000) ∧
      t.page.lastHeartbeat = s.now ∧
      t.jour = (emitEvent .supervisorRestored 0 none [put 0 32 (s.page.lostUs / 1000)] s).jour ∧
      (∀ b, t.seq.get b = { s.seq.get b with lostHold := false, dir := (t.seq.get b).wantDir } ∧
        s.BlanksModules b t ∧
        ((s.seq.get b).state = .parallelIn → (t.seq.get b).dir =
          if (s.seq.get b).staleHold = false ∧ (s.seq.get b).setpoint < (s.seq.get b).target * 1000000 then .rising
          else .level)) ∧
      ∀ k, s.summaryBit k = true → t.summaryBit k = true)) ∧
    ∀ s : State, s.page.hbTimer = .running 0 → s.page.presence = .present →
      ∃ t, exec .heartbeatTimerExpiry s = .next t ∧ t.page.presence = .lost ∧ t.page.hbTimer = .stopped ∧
        t.page.lostUs = 0 ∧ t.summaryBit .supervisorLost = true ∧
        t.jour = (emitEvent .supervisorLost 0 none [put 0 32 s.prot.heartbeatMs, s.page.lastHeartbeat] s).jour ∧
        ∀ b, ((s.seq.get b).state = .matching ∨ (s.seq.get b).state = .armed →
            s.Stands b .energised t ∧
              (s.seq.get b).Completes .aborted (some .lost) (t.seq.get b) ∧ (t.sync.get b).prediction = none) ∧
          ((s.seq.get b).state = .parallelIn →
            t.seq.get b = { s.seq.get b with lostHold := true, dir := .level } ∧ s.BlanksModules b t) ∧
          ((s.seq.get b).state ≠ .matching → (s.seq.get b).state ≠ .armed → (s.seq.get b).state ≠ .parallelIn →
            t.seq.get b = s.seq.get b ∧ t.sync.get b = s.sync.get b)

/-- EVENT_ACK clears the summary bits written as one and leaves the others, and tells the Journal Writer when it clears
JOURNAL_READY; ATTENTION is high exactly while RESET_N is high and an enabled bit is set. UNLOCK opens for 10 s on the next
sequence number followed within 1 s by its complement, and any other write closes. A summary bit is set by or-ing and no
other moves. That no unlock value is held outside FIRST_TAKEN is the model's choice (log 31). -/
def Obligations.AcknowledgeAndUnlock : Prop :=
  (∀ (k j : SummaryBit) (s : State), (setSummary k s).summaryBit j = (s.summaryBit j || j == k) ∧
    setSummary k s = { s with page := { s.page with summary := (setSummary k s).page.summary } } ∧
    s.summaryBit j = s.page.summary.getLsbD j.pos) ∧
  (∀ s : State, s.attention = true ↔
    s.resetLow = false ∧ ∃ i, i < 16 ∧ s.page.summary.getLsbD i = true ∧ s.page.enable.getLsbD i = true) ∧
  ∀ (v : Word) (s : State), s.Takes .supervisor →
    (∃ u, exec (.eventAck v) s = .next (passOn (stationItem 218 [v]) u) ∧
      (∀ i, i < 16 → u.page.summary.getLsbD i = (s.page.summary.getLsbD i && !v.getLsbD i)) ∧
      u = { s with
        page := { s.page with summary := u.page.summary }
        jour := { s.jour with
          coalescing := if s.summaryBit .journalReady = true ∧ v.getLsbD 0 = true ∧ s.jour.coalescing = .signalled then
            .waitingFirst else s.jour.coalescing } }) ∧
    (s.page.unlock = .closed →
      (v = s.jour.nextSeq → exec (.unlock v) s = .next (passOn (stationItem 219 [v]) { s with page := { s.page with
        unlock := .firstTaken v, unlockTimer := .running 1000000 } })) ∧
      (v ≠ s.jour.nextSeq → exec (.unlock v) s = .next (passOn (stationItem 219 [v]) s))) ∧
    (∀ x, s.page.unlock = .firstTaken x →
      (v = ~~~x → exec (.unlock v) s = .next (passOn (stationItem 219 [v]) { s with page := { s.page with
        unlock := .opened, unlockTimer := .running 10000000 } })) ∧
      (v ≠ ~~~x → exec (.unlock v) s = .next (passOn (stationItem 219 [v]) { s with page := { s.page with
        unlock := .closed, unlockTimer := .stopped } }))) ∧
    (s.page.unlock = .opened → exec (.unlock v) s = .next (passOn (stationItem 219 [v]) { s with page := { s.page with
      unlock := .closed, unlockTimer := .stopped } }))

/-- The journal commands. START starts a channel at rest whose ring is configured; STOP stops a started one, after the
record being written; RESET makes it INITIAL with P and C 0, and a record being written is abandoned and stays at the head
of the queue, while a burst of it that the face carries is carried on and counts for nothing. JOURNAL_CONSUME moves C to a
value below the ring length that does not pass P, and counts any other. -/
def Obligations.JournalCommandsTaken : Prop :=
  ∀ s : State, s.Takes .supervisor →
    (s.jour.channel = .initial ∨ s.jour.channel = .stopped → s.bus.firstCommit = true → s.jour.ring.isSome = true →
      exec .journalCmdStart s =
        .next (passOn (stationItem 220 [1]) { s with jour := { s.jour with channel := .started } })) ∧
    ((s.jour.channel = .started ∨ s.jour.channel = .stopPending) ∨ s.bus.firstCommit = false ∨ s.jour.ring = none →
      exec .journalCmdStart s = .next (passOn (stationItem 220 [1]) s)) ∧
    (s.jour.channel = .started → exec .journalCmdStop s =
      .next (passOn (stationItem 220 [2]) { s with jour := { s.jour with
        channel := if s.jour.writing.isSome = true then .stopPending else .stopped } })) ∧
    (s.jour.channel ≠ .started → exec .journalCmdStop s = .next (passOn (stationItem 220 [2]) s)) ∧
    (∃ u, exec .journalCmdReset s = .next (passOn (stationItem 220 [3]) u) ∧
      u.jour = { s.jour with
        writing := none, channel := .initial, produce := 0, consume := 0, coalTimer := .stopped
        coalescing := u.jour.coalescing } ∧
      (u.jour.coalescing = .signalled ∨ u.jour.coalescing = .waitingFirst) ∧
      (u.jour.coalescing = .signalled ↔ s.jour.coalescing = .signalled) ∧
      u.bus = { s.bus with face := u.bus.face } ∧
      (∀ a ws live, s.bus.face = some (.journal a ws live) → u.bus.face = some (.journal a ws false)) ∧
      ((∀ a ws live, s.bus.face ≠ some (.journal a ws live)) → u.bus.face = s.bus.face) ∧
      u.mods = s.mods ∧ u.seq = s.seq ∧ u.page = s.page ∧ u.clock = s.clock ∧ u.sessions = s.sessions) ∧
    ∀ n : Word,
      (n.toNat < s.jour.len →
        unconsumed s.jour.len n.toNat s.jour.consume ≤ unconsumed s.jour.len s.jour.produce s.jour.consume →
        exec (.journalConsume n) s =
          .next (passOn (stationItem 221 [n]) { s with jour := { s.jour with consume := n.toNat } })) ∧
      (s.jour.len ≤ n.toNat ∨
          unconsumed s.jour.len s.jour.produce s.jour.consume < unconsumed s.jour.len n.toNat s.jour.consume →
        exec (.journalConsume n) s = .next (passOn (stationItem 221 [n]) { s with jour := { s.jour with
          refusals := min (s.jour.refusals + 1) 65535 } }))

/-- The tariff clock. TIME_SET_DAY stages a day; TIME_SET_SECOND above 86,399 is not taken, and else sets the time to the
staged or present day with the written second, moves the tick instant, clears TIME_UNSET, and splits the interval of every
open session: it closes at the old time, TIME_STEP and PARTIAL, and restarts at the new; the EVENT TIME_STEP tells both
times, the mark and the number of sessions. A tick is one second later, and one that is no boundary changes nothing else; at
a boundary every session that is not carried closes its interval there and produces it, B0, B1, B2, and a pending metrology
set comes into force. The band in force is that of the last entry that has started, and the next boundary is the next
multiple of the interval, or midnight. What a closed interval holds is stated with the ends of sessions. The width of the
accumulators, the order of the records of a time set and their stamp, the new time, are the model's (logs 23, 33 and 43). -/
def Obligations.TimeIsSetAndTicks : Prop :=
  (∀ (s : State) (before after : List TariffEntry) (e : TariffEntry),
    s.clock.inForce.schedule = before ++ e :: after → e.start ≤ s.clock.time.second →
    (∀ x ∈ after, s.clock.time.second < x.start) → s.band = e.band) ∧
  (∀ (forced step : Bool) (stop time : StationTime) (b : Berth) (s : State),
    (s.sessions.get b = none → produceInterval forced step stop time b s = s) ∧
    ∀ x, s.sessions.get b = some x → ∀ i, i = (closeInterval s.clock.inForce.intervalMin stop forced step x).1 →
      produceInterval forced step stop time b s = admitInterval b
        { berth := some b, session := x.number, time := time, body := .interval i } i s) ∧
  (∀ (x : StationTime) (minutes n : Nat), 0 < minutes → minutes * 60 ∣ n → x.second < n →
    n ≤ x.second + minutes * 60 →
    nextBoundaryAfter x minutes = if n < 86400 then ⟨x.day, n⟩ else ⟨x.day + 1, 0⟩) ∧
  (∀ (d : Word) (s : State), s.Takes .supervisor → exec (.timeSetDay d) s =
    .next (passOn (stationItem 227 [d]) { s with clock := { s.clock with stagedDay := some d } })) ∧
  (∀ (v : Word) (s : State), s.Takes .supervisor →
    (86400 ≤ v.toNat → exec (.timeSetSecond v) s = .next (passOn (stationItem 228 [v]) s)) ∧
    (v.toNat < 86400 → ∃ u, exec (.timeSetSecond v) s = .next (passOn (stationItem 228 [v]) u) ∧
      u.clock = { s.clock with
        time := ⟨s.clock.stagedDay.getD s.clock.time.day, v.toNat⟩, tickInstant := s.now, timeUnset := false
        stagedDay := none
        nextBoundary := nextBoundaryAfter ⟨s.clock.stagedDay.getD s.clock.time.day, v.toNat⟩
          s.clock.inForce.intervalMin } ∧
      (∀ b, u.sessions.get b = (s.sessions.get b).map fun x =>
        { (closeInterval s.clock.inForce.intervalMin s.clock.time true true x).2 with
          acc :=
            { start := ⟨s.clock.stagedDay.getD s.clock.time.day, v.toNat⟩, energy := Energies.zero, gap := false
              timeStep := false, metrology := false } }) ∧
      u.jour = (emitEvent .timeStep (if s.clock.timeUnset = true then 1 else 0) none
        [s.clock.time.day, put 0 32 s.clock.time.second, s.clock.stagedDay.getD s.clock.time.day, put 0 32 v.toNat,
          put 0 32 s.openSessions]
        (forBerths (produceInterval true true s.clock.time ⟨s.clock.stagedDay.getD s.clock.time.day, v.toNat⟩)
          { s with clock := u.clock })).jour ∧
      u.bus = s.bus ∧ u.mods = s.mods ∧ u.seq = s.seq ∧ u.meas = s.meas ∧ u.params = s.params)) ∧
  ∀ s : State, 1000000 ≤ (s.now - s.clock.tickInstant).toNat →
    ∀ (next : StationTime) (c : Clock),
      next = (if s.clock.time.second + 1 < 86400 then ⟨s.clock.time.day, s.clock.time.second + 1⟩
        else ⟨s.clock.time.day + 1, 0⟩) →
      c = { s.clock with time := next, tickInstant := s.clock.tickInstant + 1000000 } →
      (next ≠ s.clock.nextBoundary → exec .stationTick s = .next { s with clock := c }) ∧
      (next = s.clock.nextBoundary → ∃ t, exec .stationTick s = .next t ∧
        t.clock = { c with
          inForce := s.clock.pending.getD s.clock.inForce, pending := none
          nextBoundary := nextBoundaryAfter next (s.clock.pending.getD s.clock.inForce).intervalMin } ∧
        (∀ b, s.carried.isSome = true ∨ s.sessions.get b = none → t.sessions.get b = s.sessions.get b) ∧
        (s.carried.isSome = true → t.jour = s.jour) ∧
        (s.carried = none → (∀ b, t.sessions.get b = (s.sessions.get b).map fun x =>
            { (closeInterval s.clock.inForce.intervalMin next false false x).2 with
              acc :=
                { start := next, energy := Energies.zero, gap := false, timeStep := false
                  metrology := s.clock.pending.isSome } }) ∧
          t.jour = (forBerths (produceInterval false false next next) s).jour) ∧
        t.bus = s.bus ∧ t.mods = s.mods ∧ t.seq = s.seq ∧ t.meas = s.meas ∧ t.page = s.page)

/-- R39 and R40, with the result word and the count of R38. -/
def Obligations.ServiceActionsChangePoolState : Prop :=
  ∀ (s : State), s.Takes .supervisor →
    ∀ result : BitVec 4 → BitVec 8 → ServiceOutcome → State → State,
      (∀ i a o u, result i a o u =
        { u with service := { idx := i, action := a, outcome := o, count := u.service.count + 1 } }) →
    (∀ (m : ModuleId) (i : BitVec 4), i.toNat = m.num →
      ((s.mods.get m).standing = .lockedOut → exec (.clearLockout i) s =
        .next (passOn (stationItem 229 [serviceWord i 1]) (result i 1 .done (tryPool (s.updMod m fun r =>
          { r with
            standing := .available, deglitch := ⟨0, 0, 0, 0⟩, fastCount := 0, slowCount := 0 }))))) ∧
      ((s.mods.get m).standing = .available ∨ (s.mods.get m).standing = .outOfService →
        exec (.clearLockout i) s =
          .next (passOn (stationItem 229 [serviceWord i 1]) (result i 1 .refusedState s))) ∧
      ((s.mods.get m).standing = .available → exec (.takeOut i) s =
        .next (passOn (stationItem 229 [serviceWord i 2]) (result i 2 .done (s.updMod m fun r =>
          { r with standing := .outOfService })))) ∧
      ((s.mods.get m).standing = .lockedOut ∨ (s.mods.get m).standing = .outOfService → exec (.takeOut i) s =
        .next (passOn (stationItem 229 [serviceWord i 2]) (result i 2 .refusedState s))) ∧
      ((s.mods.get m).standing = .outOfService → exec (.returnModule i) s =
        .next (passOn (stationItem 229 [serviceWord i 3]) (result i 3 .done (tryPool (s.updMod m fun r =>
          { r with standing := .available }))))) ∧
      ((s.mods.get m).standing = .available ∨ (s.mods.get m).standing = .lockedOut → exec (.returnModule i) s =
        .next (passOn (stationItem 229 [serviceWord i 3]) (result i 3 .refusedState s))) ∧
      ∀ b r, (s.mods.get m).standing = .assigned b r →
        exec (.clearLockout i) s =
          .next (passOn (stationItem 229 [serviceWord i 1]) (result i 1 .refusedAssigned s)) ∧
        exec (.takeOut i) s =
          .next (passOn (stationItem 229 [serviceWord i 2]) (result i 2 .refusedAssigned s)) ∧
        exec (.returnModule i) s =
          .next (passOn (stationItem 229 [serviceWord i 3]) (result i 3 .refusedAssigned s))) ∧
    (∀ i : BitVec 4, 8 ≤ i.toNat →
      exec (.clearLockout i) s =
        .next (passOn (stationItem 229 [serviceWord i 1]) (result i 1 .badRequest s)) ∧
      exec (.takeOut i) s =
        .next (passOn (stationItem 229 [serviceWord i 2]) (result i 2 .badRequest s)) ∧
      exec (.returnModule i) s =
        .next (passOn (stationItem 229 [serviceWord i 3]) (result i 3 .badRequest s))) ∧
    ∀ (i : BitVec 4) (a : BitVec 8), a ≠ 1 → a ≠ 2 → a ≠ 3 → exec (.unknownServiceAction i a) s =
      .next (passOn (stationItem 229 [serviceWord i a]) (result i a .badRequest s))

/-! ## Commits -/

/-- The checks of a commit in their order, for each of the commit commands and the mask it writes: CRC, ranges and
ties, section conditions, and for METROLOGY the unlock window and the journal's room. A refused commit records its
outcome, raises the commit count, sets CONFIG_DONE and changes nothing in force; an empty mask, or one with a bit
outside the seven sections, is out of range at word 253. The words each section checks against their ranges, the first bad
one being reported, the ties between sections, of which the first that fails is reported at its word, and the section
conditions. Two window entries clash where they share a byte, or are of one kind that may not stand twice. The mask a command writes, the index of a WINDOWS
failure, flag words, the ties without a JOURNAL window and the bounds of the write-back address are the model's (logs 5 and
19 to 22); that section none and word index 0 stand with BAD_CRC, LOCKED and NO_JOURNAL_ROOM, and index 0 with BAD_STATE, is
deduced (log 37), and so is that word 160 is looked at for its start second and an unused schedule word as a whole
(log 36). -/
def Obligations.CommitsRefusedInOrder : Prop :=
  (∀ (x : Section) (l : List (Nat × Bool)),
    (firstBad x l = none ↔ ∀ y ∈ l, y.2 = true) ∧
    ∀ o, firstBad x l = some o ↔ ∃ before after, l = before ++ (o.index, false) :: after ∧
      (∀ y ∈ before, y.2 = true) ∧ o.sect = some x) ∧
  (∀ s : State,
    s.checkSection .windows = (match firstBad .windows ((List.range 12).map fun n => (4 * n, entryOk s.rawTable n)) with
      | some o => some o
      | none => if ([3, 4, 5].all fun k => s.rawTable.any fun e => e.kind == k) = true then none
        else some ⟨some .windows, 0⟩) ∧
    (s.rawTable.length = 12 ∧ ∀ n, n < 12 → s.rawTable[n]? =
      some ⟨s.cfg (4 * n), s.cfg (4 * n + 1), s.cfg (4 * n + 2), s.cfg (4 * n + 3)⟩) ∧
    s.checkSection .berths = firstBad .berths (Berth.list.flatMap fun b =>
      if s.cfg (48 + 16 * b.num) = 0 then [] else
        [(1, 1, 10), (2, 20, 300), (3, 10, 100), (4, 2, 20), (5, 20, 200), (6, 1, 60), (7, 50, 2000), (8, 50, 1000),
          (9, 30, 600), (10, 10, 300), (11, 1, 20), (12, 10, 1000), (13, 10, 500), (14, 50, 1000), (15, 0, 60)].map
          fun (x : Nat × Nat × Nat) => (48 + 16 * b.num + x.1,
            decide (x.2.1 ≤ s.cfg (48 + 16 * b.num + x.1) ∧ s.cfg (48 + 16 * b.num + x.1) ≤ x.2.2))) ∧
    s.checkSection .pool = firstBad .pool (ModuleId.list.flatMap fun k =>
      if s.cfg (96 + 4 * k.num) = 0 then [] else
        [(97 + 4 * k.num, decide (500 ≤ s.cfg (97 + 4 * k.num) ∧ s.cfg (97 + 4 * k.num) ≤ 2500 ∧
          s.cfg (97 + 4 * k.num) % 100 = 0))]) ∧
    s.checkSection .journal = firstBad .journal
      [(128, decide (16 ≤ s.cfg 128 ∧ s.cfg 128 ≤ 2048)),
        (129, decide (s.cfg 129 % 4 = 0 ∧ s.cfg 129 < 16776192))] ∧
    s.checkSection .protection = firstBad .protection
      [(144, decide (1 ≤ s.cfg 144 ∧ s.cfg 144 ≤ 4)), (145, decide (s.cfg 145 ≤ 500)),
        (146, decide (s.cfg 146 ∈ [500, 1000, 2000, 5000])), (147, decide (s.cfg 147 ≤ 3)),
        (148, decide (s.cfg 148 ∈ [30, 60, 120, 300])), (149, decide (s.cfg 149 ≤ 3)),
        (150, decide (100 ≤ s.cfg 150 ∧ s.cfg 150 ≤ 10000)), (151, decide (500 ≤ s.cfg 151 ∧ s.cfg 151 ≤ 10000)),
        (152, decide (100 ≤ s.cfg 152 ∧ s.cfg 152 ≤ 2000))] ∧
    (∀ start : Nat → Nat, (∀ i, start i = (wordAt s.page.shadow (160 + i)).toNat % 131072) →
      s.checkSection .metrology = firstBad .metrology ((160, decide (start 0 = 0)) ::
        ((List.range 7).map fun i => (161 + i, if ((List.range (i + 1)).all fun j => start (j + 1) != 0) = true then
            decide ((if i = 0 then 0 else start i) < start (i + 1) ∧ start (i + 1) < 86400)
          else decide (s.cfg (161 + i) = 0))) ++
        [(168, decide (s.cfg 168 ∈ [5, 10, 15, 20, 30, 60])),
          (169, decide (10 ≤ s.cfg 169 ∧ s.cfg 169 ≤ 600))])) ∧
    s.checkSection .attention = firstBad .attention
      [(208, decide (s.cfg 208 ≤ 65535)), (209, decide (1 ≤ s.cfg 209 ∧ s.cfg 209 ≤ 64)),
        (210, decide (10 ≤ s.cfg 210 ∧ s.cfg 210 ≤ 5000))] ∧
    (∀ m : Word, s.checkTies m = none ↔
      (∀ b, (if names m .berths = true then s.cfg (48 + 16 * b.num) ≠ 0 else (s.params.get b).configured = true) →
        (∃ e ∈ s.tableAfter m, e.kind = .measure ∧ e.berth = b.num) ∧
          ∃ e ∈ s.tableAfter m, e.kind = .berthPage ∧ e.berth = b.num) ∧
      ∀ r, s.ringAfter m = some r →
        (∀ e, findWindow (s.tableAfter m) .journal = some e → r.length * 64 ≤ e.size) ∧
          ∀ e ∈ s.tableAfter m, ¬(e.kind ≠ .none ∧ e.base ≤ r.writeBack ∧ r.writeBack < e.base + e.size)) ∧
    (∀ (m : Word) (tie : Berth → Prop) (fits apart : Ring → Prop),
      (∀ b, tie b ↔
        ((if names m .berths = true then s.cfg (48 + 16 * b.num) ≠ 0 else (s.params.get b).configured = true) →
          (∃ e ∈ s.tableAfter m, e.kind = .measure ∧ e.berth = b.num) ∧
            ∃ e ∈ s.tableAfter m, e.kind = .berthPage ∧ e.berth = b.num)) →
      (∀ r, (fits r ↔ ∀ e, findWindow (s.tableAfter m) .journal = some e → r.length * 64 ≤ e.size) ∧
        (apart r ↔
          ∀ e ∈ s.tableAfter m, ¬(e.kind ≠ .none ∧ e.base ≤ r.writeBack ∧ r.writeBack < e.base + e.size))) →
      (∀ b : Berth, (∀ c : Berth, c.num < b.num → tie c) → ¬tie b →
        s.checkTies m = some ⟨some .berths, 48 + 16 * b.num⟩) ∧
      ((∀ b, tie b) → ∀ r, s.ringAfter m = some r →
        (¬fits r → s.checkTies m = some ⟨some .journal, 128⟩) ∧
        (fits r → ¬apart r → s.checkTies m = some ⟨some .journal, 129⟩))) ∧
    (∀ m : Word, s.tableAfter m =
        (if names m .windows = true then s.rawTable.map RawEntry.entry else s.bus.table) ∧
      s.ringAfter m = if names m .journal = true then some ⟨s.cfg 128, s.cfg 129⟩ else s.jour.ring) ∧
    (s.sectionReady .windows = true ↔ (∀ b, (s.seq.get b).state = .idle) ∧ s.claims = [] ∧
      (s.jour.channel = .initial ∨ s.jour.channel = .stopped)) ∧
    (s.sectionReady .pool = true ↔ ∀ b, (s.seq.get b).state = .idle) ∧
    (s.sectionReady .journal = true ↔ s.jour.channel = .initial ∨ s.jour.channel = .stopped) ∧
    ∀ x ∈ [Section.berths, .protection, .metrology, .attention], s.sectionReady x = true) ∧
  (∀ (s : State) (n : Nat), s.cfg n = (s.page.shadow.getD n 0).toNat ∧ wordAt s.page.shadow n = s.page.shadow.getD n 0 ∧
    (s.cfgFlag n = true ↔ s.cfg n ≠ 0)) ∧
  (∀ e : RawEntry, e.entry =
    { base := e.base, size := e.size, kind := (WindowKind.ofCode? e.kind).getD .none, berth := e.berth }) ∧
  (List.range 7).map WindowKind.ofCode? =
    [some .none, some .measure, some .berthPage, some .moduleCmd, some .moduleStat, some .journal, none] ∧
  (∀ (l : List RawEntry) (n : Nat) (e : RawEntry), l[n]? = some e → (entryOk l n = true ↔
    e.fieldsOk = true ∧ ∀ k c, k ≠ n → l[k]? = some c → e.clashes c = false)) ∧
  (∀ e : RawEntry, e.fieldsOk = true ↔ e.kind = 0 ∨
    (e.kind ≤ 5 ∧ e.base % 256 = 0 ∧ e.size % 256 = 0 ∧ 256 ≤ e.size ∧ e.size ≤ 1048576 ∧
      e.base + e.size ≤ 16776192 ∧ (e.kind = 1 ∨ e.kind = 2 → e.berth ≤ 2) ∧
      (e.kind ≠ 1 → e.kind ≠ 2 → e.berth = 0) ∧ (e.kind = 2 ∨ e.kind = 3 ∨ e.kind = 4 → e.size = 256))) ∧
  (∀ e c : RawEntry, e.clashes c = true ↔
    e.kind ≠ 0 ∧ c.kind ≠ 0 ∧ (∃ n, e.base ≤ n ∧ n < e.base + e.size ∧ c.base ≤ n ∧ n < c.base + c.size) ∨
      e.kind = c.kind ∧ (3 ≤ e.kind ∨ e.kind ≠ 0 ∧ e.berth = c.berth)) ∧
  ∀ (c : Instr) (m : Word) (s : State), commitMask? c = some m → s.Takes .supervisor →
    let ends : CommitOutcome → Option Section → Nat → Prop := fun o x i =>
      exec c s = .next (passOn (stationItem 253 [m]) (setSummary .configDone
        { s with page := { s.page with
          result := { outcome := o, mask := m, sect := x, index := i, count := s.page.result.count + 1 } } }));
    (crc32 s.page.shadow ≠ s.page.shadowCrc → ends .badCrc none 0) ∧
    (crc32 s.page.shadow = s.page.shadowCrc →
      (m = 0 ∨ 128 ≤ m.toNat → ends .badRange none 253) ∧
      (m ≠ 0 → m.toNat < 128 →
        (∀ x, (∀ y, y.bit < x.bit → names m y = true → s.checkSection y = none) → names m x = true →
          ∀ o, s.checkSection x = some o → ends .badRange o.sect o.index) ∧
        ((∀ x, names m x = true → s.checkSection x = none) →
          (∀ o, s.checkTies m = some o → ends .badRange o.sect o.index) ∧
          (s.checkTies m = none →
            (s.bus.firstCommit = false → names m .windows = false → ends .badState (some .windows) 0) ∧
            (s.bus.firstCommit = true ∨ names m .windows = true →
              (∀ x, (∀ y, y.bit < x.bit → names m y = true → s.sectionReady y = true) → names m x = true →
                s.sectionReady x = false → ends .badState (some x) 0) ∧
              ((∀ x, names m x = true → s.sectionReady x = true) → names m .metrology = true →
                (s.page.unlock ≠ .opened → ends .locked none 0) ∧
                (s.page.unlock = .opened →
                  metrologyHeld s.jour.queue ≠ 0 ∨ (∃ r ∈ s.jour.queue, r.isInterval = true) →
                  ends .noJournalRoom none 0)))))))

/-- A commit that passes every check is ACCEPTED and its named sections take effect together: WINDOWS brings its
table, the mark of a first commit and new intake baselines; BERTHS each berth's set, at once in IDLE and pending
elsewhere; POOL presence and ratings; JOURNAL the ring; PROTECTION its parameters, with the heartbeat armed;
METROLOGY its set as pending with the unlock window closed, and its CONFIG_CHANGE with the committed set, the set in force
and the replaced mark; ATTENTION the enable mask and the coalescing parameters. What is not named stays. The words of
CONFIG_CHANGE, and how a schedule is packed in them. Which words of the shadow the sets are read from. The mask a command
writes and flag words are the model's (logs 5 and 20); that section none and word index 0 stand with ACCEPTED is deduced
(log 37). -/
def Obligations.CommitTakesEffect : Prop :=
  (∀ s : State,
    (∀ b n, n = 48 + 16 * b.num → s.cfgParams b =
      { configured := decide (s.cfg n ≠ 0), voltMax := s.cfg (n + 1), slipTarget := s.cfg (n + 2)
        slipTolerance := s.cfg (n + 3), angleMax := s.cfg (n + 4), closeTimeMs := s.cfg (n + 5)
        deadTimeS := s.cfg (n + 6), rampRate := s.cfg (n + 7), releaseKw := s.cfg (n + 8), parallelS := s.cfg (n + 9)
        syncTimeoutS := s.cfg (n + 10), energiseRampS := s.cfg (n + 11), slew := s.cfg (n + 12)
        islandSlew := s.cfg (n + 13), stalenessMs := s.cfg (n + 14), claimTimeoutMin := s.cfg (n + 15) }) ∧
    s.cfgProtection =
      { deglitch := s.cfg 144, blankingMs := s.cfg 145, fastDelayMs := s.cfg 146, fastCount := s.cfg 147
        slowDelayS := s.cfg 148, slowCount := s.cfg 149, heartbeatMs := s.cfg 150, overloadMs := s.cfg 151
        reverseKw := s.cfg 152 } ∧
    s.cfgMetrology.intervalMin = s.cfg 168 ∧ s.cfgMetrology.bridgeS = s.cfg 169 ∧
    ∀ i, i < 8 → s.cfgMetrology.schedule[i]? =
      if ∀ j, j < i → field (wordAt s.page.shadow (161 + j)) 0 17 ≠ 0 then
        some ⟨field (wordAt s.page.shadow (160 + i)) 0 17, field (wordAt s.page.shadow (160 + i)) 24 2⟩ else none) ∧
  [5, 10, 15, 20, 30, 60].map intervalCode = List.range 6 ∧
  (∀ (new old : Metrology) (replaced : Bool), ∃ p q : Nat, configWords new old replaced =
      [BitVec.ofNat 32 p, BitVec.ofNat 32 (p / 2 ^ 32), BitVec.ofNat 32 (p / 2 ^ 64), BitVec.ofNat 32 (p / 2 ^ 96),
        fields [BitVec.ofNat 32 (p / 2 ^ 128), put 24 3 (intervalCode new.intervalMin), putBit 31 replaced],
        fields [put 0 10 new.bridgeS, put 12 3 (intervalCode old.intervalMin), put 16 10 old.bridgeS],
        BitVec.ofNat 32 q, BitVec.ofNat 32 (q / 2 ^ 32), BitVec.ofNat 32 (q / 2 ^ 64), BitVec.ofNat 32 (q / 2 ^ 96),
        BitVec.ofNat 32 (q / 2 ^ 128)] ∧
    (∀ i, p / 2 ^ (19 * i) % 2 ^ 19 =
      ((new.schedule[i]?).map fun e => e.start % 131072 + e.band % 4 * 131072).getD 0) ∧
    ∀ i, q / 2 ^ (19 * i) % 2 ^ 19 =
      ((old.schedule[i]?).map fun e => e.start % 131072 + e.band % 4 * 131072).getD 0) ∧
  ∀ (c : Instr) (m : Word) (s : State), commitMask? c = some m → s.Takes .supervisor →
    crc32 s.page.shadow = s.page.shadowCrc → m ≠ 0 → m.toNat < 128 →
    (∀ x, names m x = true → s.checkSection x = none ∧ s.sectionReady x = true) → s.checkTies m = none →
    s.bus.firstCommit = true ∨ names m .windows = true →
    (names m .metrology = true → s.page.unlock = .opened ∧ metrologyHeld s.jour.queue = 0 ∧
      ∀ r ∈ s.jour.queue, r.isInterval = false) →
    ∃ u, exec c s = .next (passOn (stationItem 253 [m]) u) ∧
      u.page.result =
        { outcome := .accepted, mask := m, sect := none, index := 0, count := s.page.result.count + 1 } ∧
      u.page.accepted = s.page.accepted ||| m.setWidth 7 ∧ u.summaryBit .configDone = true ∧
      u.page.shadow = s.page.shadow ∧ u.clock.time = s.clock.time ∧ u.clock.inForce = s.clock.inForce ∧
      (names m .windows = true → u.bus = { s.bus with table := s.rawTable.map RawEntry.entry, firstCommit := true } ∧
        ∀ b, u.meas.get b =
            { baselineSet := false, expected := (s.meas.get b).expected, counters := (s.meas.get b).counters
              ship := { fresh := .noData, timer := .stopped, latest := none }
              shore := { fresh := .noData, timer := .stopped, latest := none }
              feeder := { fresh := .noData, timer := .stopped, latest := none }
              base := none, bridge := .stopped, staleBetween := false } ∧
          u.sync.get b = { s.sync.get b with prev := none, residual := none }) ∧
      (names m .windows = false → u.bus = s.bus ∧ u.meas = s.meas ∧ u.sync = s.sync) ∧
      (∀ b, names m .berths = true → (s.seq.get b).state = .idle →
        u.params.get b = s.cfgParams b ∧ u.pendingParams.get b = none) ∧
      (∀ b, names m .berths = true → (s.seq.get b).state ≠ .idle →
        u.params.get b = s.params.get b ∧ u.pendingParams.get b = some (s.cfgParams b)) ∧
      (names m .berths = false → u.params = s.params ∧ u.pendingParams = s.pendingParams) ∧
      (names m .pool = true → ∀ k, (u.mods.get k).present = s.cfgFlag (96 + 4 * k.num) ∧
        (u.mods.get k).rating = s.cfg (97 + 4 * k.num)) ∧
      (names m .pool = false → u.mods = s.mods ∧ u.seq = s.seq ∧ u.claims = s.claims) ∧
      u.jour.ring = (if names m .journal = true then some { length := s.cfg 128, writeBack := s.cfg 129 }
        else s.jour.ring) ∧
      (s.journalBase = u.journalBase ∧ s.jour.len = u.jour.len →
        u.jour.produce = s.jour.produce ∧ u.jour.consume = s.jour.consume) ∧
      (s.journalBase ≠ u.journalBase ∨ s.jour.len ≠ u.jour.len → u.jour.produce = 0 ∧ u.jour.consume = 0) ∧
      (names m .protection = true → u.prot = s.cfgProtection ∧
        u.page.presence = (if s.page.presence = .inactive then .awaiting else s.page.presence)) ∧
      (names m .protection = false → u.prot = s.prot ∧ u.page.presence = s.page.presence) ∧
      (names m .metrology = true → u.clock.pending = some s.cfgMetrology ∧ u.page.unlock = .closed ∧
        u.page.unlockTimer = .stopped ∧ u.jour.queue = s.jour.queue ++
          [{ berth := none, session := 0, time := s.clock.time
             body := .configChange (configWords s.cfgMetrology s.clock.inForce s.clock.pending.isSome) }]) ∧
      (names m .metrology = false → u.clock = s.clock ∧ u.page.unlock = s.page.unlock ∧
        u.jour.queue = s.jour.queue) ∧
      (names m .attention = true → u.page.enable = BitVec.ofNat 16 (s.cfg 208) ∧ u.jour.threshold = s.cfg 209 ∧
        u.jour.coalTimeMs = s.cfg 210) ∧
      (names m .attention = false → u.page.enable = s.page.enable ∧ u.jour.threshold = s.jour.threshold ∧
        u.jour.coalTimeMs = s.jour.coalTimeMs)

/-! ## Admission of records -/

/-- Admission to the holding queue: a billing record takes one of its berth's three slots, an EVENT one of six or is
dropped, counted and told by EVENTS_LOST, a CONFIG_CHANGE the one metrology slot; an INTERVAL joins the newest
INTERVAL of its berth that is not being written, with the energies added, MERGED set and the larger demand, and goes to the
tail where the berth holds none but the one being written. An EVENT is handed over with its berth, the number of the
berth's open session or 0, and the station time. That energies add modulo 2^32 is the model's choice (log 23). -/
def Obligations.QueueAdmitsByClass : Prop :=
  (∀ (b : Berth) (x : Record) (l : List Record),
    billingHeld [] b = 0 ∧ eventsHeld [] = 0 ∧ metrologyHeld [] = 0 ∧
    billingHeld (x :: l) b = billingHeld l b + (if x.isBilling b = true then 1 else 0) ∧
    eventsHeld (x :: l) = eventsHeld l + (if x.isEvent = true then 1 else 0) ∧
    metrologyHeld (x :: l) = metrologyHeld l + (if x.isMetrology = true then 1 else 0) ∧
    (x.isBilling b = true ↔ x.berth = some b ∧
      ((∃ ws, x.body = .sessionOpen ws ∨ x.body = .sessionClose ws) ∨ ∃ i, x.body = .interval i)) ∧
    (x.isInterval = true ↔ ∃ i, x.body = .interval i) ∧ (x.isMetrology = true ↔ ∃ ws, x.body = .configChange ws)) ∧
  ∀ (b : Berth) (r : Record) (s : State),
    (billingHeld s.jour.queue b < 3 → admitBilling b r s = { s with jour := { s.jour with queue := s.jour.queue ++ [r] } }) ∧
    (eventsHeld s.jour.queue < 6 → admitEvent r s = { s with jour := { s.jour with queue := s.jour.queue ++ [r] } }) ∧
    (6 ≤ eventsHeld s.jour.queue → admitEvent r s =
      setSummary .eventsLost { s with jour := { s.jour with lost := min (s.jour.lost + 1) 65535 } }) ∧
    (metrologyHeld s.jour.queue = 0 → admitConfig r s =
      { s with jour := { s.jour with queue := s.jour.queue ++ [r] } }) ∧
    (∀ (code : EventCode) (q : Nat) (o : Option Berth) (ws : List Word), emitEvent code q o ws s = admitEvent
      { berth := o, session := ((o.bind fun x => s.sessions.get x).map (·.number)).getD 0, time := s.clock.time
        body := .event code q ws } s) ∧
    ∀ (i : IntervalBody),
      (∀ (x : Record) (post : List Record), s.jour.writing.isSome = true → s.jour.queue = x :: post →
        (∀ y ∈ post, y.isInterval = true → y.berth ≠ some b) → admitInterval b r i s = admitBilling b r s) ∧
      ((∀ x ∈ s.jour.queue, x.isInterval = true → x.berth ≠ some b) →
        admitInterval b r i s = admitBilling b r s) ∧
      (∀ (pre post : List Record) (x : Record) (o : IntervalBody), s.jour.queue = pre ++ x :: post →
        x.body = .interval o → x.berth = some b → (∀ y ∈ post, y.isInterval = true → y.berth ≠ some b) →
        s.jour.writing = none ∨ pre ≠ [] → admitInterval b r i s = { s with jour := { s.jour with
          queue := pre ++ { x with
            time := r.time
            body := .interval
              { flags :=
                  { partialInterval := o.flags.partialInterval || i.flags.partialInterval
                    timeStep := o.flags.timeStep || i.flags.timeStep, gap := o.flags.gap || i.flags.gap
                    merged := true, metrology := o.flags.metrology || i.flags.metrology }
                start := o.start, stop := i.stop
                bands := ⟨o.bands.band0 + i.bands.band0, o.bands.band1 + i.bands.band1,
                  o.bands.band2 + i.bands.band2, o.bands.band3 + i.bands.band3⟩
                bridged := o.bridged + i.bridged, unattributed := o.unattributed + i.unattributed
                demand := if i.demand.toNat ≤ o.demand.toNat then o.demand else i.demand } } :: post } })

/-! ## Invariants -/

/-- Every invariant of the machine holds right after reset. That the breakers are open then, and the form of memory,
are the model's (logs 4 and 9). -/
def Obligations.InvariantsHoldAtReset : Prop :=
  State.reset.MemOk ∧ State.reset.LinesOk ∧ State.reset.QueueOk ∧ State.reset.PassOk ∧ State.reset.ClaimsOk ∧
    State.reset.OscOk ∧ State.reset.ModesOk ∧ State.reset.RetryOk ∧ State.reset.SetpointsOk ∧ State.reset.ArbiterOk ∧
    State.reset.TableOk ∧ State.reset.RingOk ∧ State.reset.IdleOk

/-- Every step keeps the invariants of the bus and the journal: plant memory in its canonical form, at most one
transfer of each master in the chip, the arbiter's order, the window table, the slots of the holding queue, and the ring
with P and C below its length and at most one record less than its length unconsumed. The form of memory is the model's
(log 4). -/
def Obligations.StepsKeepBusAndJournal : Prop :=
  ∀ s t : State, step s = .next t →
    (s.MemOk → t.MemOk) ∧ (s.PassOk → t.PassOk) ∧ (s.ArbiterOk → t.ArbiterOk) ∧ (s.TableOk → t.TableOk) ∧
      (s.QueueOk → t.QueueOk) ∧ (s.RingOk → t.RingOk)

/-- Every step keeps the invariants of the berths: CLOSE and TRIP never together, one claim exactly in WAITING_MODULES, and
with it no module in IDLE or WAITING_MODULES, the oscillators' modes in order, every commanded mode as the module's standing
calls for, a retry wait only in a module that waits, and with it every setpoint within its bound. -/
def Obligations.StepsKeepBerths : Prop :=
  ∀ s t : State, step s = .next t →
    (s.LinesOk → t.LinesOk) ∧ (s.ClaimsOk → t.ClaimsOk) ∧ (s.OscOk → t.OscOk) ∧ (s.ModesOk → t.ModesOk) ∧
      (s.RetryOk → t.RetryOk) ∧ (s.RetryOk → s.SetpointsOk → t.SetpointsOk) ∧
      (s.ClaimsOk → s.IdleOk → t.IdleOk)
end

