-- ==== Sys2Proof/Laws/State.lean ====
section
/-! SUPPORT. One lemma per field per update of the state, each true by rfl, and reading after writing of the per-berth,
per-module and per-tag records. -/

namespace Sys2Proof.Machine

@[simp] theorem PerBerth.get_set_self {α : Type} (p : PerBerth α) (i : Berth) (v : α) : (p.set i v).get i = v := by
  cases i <;> rfl

theorem PerBerth.get_set_ne {α : Type} (p : PerBerth α) (i k : Berth) (v : α) (h : k ≠ i) : (p.set i v).get k = p.get k := by
  cases i <;> cases k <;> first | rfl | exact absurd rfl h

@[simp] theorem PerBerth.get_all {α : Type} (v : α) (i : Berth) : (PerBerth.all v).get i = v := by
  cases i <;> rfl

@[simp] theorem PerModule.get_set_self {α : Type} (p : PerModule α) (i : ModuleId) (v : α) : (p.set i v).get i = v := by
  cases i <;> rfl

theorem PerModule.get_set_ne {α : Type} (p : PerModule α) (i k : ModuleId) (v : α) (h : k ≠ i) : (p.set i v).get k = p.get k := by
  cases i <;> cases k <;> first | rfl | exact absurd rfl h

@[simp] theorem PerModule.get_all {α : Type} (v : α) (i : ModuleId) : (PerModule.all v).get i = v := by
  cases i <;> rfl

@[simp] theorem PerTag.get_set_self {α : Type} (p : PerTag α) (i : Tag) (v : α) : (p.set i v).get i = v := by
  cases i <;> rfl

theorem PerTag.get_set_ne {α : Type} (p : PerTag α) (i k : Tag) (v : α) (h : k ≠ i) : (p.set i v).get k = p.get k := by
  cases i <;> cases k <;> first | rfl | exact absurd rfl h

@[simp] theorem PerTag.get_all {α : Type} (v : α) (i : Tag) : (PerTag.all v).get i = v := by
  cases i <;> rfl

@[simp] theorem PerBerth.get_map {α β : Type} (p : PerBerth α) (f : α → β) (i : Berth) : (p.map f).get i = f (p.get i) := by
  cases i <;> rfl

@[simp] theorem PerModule.get_map {α β : Type} (p : PerModule α) (f : α → β) (i : ModuleId) : (p.map f).get i = f (p.get i) := by
  cases i <;> rfl

/-! ## updMod -/

@[simp] theorem State.updMod_now (s : State) (m : ModuleId) (f : Module → Module) : (s.updMod m f).now = s.now := rfl
@[simp] theorem State.updMod_tbPhase (s : State) (m : ModuleId) (f : Module → Module) : (s.updMod m f).tbPhase = s.tbPhase := rfl
@[simp] theorem State.updMod_tbValue (s : State) (m : ModuleId) (f : Module → Module) : (s.updMod m f).tbValue = s.tbValue := rfl
@[simp] theorem State.updMod_resetLow (s : State) (m : ModuleId) (f : Module → Module) : (s.updMod m f).resetLow = s.resetLow := rfl
@[simp] theorem State.updMod_tripHold (s : State) (m : ModuleId) (f : Module → Module) : (s.updMod m f).tripHold = s.tripHold := rfl
@[simp] theorem State.updMod_claims (s : State) (m : ModuleId) (f : Module → Module) : (s.updMod m f).claims = s.claims := rfl
@[simp] theorem State.updMod_prot (s : State) (m : ModuleId) (f : Module → Module) : (s.updMod m f).prot = s.prot := rfl
@[simp] theorem State.updMod_service (s : State) (m : ModuleId) (f : Module → Module) : (s.updMod m f).service = s.service := rfl
@[simp] theorem State.updMod_params (s : State) (m : ModuleId) (f : Module → Module) : (s.updMod m f).params = s.params := rfl
@[simp] theorem State.updMod_pendingParams (s : State) (m : ModuleId) (f : Module → Module) : (s.updMod m f).pendingParams = s.pendingParams := rfl
@[simp] theorem State.updMod_osc (s : State) (m : ModuleId) (f : Module → Module) : (s.updMod m f).osc = s.osc := rfl
@[simp] theorem State.updMod_meas (s : State) (m : ModuleId) (f : Module → Module) : (s.updMod m f).meas = s.meas := rfl
@[simp] theorem State.updMod_sync (s : State) (m : ModuleId) (f : Module → Module) : (s.updMod m f).sync = s.sync := rfl
@[simp] theorem State.updMod_seq (s : State) (m : ModuleId) (f : Module → Module) : (s.updMod m f).seq = s.seq := rfl
@[simp] theorem State.updMod_clock (s : State) (m : ModuleId) (f : Module → Module) : (s.updMod m f).clock = s.clock := rfl
@[simp] theorem State.updMod_sessions (s : State) (m : ModuleId) (f : Module → Module) : (s.updMod m f).sessions = s.sessions := rfl
@[simp] theorem State.updMod_sessionCounter (s : State) (m : ModuleId) (f : Module → Module) : (s.updMod m f).sessionCounter = s.sessionCounter := rfl
@[simp] theorem State.updMod_carried (s : State) (m : ModuleId) (f : Module → Module) : (s.updMod m f).carried = s.carried := rfl
@[simp] theorem State.updMod_jour (s : State) (m : ModuleId) (f : Module → Module) : (s.updMod m f).jour = s.jour := rfl
@[simp] theorem State.updMod_bus (s : State) (m : ModuleId) (f : Module → Module) : (s.updMod m f).bus = s.bus := rfl
@[simp] theorem State.updMod_page (s : State) (m : ModuleId) (f : Module → Module) : (s.updMod m f).page = s.page := rfl
@[simp] theorem State.updMod_pending (s : State) (m : ModuleId) (f : Module → Module) : (s.updMod m f).pending = s.pending := rfl

@[simp] theorem State.updMod_self (s : State) (m : ModuleId) (f : Module → Module) : (s.updMod m f).mods.get m = f (s.mods.get m) :=
  PerModule.get_set_self _ _ _

theorem State.updMod_other (s : State) (m : ModuleId) (f : Module → Module) (k : ModuleId) (h : k ≠ m) :
    (s.updMod m f).mods.get k = s.mods.get k :=
  PerModule.get_set_ne _ _ _ _ h

/-! ## updOsc -/

@[simp] theorem State.updOsc_now (s : State) (b : Berth) (f : Osc → Osc) : (s.updOsc b f).now = s.now := rfl
@[simp] theorem State.updOsc_tbPhase (s : State) (b : Berth) (f : Osc → Osc) : (s.updOsc b f).tbPhase = s.tbPhase := rfl
@[simp] theorem State.updOsc_tbValue (s : State) (b : Berth) (f : Osc → Osc) : (s.updOsc b f).tbValue = s.tbValue := rfl
@[simp] theorem State.updOsc_resetLow (s : State) (b : Berth) (f : Osc → Osc) : (s.updOsc b f).resetLow = s.resetLow := rfl
@[simp] theorem State.updOsc_tripHold (s : State) (b : Berth) (f : Osc → Osc) : (s.updOsc b f).tripHold = s.tripHold := rfl
@[simp] theorem State.updOsc_mods (s : State) (b : Berth) (f : Osc → Osc) : (s.updOsc b f).mods = s.mods := rfl
@[simp] theorem State.updOsc_claims (s : State) (b : Berth) (f : Osc → Osc) : (s.updOsc b f).claims = s.claims := rfl
@[simp] theorem State.updOsc_prot (s : State) (b : Berth) (f : Osc → Osc) : (s.updOsc b f).prot = s.prot := rfl
@[simp] theorem State.updOsc_service (s : State) (b : Berth) (f : Osc → Osc) : (s.updOsc b f).service = s.service := rfl
@[simp] theorem State.updOsc_params (s : State) (b : Berth) (f : Osc → Osc) : (s.updOsc b f).params = s.params := rfl
@[simp] theorem State.updOsc_pendingParams (s : State) (b : Berth) (f : Osc → Osc) : (s.updOsc b f).pendingParams = s.pendingParams := rfl
@[simp] theorem State.updOsc_meas (s : State) (b : Berth) (f : Osc → Osc) : (s.updOsc b f).meas = s.meas := rfl
@[simp] theorem State.updOsc_sync (s : State) (b : Berth) (f : Osc → Osc) : (s.updOsc b f).sync = s.sync := rfl
@[simp] theorem State.updOsc_seq (s : State) (b : Berth) (f : Osc → Osc) : (s.updOsc b f).seq = s.seq := rfl
@[simp] theorem State.updOsc_clock (s : State) (b : Berth) (f : Osc → Osc) : (s.updOsc b f).clock = s.clock := rfl
@[simp] theorem State.updOsc_sessions (s : State) (b : Berth) (f : Osc → Osc) : (s.updOsc b f).sessions = s.sessions := rfl
@[simp] theorem State.updOsc_sessionCounter (s : State) (b : Berth) (f : Osc → Osc) : (s.updOsc b f).sessionCounter = s.sessionCounter := rfl
@[simp] theorem State.updOsc_carried (s : State) (b : Berth) (f : Osc → Osc) : (s.updOsc b f).carried = s.carried := rfl
@[simp] theorem State.updOsc_jour (s : State) (b : Berth) (f : Osc → Osc) : (s.updOsc b f).jour = s.jour := rfl
@[simp] theorem State.updOsc_bus (s : State) (b : Berth) (f : Osc → Osc) : (s.updOsc b f).bus = s.bus := rfl
@[simp] theorem State.updOsc_page (s : State) (b : Berth) (f : Osc → Osc) : (s.updOsc b f).page = s.page := rfl
@[simp] theorem State.updOsc_pending (s : State) (b : Berth) (f : Osc → Osc) : (s.updOsc b f).pending = s.pending := rfl

@[simp] theorem State.updOsc_self (s : State) (b : Berth) (f : Osc → Osc) : (s.updOsc b f).osc.get b = f (s.osc.get b) :=
  PerBerth.get_set_self _ _ _

theorem State.updOsc_other (s : State) (b : Berth) (f : Osc → Osc) (k : Berth) (h : k ≠ b) :
    (s.updOsc b f).osc.get k = s.osc.get k :=
  PerBerth.get_set_ne _ _ _ _ h

/-! ## updMeas -/

@[simp] theorem State.updMeas_now (s : State) (b : Berth) (f : Meas → Meas) : (s.updMeas b f).now = s.now := rfl
@[simp] theorem State.updMeas_tbPhase (s : State) (b : Berth) (f : Meas → Meas) : (s.updMeas b f).tbPhase = s.tbPhase := rfl
@[simp] theorem State.updMeas_tbValue (s : State) (b : Berth) (f : Meas → Meas) : (s.updMeas b f).tbValue = s.tbValue := rfl
@[simp] theorem State.updMeas_resetLow (s : State) (b : Berth) (f : Meas → Meas) : (s.updMeas b f).resetLow = s.resetLow := rfl
@[simp] theorem State.updMeas_tripHold (s : State) (b : Berth) (f : Meas → Meas) : (s.updMeas b f).tripHold = s.tripHold := rfl
@[simp] theorem State.updMeas_mods (s : State) (b : Berth) (f : Meas → Meas) : (s.updMeas b f).mods = s.mods := rfl
@[simp] theorem State.updMeas_claims (s : State) (b : Berth) (f : Meas → Meas) : (s.updMeas b f).claims = s.claims := rfl
@[simp] theorem State.updMeas_prot (s : State) (b : Berth) (f : Meas → Meas) : (s.updMeas b f).prot = s.prot := rfl
@[simp] theorem State.updMeas_service (s : State) (b : Berth) (f : Meas → Meas) : (s.updMeas b f).service = s.service := rfl
@[simp] theorem State.updMeas_params (s : State) (b : Berth) (f : Meas → Meas) : (s.updMeas b f).params = s.params := rfl
@[simp] theorem State.updMeas_pendingParams (s : State) (b : Berth) (f : Meas → Meas) : (s.updMeas b f).pendingParams = s.pendingParams := rfl
@[simp] theorem State.updMeas_osc (s : State) (b : Berth) (f : Meas → Meas) : (s.updMeas b f).osc = s.osc := rfl
@[simp] theorem State.updMeas_sync (s : State) (b : Berth) (f : Meas → Meas) : (s.updMeas b f).sync = s.sync := rfl
@[simp] theorem State.updMeas_seq (s : State) (b : Berth) (f : Meas → Meas) : (s.updMeas b f).seq = s.seq := rfl
@[simp] theorem State.updMeas_clock (s : State) (b : Berth) (f : Meas → Meas) : (s.updMeas b f).clock = s.clock := rfl
@[simp] theorem State.updMeas_sessions (s : State) (b : Berth) (f : Meas → Meas) : (s.updMeas b f).sessions = s.sessions := rfl
@[simp] theorem State.updMeas_sessionCounter (s : State) (b : Berth) (f : Meas → Meas) : (s.updMeas b f).sessionCounter = s.sessionCounter := rfl
@[simp] theorem State.updMeas_carried (s : State) (b : Berth) (f : Meas → Meas) : (s.updMeas b f).carried = s.carried := rfl
@[simp] theorem State.updMeas_jour (s : State) (b : Berth) (f : Meas → Meas) : (s.updMeas b f).jour = s.jour := rfl
@[simp] theorem State.updMeas_bus (s : State) (b : Berth) (f : Meas → Meas) : (s.updMeas b f).bus = s.bus := rfl
@[simp] theorem State.updMeas_page (s : State) (b : Berth) (f : Meas → Meas) : (s.updMeas b f).page = s.page := rfl
@[simp] theorem State.updMeas_pending (s : State) (b : Berth) (f : Meas → Meas) : (s.updMeas b f).pending = s.pending := rfl

@[simp] theorem State.updMeas_self (s : State) (b : Berth) (f : Meas → Meas) : (s.updMeas b f).meas.get b = f (s.meas.get b) :=
  PerBerth.get_set_self _ _ _

theorem State.updMeas_other (s : State) (b : Berth) (f : Meas → Meas) (k : Berth) (h : k ≠ b) :
    (s.updMeas b f).meas.get k = s.meas.get k :=
  PerBerth.get_set_ne _ _ _ _ h

/-! ## updSync -/

@[simp] theorem State.updSync_now (s : State) (b : Berth) (f : Sync → Sync) : (s.updSync b f).now = s.now := rfl
@[simp] theorem State.updSync_tbPhase (s : State) (b : Berth) (f : Sync → Sync) : (s.updSync b f).tbPhase = s.tbPhase := rfl
@[simp] theorem State.updSync_tbValue (s : State) (b : Berth) (f : Sync → Sync) : (s.updSync b f).tbValue = s.tbValue := rfl
@[simp] theorem State.updSync_resetLow (s : State) (b : Berth) (f : Sync → Sync) : (s.updSync b f).resetLow = s.resetLow := rfl
@[simp] theorem State.updSync_tripHold (s : State) (b : Berth) (f : Sync → Sync) : (s.updSync b f).tripHold = s.tripHold := rfl
@[simp] theorem State.updSync_mods (s : State) (b : Berth) (f : Sync → Sync) : (s.updSync b f).mods = s.mods := rfl
@[simp] theorem State.updSync_claims (s : State) (b : Berth) (f : Sync → Sync) : (s.updSync b f).claims = s.claims := rfl
@[simp] theorem State.updSync_prot (s : State) (b : Berth) (f : Sync → Sync) : (s.updSync b f).prot = s.prot := rfl
@[simp] theorem State.updSync_service (s : State) (b : Berth) (f : Sync → Sync) : (s.updSync b f).service = s.service := rfl
@[simp] theorem State.updSync_params (s : State) (b : Berth) (f : Sync → Sync) : (s.updSync b f).params = s.params := rfl
@[simp] theorem State.updSync_pendingParams (s : State) (b : Berth) (f : Sync → Sync) : (s.updSync b f).pendingParams = s.pendingParams := rfl
@[simp] theorem State.updSync_osc (s : State) (b : Berth) (f : Sync → Sync) : (s.updSync b f).osc = s.osc := rfl
@[simp] theorem State.updSync_meas (s : State) (b : Berth) (f : Sync → Sync) : (s.updSync b f).meas = s.meas := rfl
@[simp] theorem State.updSync_seq (s : State) (b : Berth) (f : Sync → Sync) : (s.updSync b f).seq = s.seq := rfl
@[simp] theorem State.updSync_clock (s : State) (b : Berth) (f : Sync → Sync) : (s.updSync b f).clock = s.clock := rfl
@[simp] theorem State.updSync_sessions (s : State) (b : Berth) (f : Sync → Sync) : (s.updSync b f).sessions = s.sessions := rfl
@[simp] theorem State.updSync_sessionCounter (s : State) (b : Berth) (f : Sync → Sync) : (s.updSync b f).sessionCounter = s.sessionCounter := rfl
@[simp] theorem State.updSync_carried (s : State) (b : Berth) (f : Sync → Sync) : (s.updSync b f).carried = s.carried := rfl
@[simp] theorem State.updSync_jour (s : State) (b : Berth) (f : Sync → Sync) : (s.updSync b f).jour = s.jour := rfl
@[simp] theorem State.updSync_bus (s : State) (b : Berth) (f : Sync → Sync) : (s.updSync b f).bus = s.bus := rfl
@[simp] theorem State.updSync_page (s : State) (b : Berth) (f : Sync → Sync) : (s.updSync b f).page = s.page := rfl
@[simp] theorem State.updSync_pending (s : State) (b : Berth) (f : Sync → Sync) : (s.updSync b f).pending = s.pending := rfl

@[simp] theorem State.updSync_self (s : State) (b : Berth) (f : Sync → Sync) : (s.updSync b f).sync.get b = f (s.sync.get b) :=
  PerBerth.get_set_self _ _ _

theorem State.updSync_other (s : State) (b : Berth) (f : Sync → Sync) (k : Berth) (h : k ≠ b) :
    (s.updSync b f).sync.get k = s.sync.get k :=
  PerBerth.get_set_ne _ _ _ _ h

/-! ## updSeq -/

@[simp] theorem State.updSeq_now (s : State) (b : Berth) (f : Seq → Seq) : (s.updSeq b f).now = s.now := rfl
@[simp] theorem State.updSeq_tbPhase (s : State) (b : Berth) (f : Seq → Seq) : (s.updSeq b f).tbPhase = s.tbPhase := rfl
@[simp] theorem State.updSeq_tbValue (s : State) (b : Berth) (f : Seq → Seq) : (s.updSeq b f).tbValue = s.tbValue := rfl
@[simp] theorem State.updSeq_resetLow (s : State) (b : Berth) (f : Seq → Seq) : (s.updSeq b f).resetLow = s.resetLow := rfl
@[simp] theorem State.updSeq_tripHold (s : State) (b : Berth) (f : Seq → Seq) : (s.updSeq b f).tripHold = s.tripHold := rfl
@[simp] theorem State.updSeq_mods (s : State) (b : Berth) (f : Seq → Seq) : (s.updSeq b f).mods = s.mods := rfl
@[simp] theorem State.updSeq_claims (s : State) (b : Berth) (f : Seq → Seq) : (s.updSeq b f).claims = s.claims := rfl
@[simp] theorem State.updSeq_prot (s : State) (b : Berth) (f : Seq → Seq) : (s.updSeq b f).prot = s.prot := rfl
@[simp] theorem State.updSeq_service (s : State) (b : Berth) (f : Seq → Seq) : (s.updSeq b f).service = s.service := rfl
@[simp] theorem State.updSeq_params (s : State) (b : Berth) (f : Seq → Seq) : (s.updSeq b f).params = s.params := rfl
@[simp] theorem State.updSeq_pendingParams (s : State) (b : Berth) (f : Seq → Seq) : (s.updSeq b f).pendingParams = s.pendingParams := rfl
@[simp] theorem State.updSeq_osc (s : State) (b : Berth) (f : Seq → Seq) : (s.updSeq b f).osc = s.osc := rfl
@[simp] theorem State.updSeq_meas (s : State) (b : Berth) (f : Seq → Seq) : (s.updSeq b f).meas = s.meas := rfl
@[simp] theorem State.updSeq_sync (s : State) (b : Berth) (f : Seq → Seq) : (s.updSeq b f).sync = s.sync := rfl
@[simp] theorem State.updSeq_clock (s : State) (b : Berth) (f : Seq → Seq) : (s.updSeq b f).clock = s.clock := rfl
@[simp] theorem State.updSeq_sessions (s : State) (b : Berth) (f : Seq → Seq) : (s.updSeq b f).sessions = s.sessions := rfl
@[simp] theorem State.updSeq_sessionCounter (s : State) (b : Berth) (f : Seq → Seq) : (s.updSeq b f).sessionCounter = s.sessionCounter := rfl
@[simp] theorem State.updSeq_carried (s : State) (b : Berth) (f : Seq → Seq) : (s.updSeq b f).carried = s.carried := rfl
@[simp] theorem State.updSeq_jour (s : State) (b : Berth) (f : Seq → Seq) : (s.updSeq b f).jour = s.jour := rfl
@[simp] theorem State.updSeq_bus (s : State) (b : Berth) (f : Seq → Seq) : (s.updSeq b f).bus = s.bus := rfl
@[simp] theorem State.updSeq_page (s : State) (b : Berth) (f : Seq → Seq) : (s.updSeq b f).page = s.page := rfl
@[simp] theorem State.updSeq_pending (s : State) (b : Berth) (f : Seq → Seq) : (s.updSeq b f).pending = s.pending := rfl

@[simp] theorem State.updSeq_self (s : State) (b : Berth) (f : Seq → Seq) : (s.updSeq b f).seq.get b = f (s.seq.get b) :=
  PerBerth.get_set_self _ _ _

theorem State.updSeq_other (s : State) (b : Berth) (f : Seq → Seq) (k : Berth) (h : k ≠ b) :
    (s.updSeq b f).seq.get k = s.seq.get k :=
  PerBerth.get_set_ne _ _ _ _ h

/-! ## setSession -/

@[simp] theorem State.setSession_now (s : State) (b : Berth) (x : Option Session) : (s.setSession b x).now = s.now := rfl
@[simp] theorem State.setSession_tbPhase (s : State) (b : Berth) (x : Option Session) : (s.setSession b x).tbPhase = s.tbPhase := rfl
@[simp] theorem State.setSession_tbValue (s : State) (b : Berth) (x : Option Session) : (s.setSession b x).tbValue = s.tbValue := rfl
@[simp] theorem State.setSession_resetLow (s : State) (b : Berth) (x : Option Session) : (s.setSession b x).resetLow = s.resetLow := rfl
@[simp] theorem State.setSession_tripHold (s : State) (b : Berth) (x : Option Session) : (s.setSession b x).tripHold = s.tripHold := rfl
@[simp] theorem State.setSession_mods (s : State) (b : Berth) (x : Option Session) : (s.setSession b x).mods = s.mods := rfl
@[simp] theorem State.setSession_claims (s : State) (b : Berth) (x : Option Session) : (s.setSession b x).claims = s.claims := rfl
@[simp] theorem State.setSession_prot (s : State) (b : Berth) (x : Option Session) : (s.setSession b x).prot = s.prot := rfl
@[simp] theorem State.setSession_service (s : State) (b : Berth) (x : Option Session) : (s.setSession b x).service = s.service := rfl
@[simp] theorem State.setSession_params (s : State) (b : Berth) (x : Option Session) : (s.setSession b x).params = s.params := rfl
@[simp] theorem State.setSession_pendingParams (s : State) (b : Berth) (x : Option Session) : (s.setSession b x).pendingParams = s.pendingParams := rfl
@[simp] theorem State.setSession_osc (s : State) (b : Berth) (x : Option Session) : (s.setSession b x).osc = s.osc := rfl
@[simp] theorem State.setSession_meas (s : State) (b : Berth) (x : Option Session) : (s.setSession b x).meas = s.meas := rfl
@[simp] theorem State.setSession_sync (s : State) (b : Berth) (x : Option Session) : (s.setSession b x).sync = s.sync := rfl
@[simp] theorem State.setSession_seq (s : State) (b : Berth) (x : Option Session) : (s.setSession b x).seq = s.seq := rfl
@[simp] theorem State.setSession_clock (s : State) (b : Berth) (x : Option Session) : (s.setSession b x).clock = s.clock := rfl
@[simp] theorem State.setSession_sessionCounter (s : State) (b : Berth) (x : Option Session) : (s.setSession b x).sessionCounter = s.sessionCounter := rfl
@[simp] theorem State.setSession_carried (s : State) (b : Berth) (x : Option Session) : (s.setSession b x).carried = s.carried := rfl
@[simp] theorem State.setSession_jour (s : State) (b : Berth) (x : Option Session) : (s.setSession b x).jour = s.jour := rfl
@[simp] theorem State.setSession_bus (s : State) (b : Berth) (x : Option Session) : (s.setSession b x).bus = s.bus := rfl
@[simp] theorem State.setSession_page (s : State) (b : Berth) (x : Option Session) : (s.setSession b x).page = s.page := rfl
@[simp] theorem State.setSession_pending (s : State) (b : Berth) (x : Option Session) : (s.setSession b x).pending = s.pending := rfl

/-! ## updSession -/

@[simp] theorem State.updSession_now (s : State) (b : Berth) (f : Session → Session) : (s.updSession b f).now = s.now := rfl
@[simp] theorem State.updSession_tbPhase (s : State) (b : Berth) (f : Session → Session) : (s.updSession b f).tbPhase = s.tbPhase := rfl
@[simp] theorem State.updSession_tbValue (s : State) (b : Berth) (f : Session → Session) : (s.updSession b f).tbValue = s.tbValue := rfl
@[simp] theorem State.updSession_resetLow (s : State) (b : Berth) (f : Session → Session) : (s.updSession b f).resetLow = s.resetLow := rfl
@[simp] theorem State.updSession_tripHold (s : State) (b : Berth) (f : Session → Session) : (s.updSession b f).tripHold = s.tripHold := rfl
@[simp] theorem State.updSession_mods (s : State) (b : Berth) (f : Session → Session) : (s.updSession b f).mods = s.mods := rfl
@[simp] theorem State.updSession_claims (s : State) (b : Berth) (f : Session → Session) : (s.updSession b f).claims = s.claims := rfl
@[simp] theorem State.updSession_prot (s : State) (b : Berth) (f : Session → Session) : (s.updSession b f).prot = s.prot := rfl
@[simp] theorem State.updSession_service (s : State) (b : Berth) (f : Session → Session) : (s.updSession b f).service = s.service := rfl
@[simp] theorem State.updSession_params (s : State) (b : Berth) (f : Session → Session) : (s.updSession b f).params = s.params := rfl
@[simp] theorem State.updSession_pendingParams (s : State) (b : Berth) (f : Session → Session) : (s.updSession b f).pendingParams = s.pendingParams := rfl
@[simp] theorem State.updSession_osc (s : State) (b : Berth) (f : Session → Session) : (s.updSession b f).osc = s.osc := rfl
@[simp] theorem State.updSession_meas (s : State) (b : Berth) (f : Session → Session) : (s.updSession b f).meas = s.meas := rfl
@[simp] theorem State.updSession_sync (s : State) (b : Berth) (f : Session → Session) : (s.updSession b f).sync = s.sync := rfl
@[simp] theorem State.updSession_seq (s : State) (b : Berth) (f : Session → Session) : (s.updSession b f).seq = s.seq := rfl
@[simp] theorem State.updSession_clock (s : State) (b : Berth) (f : Session → Session) : (s.updSession b f).clock = s.clock := rfl
@[simp] theorem State.updSession_sessionCounter (s : State) (b : Berth) (f : Session → Session) : (s.updSession b f).sessionCounter = s.sessionCounter := rfl
@[simp] theorem State.updSession_carried (s : State) (b : Berth) (f : Session → Session) : (s.updSession b f).carried = s.carried := rfl
@[simp] theorem State.updSession_jour (s : State) (b : Berth) (f : Session → Session) : (s.updSession b f).jour = s.jour := rfl
@[simp] theorem State.updSession_bus (s : State) (b : Berth) (f : Session → Session) : (s.updSession b f).bus = s.bus := rfl
@[simp] theorem State.updSession_page (s : State) (b : Berth) (f : Session → Session) : (s.updSession b f).page = s.page := rfl
@[simp] theorem State.updSession_pending (s : State) (b : Berth) (f : Session → Session) : (s.updSession b f).pending = s.pending := rfl

/-! ## withQueue -/

@[simp] theorem State.withQueue_now (s : State) (q : List Record) : (s.withQueue q).now = s.now := rfl
@[simp] theorem State.withQueue_tbPhase (s : State) (q : List Record) : (s.withQueue q).tbPhase = s.tbPhase := rfl
@[simp] theorem State.withQueue_tbValue (s : State) (q : List Record) : (s.withQueue q).tbValue = s.tbValue := rfl
@[simp] theorem State.withQueue_resetLow (s : State) (q : List Record) : (s.withQueue q).resetLow = s.resetLow := rfl
@[simp] theorem State.withQueue_tripHold (s : State) (q : List Record) : (s.withQueue q).tripHold = s.tripHold := rfl
@[simp] theorem State.withQueue_mods (s : State) (q : List Record) : (s.withQueue q).mods = s.mods := rfl
@[simp] theorem State.withQueue_claims (s : State) (q : List Record) : (s.withQueue q).claims = s.claims := rfl
@[simp] theorem State.withQueue_prot (s : State) (q : List Record) : (s.withQueue q).prot = s.prot := rfl
@[simp] theorem State.withQueue_service (s : State) (q : List Record) : (s.withQueue q).service = s.service := rfl
@[simp] theorem State.withQueue_params (s : State) (q : List Record) : (s.withQueue q).params = s.params := rfl
@[simp] theorem State.withQueue_pendingParams (s : State) (q : List Record) : (s.withQueue q).pendingParams = s.pendingParams := rfl
@[simp] theorem State.withQueue_osc (s : State) (q : List Record) : (s.withQueue q).osc = s.osc := rfl
@[simp] theorem State.withQueue_meas (s : State) (q : List Record) : (s.withQueue q).meas = s.meas := rfl
@[simp] theorem State.withQueue_sync (s : State) (q : List Record) : (s.withQueue q).sync = s.sync := rfl
@[simp] theorem State.withQueue_seq (s : State) (q : List Record) : (s.withQueue q).seq = s.seq := rfl
@[simp] theorem State.withQueue_clock (s : State) (q : List Record) : (s.withQueue q).clock = s.clock := rfl
@[simp] theorem State.withQueue_sessions (s : State) (q : List Record) : (s.withQueue q).sessions = s.sessions := rfl
@[simp] theorem State.withQueue_sessionCounter (s : State) (q : List Record) : (s.withQueue q).sessionCounter = s.sessionCounter := rfl
@[simp] theorem State.withQueue_carried (s : State) (q : List Record) : (s.withQueue q).carried = s.carried := rfl
@[simp] theorem State.withQueue_bus (s : State) (q : List Record) : (s.withQueue q).bus = s.bus := rfl
@[simp] theorem State.withQueue_page (s : State) (q : List Record) : (s.withQueue q).page = s.page := rfl
@[simp] theorem State.withQueue_pending (s : State) (q : List Record) : (s.withQueue q).pending = s.pending := rfl

/-! ## setSummary -/

@[simp] theorem setSummary_now (k : SummaryBit) (s : State) : (setSummary k s).now = s.now := rfl
@[simp] theorem setSummary_tbPhase (k : SummaryBit) (s : State) : (setSummary k s).tbPhase = s.tbPhase := rfl
@[simp] theorem setSummary_tbValue (k : SummaryBit) (s : State) : (setSummary k s).tbValue = s.tbValue := rfl
@[simp] theorem setSummary_resetLow (k : SummaryBit) (s : State) : (setSummary k s).resetLow = s.resetLow := rfl
@[simp] theorem setSummary_tripHold (k : SummaryBit) (s : State) : (setSummary k s).tripHold = s.tripHold := rfl
@[simp] theorem setSummary_mods (k : SummaryBit) (s : State) : (setSummary k s).mods = s.mods := rfl
@[simp] theorem setSummary_claims (k : SummaryBit) (s : State) : (setSummary k s).claims = s.claims := rfl
@[simp] theorem setSummary_prot (k : SummaryBit) (s : State) : (setSummary k s).prot = s.prot := rfl
@[simp] theorem setSummary_service (k : SummaryBit) (s : State) : (setSummary k s).service = s.service := rfl
@[simp] theorem setSummary_params (k : SummaryBit) (s : State) : (setSummary k s).params = s.params := rfl
@[simp] theorem setSummary_pendingParams (k : SummaryBit) (s : State) : (setSummary k s).pendingParams = s.pendingParams := rfl
@[simp] theorem setSummary_osc (k : SummaryBit) (s : State) : (setSummary k s).osc = s.osc := rfl
@[simp] theorem setSummary_meas (k : SummaryBit) (s : State) : (setSummary k s).meas = s.meas := rfl
@[simp] theorem setSummary_sync (k : SummaryBit) (s : State) : (setSummary k s).sync = s.sync := rfl
@[simp] theorem setSummary_seq (k : SummaryBit) (s : State) : (setSummary k s).seq = s.seq := rfl
@[simp] theorem setSummary_clock (k : SummaryBit) (s : State) : (setSummary k s).clock = s.clock := rfl
@[simp] theorem setSummary_sessions (k : SummaryBit) (s : State) : (setSummary k s).sessions = s.sessions := rfl
@[simp] theorem setSummary_sessionCounter (k : SummaryBit) (s : State) : (setSummary k s).sessionCounter = s.sessionCounter := rfl
@[simp] theorem setSummary_carried (k : SummaryBit) (s : State) : (setSummary k s).carried = s.carried := rfl
@[simp] theorem setSummary_jour (k : SummaryBit) (s : State) : (setSummary k s).jour = s.jour := rfl
@[simp] theorem setSummary_bus (k : SummaryBit) (s : State) : (setSummary k s).bus = s.bus := rfl
@[simp] theorem setSummary_pending (k : SummaryBit) (s : State) : (setSummary k s).pending = s.pending := rfl

/-- Setting a summary bit sets it. -/
theorem setSummary_bit (k : SummaryBit) (s : State) : (setSummary k s).summaryBit k = true := by
  simp only [State.summaryBit, setSummary, SummaryBit.mask]
  cases k <;> (try rename_i b; cases b) <;> simp [SummaryBit.pos, Berth.num]

/-- A summary bit that is set stays set (R184). -/
theorem setSummary_keeps (k j : SummaryBit) (s : State) (h : s.summaryBit j = true) :
    (setSummary k s).summaryBit j = true := by
  simp only [State.summaryBit, setSummary, BitVec.getLsbD_or] at *
  simp [h]

end Sys2Proof.Machine
end

