-- ==== Sys2Proof/Laws/Memory.lean ====
section
/-! SUPPORT. Plant memory: every write keeps the canonical form, and a word reads as it was last written. -/

namespace Sys2Proof.Machine

/-- A number lies above an optional bound. -/
def above : Option Nat → Nat → Bool
  | none, _ => true
  | some l, a => decide (l < a)

theorem memWfFrom_cons (lo : Option Nat) (a : Nat) (v : Word) (rest : List (Nat × Word)) :
    memWfFrom lo ((a, v) :: rest) = (above lo a && v != Config.memoryUnwritten && memWfFrom (some a) rest) := by
  cases lo <;> rfl

theorem memWfFrom_weaken {lo : Option Nat} {a : Nat} {m : List (Nat × Word)} (h : above lo a = true)
    (k : memWfFrom (some a) m = true) : memWfFrom lo m = true := by
  cases m with
  | nil => rfl
  | cons p rest =>
    obtain ⟨c, v⟩ := p
    rw [memWfFrom_cons] at k ⊢
    simp only [Bool.and_eq_true] at k ⊢
    refine ⟨⟨?_, k.1.2⟩, k.2⟩
    cases lo with
    | none => rfl
    | some l => simp only [above, decide_eq_true_eq] at h k ⊢; omega

theorem memWrite_from (m : List (Nat × Word)) (k : Nat) (v : Word) :
    ∀ lo, memWfFrom lo m = true → above lo k = true → memWfFrom lo (memWrite m k v) = true := by
  induction m with
  | nil =>
    intro lo _ hk
    unfold memWrite
    split
    · rfl
    · rename_i hv
      rw [memWfFrom_cons]; simp [hk, hv, memWfFrom]
  | cons p rest ih =>
    obtain ⟨a, w⟩ := p
    intro lo hm hk
    rw [memWfFrom_cons] at hm
    simp only [Bool.and_eq_true] at hm
    unfold memWrite
    split
    · rename_i e
      split
      · exact memWfFrom_weaken hm.1.1 hm.2
      · rename_i hv
        rw [memWfFrom_cons, e]; simp only [Bool.and_eq_true]
        exact ⟨⟨hm.1.1, by simpa using hv⟩, hm.2⟩
    · split
      · rename_i hlt
        split
        · rw [memWfFrom_cons]; simp only [Bool.and_eq_true]; exact hm
        · rename_i hv
          rw [memWfFrom_cons, memWfFrom_cons]; simp only [Bool.and_eq_true]
          refine ⟨⟨hk, by simpa using hv⟩, ⟨by simpa [above] using hlt, hm.1.2⟩, hm.2⟩
      · rename_i hne hlt
        rw [memWfFrom_cons]; simp only [Bool.and_eq_true]
        refine ⟨hm.1, ih _ hm.2 ?_⟩
        simp only [above, decide_eq_true_eq]; omega

/-- Writing a word keeps the canonical form. -/
theorem memWrite_wf (m : List (Nat × Word)) (k : Nat) (v : Word) (h : memWf m = true) : memWf (memWrite m k v) = true :=
  memWrite_from m k v none h rfl

/-- Writing a burst keeps the canonical form. -/
theorem memWriteBurst_wf (vs : List Word) (m : List (Nat × Word)) (k : Nat) (h : memWf m = true) :
    memWf (memWriteBurst m k vs) = true := by
  induction vs generalizing m k with
  | nil => exact h
  | cons v vs ih => exact ih _ _ (memWrite_wf m k v h)

theorem memRead_below {lo : Option Nat} {m : List (Nat × Word)} {k a : Nat} (h : memWfFrom (some a) m = true)
    (hk : k ≤ a) (_ : above lo a = true) : memRead m k = Config.memoryUnwritten := by
  cases m with
  | nil => rfl
  | cons p rest =>
    obtain ⟨c, v⟩ := p
    rw [memWfFrom_cons] at h
    simp only [Bool.and_eq_true, above, decide_eq_true_eq] at h
    unfold memRead
    rw [if_neg (by omega), if_pos (by omega)]

theorem memRead_write_from (m : List (Nat × Word)) (k j : Nat) (v : Word) :
    ∀ lo, memWfFrom lo m = true → memRead (memWrite m k v) j = if j = k then v else memRead m j := by
  induction m with
  | nil =>
    intro lo _
    by_cases hv : v = Config.memoryUnwritten
    · by_cases hj : j = k <;> simp [memWrite, memRead, hv, hj]
    · by_cases hj : j = k <;> simp [memWrite, memRead, hv, hj]
  | cons p rest ih =>
    obtain ⟨a, w⟩ := p
    intro lo hm
    rw [memWfFrom_cons] at hm
    simp only [Bool.and_eq_true] at hm
    have low : ∀ i, i ≤ a → memRead rest i = Config.memoryUnwritten :=
      fun i hi => memRead_below (lo := none) hm.2 hi rfl
    by_cases e : k = a
    · subst e
      by_cases hv : v = Config.memoryUnwritten
      · simp only [memWrite, if_true, hv]
        by_cases hj : j = k
        · rw [if_pos hj, low j (by omega)]
        · rw [if_neg hj]
          by_cases hl : j < k
          · rw [low j (by omega)]; simp [memRead, hj, hl]
          · simp [memRead, hj, hl]
      · simp only [memWrite, if_true, hv, if_false, memRead]
        by_cases hj : j = k <;> simp [hj]
    · by_cases hlt : k < a
      · by_cases hv : v = Config.memoryUnwritten
        · simp only [memWrite, e, if_false, hlt, if_true, hv]
          by_cases hj : j = k
          · subst hj; simp [memRead, e, hlt]
          · simp [hj]
        · simp only [memWrite, e, if_false, hlt, if_true, hv]
          by_cases hj : j = k
          · simp [memRead, hj]
          · rw [if_neg hj]
            by_cases hl : j < k
            · have h1 : j ≠ a := by omega
              have h2 : j < a := by omega
              simp [memRead, hj, hl, h1, h2]
            · simp [memRead, hj, hl]
      · simp only [memWrite, e, if_false, hlt, memRead]
        by_cases hj : j = a
        · have h1 : j ≠ k := by omega
          simp [hj, Ne.symm e]
        · by_cases hl : j < a
          · have h1 : j ≠ k := by omega
            simp [hj, hl, h1]
          · simp only [hj, hl, if_false]
            exact ih _ hm.2

/-- A word reads as it was written, and every other word as before. -/
theorem memRead_write (m : List (Nat × Word)) (k j : Nat) (v : Word) (h : memWf m = true) :
    memRead (memWrite m k v) j = if j = k then v else memRead m j := memRead_write_from m k j v none h

/-- Words outside a burst read as before. -/
theorem memRead_burst_outside (vs : List Word) (m : List (Nat × Word)) (k j : Nat) (h : memWf m = true)
    (hj : j < k ∨ k + vs.length ≤ j) : memRead (memWriteBurst m k vs) j = memRead m j := by
  induction vs generalizing m k with
  | nil => rfl
  | cons v vs ih =>
    unfold memWriteBurst
    simp only [List.length_cons] at hj
    rw [ih _ _ (memWrite_wf m k v h) (by omega), memRead_write m k j v h, if_neg (by omega)]

/-- Words of a burst read as the burst wrote them. -/
theorem memRead_burst_inside (vs : List Word) (m : List (Nat × Word)) (k i : Nat) (h : memWf m = true)
    (hi : i < vs.length) : memRead (memWriteBurst m k vs) (k + i) = vs.getD i 0 := by
  induction vs generalizing m k i with
  | nil => exact absurd hi (by simp)
  | cons v vs ih =>
    unfold memWriteBurst
    cases i with
    | zero =>
      rw [memRead_burst_outside vs _ _ _ (memWrite_wf m k v h) (by omega), memRead_write m k _ v h]
      simp
    | succ i =>
      have e := ih (memWrite m k v) (k + 1) i (memWrite_wf m k v h) (by simpa using hi)
      rw [show k + (i + 1) = k + 1 + i by omega, e]
      simp

/-- Memory after reset has the canonical form. -/
theorem memWf_reset : memWf State.reset.bus.mem = true := rfl

end Sys2Proof.Machine
end

