-- ==== Sys2Proof/Laws/Modules.lean ====
section
/-! SUPPORT. What the operations over a berth's modules can do: an operation that runs over all modules acts on each by
itself, and those of a state entry change only commanded modes, shares and blanking. -/

namespace Sys2Proof.Machine

/-! ## Nothing but modules -/

theorem State.ModsOnly.refl (s : State) : s.ModsOnly s := rfl

theorem State.ModsOnly.trans {s t u : State} (h : s.ModsOnly t) (k : t.ModsOnly u) : s.ModsOnly u :=
  Eq.trans k (congrArg (fun x : State => { x with mods := u.mods }) h)

theorem updMod_modsOnly (m : ModuleId) (f : Module → Module) (s : State) : s.ModsOnly (s.updMod m f) := rfl

theorem forModules_modsOnly {f : ModuleId → State → State} (h : ∀ m (s : State), s.ModsOnly (f m s)) (s : State) :
    s.ModsOnly (forModules f s) :=
  ((((((((h .m0 _).trans (h .m1 _)).trans (h .m2 _)).trans (h .m3 _)).trans (h .m4 _)).trans (h .m5 _)).trans
    (h .m6 _)).trans (h .m7 _))

theorem forBerths_modsOnly {f : Berth → State → State} (h : ∀ b (s : State), s.ModsOnly (f b s)) (s : State) :
    s.ModsOnly (forBerths f s) := ((h .b0 _).trans (h .b1 _)).trans (h .b2 _)

/-- An operation that changes each module by a rule of its own, whatever the other modules are, changes each so when it
runs over all of them. -/
theorem forModules_get {f : ModuleId → State → State} {h : State → ModuleId → Module → Module}
    (hf : ∀ m s, f m s = s.updMod m (h s m)) (hm : ∀ s ms, h { s with mods := ms } = h s) (s : State) (m : ModuleId) :
    (forModules f s).mods.get m = h s m (s.mods.get m) := by
  have e : ∀ (t : State) k g, h (t.updMod k g) = h t := fun t k g => hm t _
  simp only [forModules, hf, e]
  cases m <;> rfl

/-! ## Single modules -/

/-- What `refreshMode` makes of a module (R19, R29). -/
def refreshed (s : State) (r : Module) : Module :=
  if r.mode = s.commandedMode r.standing then r
  else { r with mode := s.commandedMode r.standing, blankExpiry := blankedUntil s.now s.prot.blankingMs r.blankExpiry }

theorem PerModule.set_get {α : Type} (p : PerModule α) (m : ModuleId) : p.set m (p.get m) = p := by cases m <;> rfl

theorem PerBerth.set_get {α : Type} (p : PerBerth α) (b : Berth) : p.set b (p.get b) = p := by cases b <;> rfl

theorem PerModule.set_set {α : Type} (p : PerModule α) (m : ModuleId) (v w : α) : (p.set m v).set m w = p.set m w := by
  cases m <;> rfl

theorem PerBerth.set_set {α : Type} (p : PerBerth α) (b : Berth) (v w : α) : (p.set b v).set b w = p.set b w := by
  cases b <;> rfl

theorem State.updMod_id (s : State) (m : ModuleId) (f : Module → Module) (h : f (s.mods.get m) = s.mods.get m) :
    s.updMod m f = s := by
  simp only [State.updMod, h, PerModule.set_get]

theorem State.updMod_updMod (s : State) (m : ModuleId) (f g : Module → Module) :
    (s.updMod m f).updMod m g = s.updMod m fun r => g (f r) := by
  simp only [State.updMod, PerModule.get_set_self, PerModule.set_set]

theorem refreshMode_eq (m : ModuleId) (s : State) : refreshMode m s = s.updMod m (refreshed s) := by
  unfold refreshMode refreshed
  by_cases h' : (s.mods.get m).mode = s.commandedMode (s.mods.get m).standing
  · rw [State.updMod_id] <;> simp [h']
  · simp only [blank, State.updMod, PerModule.get_set_self, PerModule.set_set, h', if_false]

theorem blank_eq (m : ModuleId) (s : State) :
    blank m s = s.updMod m fun r => { r with blankExpiry := blankedUntil s.now s.prot.blankingMs r.blankExpiry } := rfl

/-- What `setShare` makes of a module (R17, R29). -/
def shared (s : State) (x : Int) (r : Module) : Module :=
  if bigStep r.share x r.rating then
    { r with share := x, blankExpiry := blankedUntil s.now s.prot.blankingMs r.blankExpiry }
  else { r with share := x }

theorem setShare_eq (m : ModuleId) (x : Int) (s : State) : setShare m x s = s.updMod m (shared s x) := by
  unfold setShare shared
  cases h : bigStep (s.mods.get m).share x (s.mods.get m).rating
  · simp only [State.updMod, h]; rfl
  · simp only [blank, State.updMod, PerModule.get_set_self, PerModule.set_set, h, if_true]

theorem whenServes_eq {f : ModuleId → State → State} {h : State → ModuleId → Module → Module}
    (hf : ∀ m s, f m s = s.updMod m (h s m)) (b : Berth) (m : ModuleId) (s : State) :
    (if (s.mods.get m).serves b = true then f m s else s) =
      s.updMod m fun r => if r.serves b = true then h s m r else r := by
  split <;> rename_i c
  · rw [hf]; simp only [State.updMod, c, if_true]
  · rw [State.updMod_id]; simp [c]

/-! ## The modules of a state entry -/

/-- Only commanded mode, share and blanking expiry of a module may differ. -/
def Module.SameButDrive (r x : Module) : Prop :=
  x = { r with mode := x.mode, share := x.share, blankExpiry := x.blankExpiry }

theorem Module.SameButDrive.refl (r : Module) : r.SameButDrive r := rfl

theorem Module.SameButDrive.trans {r x y : Module} (h : r.SameButDrive x) (k : x.SameButDrive y) : r.SameButDrive y :=
  Eq.trans k (congrArg (fun z : Module => { z with mode := y.mode, share := y.share, blankExpiry := y.blankExpiry }) h)

/-- Only the drive of the modules that serve berth `b` may differ. -/
structure DriveOnly (b : Berth) (s t : State) : Prop where
  rest : s.ModsOnly t
  drive : ∀ m, (s.mods.get m).SameButDrive (t.mods.get m)
  other : ∀ m, (s.mods.get m).serves b = false → t.mods.get m = s.mods.get m

theorem DriveOnly.refl (b : Berth) (s : State) : DriveOnly b s s := ⟨rfl, fun _ => rfl, fun _ _ => rfl⟩

theorem Module.SameButDrive.standing {r x : Module} (h : r.SameButDrive x) : x.standing = r.standing :=
  (congrArg Module.standing h :)

theorem Module.SameButDrive.serves {r x : Module} (h : r.SameButDrive x) (b : Berth) : x.serves b = r.serves b := by
  simp only [Module.serves, h.standing]

theorem DriveOnly.trans {b : Berth} {s t u : State} (h : DriveOnly b s t) (k : DriveOnly b t u) : DriveOnly b s u :=
  ⟨h.rest.trans k.rest, fun m => (h.drive m).trans (k.drive m), fun m hm =>
    (k.other m (((h.drive m).serves b).trans hm)).trans (h.other m hm)⟩

theorem forServing_driveOnly {f : ModuleId → State → State} {h : State → ModuleId → Module → Module}
    (hf : ∀ m s, f m s = s.updMod m (h s m)) (hm : ∀ s ms, h { s with mods := ms } = h s)
    (hd : ∀ s m (r : Module), r.SameButDrive (h s m r)) (b : Berth) (s : State) :
    DriveOnly b s (forModules (fun m s => if (s.mods.get m).serves b = true then f m s else s) s) := by
  have hget : ∀ m, (forModules (fun m s => if (s.mods.get m).serves b = true then f m s else s) s).mods.get m =
      if (s.mods.get m).serves b = true then h s m (s.mods.get m) else s.mods.get m :=
    fun m => forModules_get (h := fun s m r => if r.serves b = true then h s m r else r)
      (fun m s => whenServes_eq hf b m s) (fun s ms => by funext m r; rw [hm]) s m
  refine ⟨forModules_modsOnly (fun m s => ?_) s, fun m => ?_, fun m hs => ?_⟩
  · split
    · rw [hf]; rfl
    · exact State.ModsOnly.refl s
  · rw [hget]; split
    · exact hd _ _ _
    · exact Module.SameButDrive.refl _
  · rw [hget, if_neg (by simp [hs])]

theorem refreshed_drive (s : State) (r : Module) : r.SameButDrive (refreshed s r) := by
  unfold refreshed; split <;> rfl

theorem refreshModes_driveOnly (b : Berth) (s : State) : DriveOnly b s (refreshModes b s) :=
  forServing_driveOnly (h := fun s _ r => refreshed s r) refreshMode_eq (fun _ _ => rfl)
    (fun s _ r => refreshed_drive s r) b s

theorem blankBerth_driveOnly (b : Berth) (s : State) : DriveOnly b s (blankBerth b s) :=
  forServing_driveOnly
    (h := fun s _ r => { r with blankExpiry := blankedUntil s.now s.prot.blankingMs r.blankExpiry }) blank_eq
    (fun _ _ => rfl) (fun _ _ _ => rfl) b s

/-- R19: after `refreshModes` the modules that serve the berth have the mode their standing calls for. -/
theorem refreshModes_get (b : Berth) (s : State) (m : ModuleId) :
    (refreshModes b s).mods.get m =
      if (s.mods.get m).serves b = true then refreshed s (s.mods.get m) else s.mods.get m :=
  forModules_get (h := fun s _ r => if r.serves b = true then refreshed s r else r)
    (fun m s => whenServes_eq (h := fun s _ r => refreshed s r) refreshMode_eq b m s)
    (fun _ _ => rfl) s m

/-- The shares of `recomputeShares`, as an operation over the modules alone. -/
def sharesSet (b : Berth) (s : State) : State :=
  forModules (fun m t => if (s.mods.get m).serves b = true then setShare m (s.shareOf b m) t else t) s

theorem recomputeShares_eq (b : Berth) (s : State) :
    recomputeShares b s = (sharesSet b s).updSeq b fun q => { q with sharedKw := q.wholeKw } := rfl

theorem sharesSet_get (b : Berth) (s : State) (m : ModuleId) :
    (sharesSet b s).mods.get m =
      if (s.mods.get m).serves b = true then shared s (s.shareOf b m) (s.mods.get m) else s.mods.get m := by
  have e := forModules_get
    (f := fun m t => if (s.mods.get m).serves b = true then setShare m (s.shareOf b m) t else t)
    (h := fun t m r => if (s.mods.get m).serves b = true then shared t (s.shareOf b m) r else r)
    (fun m t => by
      split <;> rename_i c
      · rw [setShare_eq]
      · rw [State.updMod_id _ _ _ rfl])
    (fun _ _ => rfl) s m
  exact e

theorem shared_drive (s : State) (x : Int) (r : Module) : r.SameButDrive (shared s x r) := by
  unfold shared; split <;> rfl

theorem shared_share (s : State) (x : Int) (r : Module) : (shared s x r).share = x := by
  unfold shared; split <;> rfl

theorem shared_mode (s : State) (x : Int) (r : Module) : (shared s x r).mode = r.mode := by
  unfold shared; split <;> rfl

theorem sharesSet_driveOnly (b : Berth) (s : State) : DriveOnly b s (sharesSet b s) := by
  refine ⟨forModules_modsOnly (fun m t => ?_) s, fun m => ?_, fun m hs => ?_⟩
  · split
    · rw [setShare_eq]; rfl
    · exact State.ModsOnly.refl t
  · rw [sharesSet_get]; split
    · exact shared_drive _ _ _
    · exact Module.SameButDrive.refl _
  · rw [sharesSet_get, if_neg (by simp [hs])]

/-- R17: after `recomputeShares` each module of the berth has its share. -/
theorem recomputeShares_share (b : Berth) (s : State) (m : ModuleId) (h : (s.mods.get m).serves b = true) :
    ((recomputeShares b s).mods.get m).share = s.shareOf b m := by
  rw [recomputeShares_eq, State.updSeq_mods, sharesSet_get, if_pos h, shared_share]

/-! ## Capacities do not see the drive -/

theorem Module.SameButDrive.healthyFor {r x : Module} (h : r.SameButDrive x) (b : Berth) :
    x.healthyFor b = r.healthyFor b := by
  rw [h]; rfl

theorem Module.SameButDrive.standsFor {r x : Module} (h : r.SameButDrive x) (b : Berth) :
    x.standsFor b = r.standsFor b := by
  rw [h]; rfl

theorem Module.SameButDrive.rating {r x : Module} (h : r.SameButDrive x) : x.rating = r.rating :=
  (congrArg Module.rating h :)

theorem sumRatings_congr {s t : State} {p : Module → Bool}
    (h : ∀ m, p (t.mods.get m) = p (s.mods.get m) ∧ (t.mods.get m).rating = (s.mods.get m).rating) :
    t.sumRatings p = s.sumRatings p := by
  simp only [State.sumRatings, ModuleId.list, List.foldl, (h _).1, (h _).2]

theorem healthy_of_drive {s t : State} (h : ∀ m, (s.mods.get m).SameButDrive (t.mods.get m)) (b : Berth) :
    t.healthy b = s.healthy b :=
  sumRatings_congr fun m => ⟨(h m).healthyFor b, (h m).rating⟩

theorem standingCap_of_drive {s t : State} (h : ∀ m, (s.mods.get m).SameButDrive (t.mods.get m)) (b : Berth) :
    t.standingCap b = s.standingCap b :=
  sumRatings_congr fun m => ⟨(h m).standsFor b, (h m).rating⟩

end Sys2Proof.Machine
end

