-- ==== Sys2Proof/Laws/Sequencer.lean ====
section
/-! SUPPORT. What entry of a berth to a state can do, said once: the whole next state, but for commanded modes, shares
and blanking expiries of the berth's modules. -/

namespace Sys2Proof.Machine

/-! ## Module tables that differ in the drive of one berth's modules -/

/-- Only the drive of the modules that serve berth `b` may differ between two module tables. -/
def Driven (b : Berth) (old new : PerModule Module) : Prop :=
  (∀ m, (old.get m).SameButDrive (new.get m)) ∧ ∀ m, (old.get m).serves b = false → new.get m = old.get m

theorem Driven.refl (b : Berth) (ms : PerModule Module) : Driven b ms ms := ⟨fun _ => rfl, fun _ _ => rfl⟩

theorem Driven.trans {b : Berth} {x y z : PerModule Module} (h : Driven b x y) (k : Driven b y z) : Driven b x z :=
  ⟨fun m => (h.1 m).trans (k.1 m), fun m hm => (k.2 m (((h.1 m).serves b).trans hm)).trans (h.2 m hm)⟩

theorem DriveOnly.driven {b : Berth} {s t : State} (h : DriveOnly b s t) :
    ∃ ms, Driven b s.mods ms ∧ t = { s with mods := ms } := ⟨t.mods, ⟨h.drive, h.other⟩, h.rest⟩

theorem Driven.healthy {b : Berth} {s t : State} (h : Driven b s.mods t.mods) (c : Berth) :
    t.healthy c = s.healthy c := healthy_of_drive h.1 c

theorem Driven.overloaded {b : Berth} {s t : State} (h : Driven b s.mods t.mods) (hm : t.meas = s.meas) (c : Berth) :
    t.overloaded c = s.overloaded c := by
  simp only [State.overloaded, State.feederPower, hm, h.healthy c]

/-! ## Steps of a state entry -/

/-- R98: the context with the ramp direction it calls for. -/
def Seq.directed (q : Seq) : Seq := { q with dir := q.wantDir }

theorem Seq.directed_id (q : Seq) (h : q.dir = q.wantDir) : q.directed = q := by
  unfold Seq.directed; rw [← h]

theorem refreshDirection_spec (b : Berth) (s : State) :
    ∃ ms, Driven b s.mods ms ∧
      refreshDirection b s = { s with mods := ms, seq := s.seq.set b (s.seq.get b).directed } := by
  unfold refreshDirection
  split <;> rename_i h
  · exact ⟨s.mods, Driven.refl _ _, by rw [Seq.directed_id _ h, PerBerth.set_get]⟩
  · obtain ⟨ms, h1, h2⟩ := (blankBerth_driveOnly b (s.updSeq b fun q => { q with dir := q.wantDir })).driven
    exact ⟨ms, h1, h2⟩

theorem recomputeShares_spec (b : Berth) (s : State) :
    ∃ ms, Driven b s.mods ms ∧
      recomputeShares b s =
        { s with mods := ms, seq := s.seq.set b { s.seq.get b with sharedKw := (s.seq.get b).wholeKw } } := by
  obtain ⟨ms, h1, h2⟩ := (sharesSet_driveOnly b s).driven
  exact ⟨ms, h1, by rw [recomputeShares_eq, h2]; rfl⟩

/-- R117: the context with the stale feeder hold set where a state entry sets it. -/
def Seq.holding (stale : Bool) (q : Seq) : Seq := { q with staleHold := q.staleHold || (q.state.isParallel && stale) }

theorem holdIfStale_eq (b : Berth) (s : State) :
    holdIfStale b s = { s with seq := s.seq.set b ((s.seq.get b).holding !s.feederFresh b) } := by
  unfold holdIfStale Seq.holding
  by_cases h : ((s.seq.get b).state.isParallel && !s.feederFresh b) = true
  · rw [if_pos h]; simp only [h, Bool.or_true]; rfl
  · rw [if_neg h]; simp only [Bool.not_eq_true] at h; simp only [h, Bool.or_false]; rw [PerBerth.set_get]

/-- R115, R116: both protection timers after an evaluation. -/
def Seq.judged (load back fresh : Bool) (overDur : Nat) (q : Seq) : Seq :=
  { q with
    overload := if q.state.judgesOverload then judgeTimer load fresh overDur q.overload else q.overload
    reverse := if q.state.judgesReverse then judgeTimer back fresh Config.reversePowerUs q.reverse else q.reverse }

theorem judge_eq (b : Berth) (s : State) :
    judge b s = { s with
      seq := s.seq.set b ((s.seq.get b).judged (s.overloaded b) (s.reversed b) (s.feederFresh b)
        (s.prot.overloadMs * Config.msUs)) } := rfl

/-! ## Entry to a state (R98) -/

/-- The berth context after entry to a state. -/
def enteredSeq (b : Berth) (new : BerthState) (s : State) : Seq :=
  let q := (((enterContext (s.params.get b) s.now s.isLost (s.feederPower b) (s.bound b) new (s.seq.get b)).holding
    !s.feederFresh b).directed)
  Seq.judged (s.overloaded b) (s.reversed b) (s.feederFresh b) (s.prot.overloadMs * Config.msUs)
    { q with sharedKw := q.wholeKw }

/-- The Synchronising Unit after entry to a state (R80). -/
def enteredSync (b : Berth) (new : BerthState) (s : State) : Sync :=
  if leavesWatch (s.seq.get b).state new then dropPrediction (s.sync.get b) else s.sync.get b

/-- The oscillator after entry to a state (R44, R46). -/
def enteredOsc (b : Berth) (new : BerthState) (s : State) : Osc :=
  match modeRequest new with
  | none => if new = .idle then Osc.stopped else s.osc.get b
  | some m =>
    if new = .energising ∧ (s.osc.get b).running = false then Osc.start (s.nominalFreq b)
    else Osc.request (s.oscEnv b) m (s.osc.get b)

/-- The sessions after entry to a state (R135). -/
def enteredSessions (b : Berth) (new : BerthState) (s : State) : PerBerth (Option Session) :=
  if (s.seq.get b).state = .shoreOnly ∧ new ≠ .parallelOut then (noteInterruption b s).sessions else s.sessions

theorem enterContext_profile (p : BerthParams) (n : Word) (l : Bool) (w : Option Int) (k : Nat) (new : BerthState)
    (q : Seq) : (enterContext p n l w k new q).profile = q.profile := rfl

theorem oscEnter_eq (b : Berth) (new : BerthState) (s : State) :
    oscEnter b new s = { s with osc := s.osc.set b (enteredOsc b new s) } := by
  unfold oscEnter enteredOsc
  cases modeRequest new with
  | none => by_cases h : new = .idle <;> simp only [h, if_true, if_false, PerBerth.set_get]; rfl
  | some m =>
    by_cases h : new = .energising ∧ (s.osc.get b).running = false <;> simp only [h, if_false] <;> rfl

/-- The state of a berth's entry after its own records have been set (R98). -/
def enteredMid (b : Berth) (new : BerthState) (s : State) : State :=
  { s with
    sessions := enteredSessions b new s, sync := s.sync.set b (enteredSync b new s)
    osc := s.osc.set b (enteredOsc b new s)
    seq := s.seq.set b
      (enterContext (s.params.get b) s.now s.isLost (s.feederPower b) (s.bound b) new (s.seq.get b)) }

theorem entered_early (b : Berth) (new : BerthState) (s : State) :
    (if leavesWatch (s.seq.get b).state new = true then
        (if (s.seq.get b).state = .shoreOnly ∧ new ≠ .parallelOut then noteInterruption b s else s).updSync b
          dropPrediction
      else if (s.seq.get b).state = .shoreOnly ∧ new ≠ .parallelOut then noteInterruption b s else s) =
      { s with sessions := enteredSessions b new s, sync := s.sync.set b (enteredSync b new s) } := by
  unfold enteredSessions enteredSync
  by_cases h : (s.seq.get b).state = .shoreOnly ∧ new ≠ .parallelOut <;>
    by_cases k : leavesWatch (s.seq.get b).state new = true
  · rw [if_pos h, if_pos k, if_pos h, if_pos k]; rfl
  · rw [if_pos h, if_neg k, if_pos h, if_neg k, PerBerth.set_get]; rfl
  · rw [if_neg h, if_pos k, if_neg h, if_pos k]; rfl
  · rw [if_neg h, if_neg k, if_neg h, if_neg k, PerBerth.set_get]

theorem enterState_mid (b : Berth) (new : BerthState) (s : State) :
    enterState b new s =
      judge b (recomputeShares b (refreshDirection b (holdIfStale b (refreshModes b (enteredMid b new s))))) := by
  unfold enterState
  simp only [entered_early]
  have e : ∀ x : State, x.osc = s.osc → x.meas = s.meas → x.params = s.params → x.now = s.now →
      (x.seq.get b).profile = (s.seq.get b).profile → enteredOsc b new x = enteredOsc b new s := by
    intro x h1 h2 h3 h4 h5
    simp only [enteredOsc, State.oscEnv, State.nominalFreq, State.shipFresh, h1, h2, h3, h4, h5]
    rfl
  rw [oscEnter_eq, e]
  · rfl
  · rfl
  · rfl
  · rfl
  · rfl
  · simp only [State.updSeq_self]; rfl

/-- What follows the berth's own records at an entry: modes, holds, direction, shares and protection timers. -/
theorem settle_spec (b : Berth) (x : State) :
    ∃ ms, Driven b x.mods ms ∧
      judge b (recomputeShares b (refreshDirection b (holdIfStale b (refreshModes b x)))) =
        { x with
          mods := ms
          seq := x.seq.set b
            (Seq.judged (x.overloaded b) (x.reversed b) (x.feederFresh b) (x.prot.overloadMs * Config.msUs)
              { ((x.seq.get b).holding !x.feederFresh b).directed with
                sharedKw := (((x.seq.get b).holding !x.feederFresh b).directed).wholeKw }) } := by
  obtain ⟨m1, d1, e1⟩ := (refreshModes_driveOnly b x).driven
  rw [e1, holdIfStale_eq]
  obtain ⟨m2, d2, e2⟩ := refreshDirection_spec b
    { x with mods := m1, seq := x.seq.set b ((x.seq.get b).holding !State.feederFresh { x with mods := m1 } b) }
  rw [e2]
  simp only [PerBerth.get_set_self, PerBerth.set_set]
  obtain ⟨m3, d3, e3⟩ := recomputeShares_spec b
    { x with
      mods := m2
      seq := x.seq.set b ((x.seq.get b).holding !State.feederFresh { x with mods := m1 } b).directed }
  rw [e3]
  simp only [PerBerth.get_set_self, PerBerth.set_set]
  have d := (d1.trans d2).trans d3
  refine ⟨m3, d, ?_⟩
  have ho : ∀ y : State, y.mods = m3 → y.meas = x.meas → y.overloaded b = x.overloaded b :=
    fun y h1 h2 => Driven.overloaded (by rw [h1]; exact d) h2 b
  rw [judge_eq, ho]
  · simp only [PerBerth.get_set_self, PerBerth.set_set]
    rfl
  · rfl
  · rfl

/-- R98: entry to a state, whole. -/
theorem enterState_spec (b : Berth) (new : BerthState) (s : State) :
    ∃ ms, Driven b s.mods ms ∧
      enterState b new s =
        { s with
          mods := ms, sessions := enteredSessions b new s, sync := s.sync.set b (enteredSync b new s)
          osc := s.osc.set b (enteredOsc b new s), seq := s.seq.set b (enteredSeq b new s) } := by
  rw [enterState_mid]
  obtain ⟨ms, d, e⟩ := settle_spec b (enteredMid b new s)
  refine ⟨ms, d, ?_⟩
  rw [e]
  simp only [enteredMid, PerBerth.get_set_self, PerBerth.set_set]
  rfl

end Sys2Proof.Machine
end

