-- ==== Sys2Proof/Laws/Frames.lean ====
section
/-! SUPPORT. Frames: the operations of one berth change only what belongs to it, and those of the pool leave the station
as it was. -/

namespace Sys2Proof.Machine

/-! ## The two relations -/

theorem State.SameStation.refl (s : State) : s.SameStation s := by constructor <;> rfl

theorem State.SameStation.trans {s t u : State} (h : s.SameStation t) (k : t.SameStation u) : s.SameStation u where
  now := k.now.trans h.now
  tbPhase := k.tbPhase.trans h.tbPhase
  tbValue := k.tbValue.trans h.tbValue
  resetLow := k.resetLow.trans h.resetLow
  tripHold := k.tripHold.trans h.tripHold
  prot := k.prot.trans h.prot
  service := k.service.trans h.service
  clock := k.clock.trans h.clock
  carried := k.carried.trans h.carried
  bus := k.bus.trans h.bus
  pending := k.pending.trans h.pending
  page := k.page.trans (congrArg (fun x : Page => { x with summary := u.page.summary }) h.page)
  jour := k.jour.trans (congrArg (fun x : Journal => { x with queue := u.jour.queue, lost := u.jour.lost }) h.jour)

theorem State.ModsOnly.same {s t : State} (h : s.ModsOnly t) : s.SameStation t := by
  rw [h]; constructor <;> rfl

theorem State.OnlyBerth.refl (b : Berth) (s : State) : s.OnlyBerth b s where
  toSameStation := State.SameStation.refl s
  claims := rfl
  params := rfl
  pendingParams := rfl
  counter := rfl
  osc _ _ := rfl
  meas _ _ := rfl
  sync _ _ := rfl
  seq _ _ := rfl
  sessions _ _ := rfl
  mods _ _ := rfl

theorem State.OnlyBerth.trans {b : Berth} {s t u : State} (h : s.OnlyBerth b t) (k : t.OnlyBerth b u) :
    s.OnlyBerth b u where
  toSameStation := h.toSameStation.trans k.toSameStation
  claims := k.claims.trans h.claims
  params := k.params.trans h.params
  pendingParams := k.pendingParams.trans h.pendingParams
  counter := k.counter.trans h.counter
  osc c hc := (k.osc c hc).trans (h.osc c hc)
  meas c hc := (k.meas c hc).trans (h.meas c hc)
  sync c hc := (k.sync c hc).trans (h.sync c hc)
  seq c hc := (k.seq c hc).trans (h.seq c hc)
  sessions c hc := (k.sessions c hc).trans (h.sessions c hc)
  mods m hm := by
    have e := h.mods m hm
    exact (k.mods m (by rw [e]; exact hm)).trans e

/-- A state that differs in the records of berth `b` and in the drive of its modules. -/
theorem onlyBerth_of {b : Berth} {s t : State} (hs : s.SameStation t) (hc : t.claims = s.claims)
    (hp : t.params = s.params) (hpp : t.pendingParams = s.pendingParams) (hn : t.sessionCounter = s.sessionCounter)
    (ho : ∃ v, t.osc = s.osc.set b v) (hm : ∃ v, t.meas = s.meas.set b v) (hy : ∃ v, t.sync = s.sync.set b v)
    (hq : ∃ v, t.seq = s.seq.set b v) (hx : ∃ v, t.sessions = s.sessions.set b v)
    (hd : ∀ m, (s.mods.get m).serves b = false → t.mods.get m = s.mods.get m) : s.OnlyBerth b t where
  toSameStation := hs
  claims := hc
  params := hp
  pendingParams := hpp
  counter := hn
  osc c h := by obtain ⟨v, e⟩ := ho; rw [e, PerBerth.get_set_ne _ _ _ _ h]
  meas c h := by obtain ⟨v, e⟩ := hm; rw [e, PerBerth.get_set_ne _ _ _ _ h]
  sync c h := by obtain ⟨v, e⟩ := hy; rw [e, PerBerth.get_set_ne _ _ _ _ h]
  seq c h := by obtain ⟨v, e⟩ := hq; rw [e, PerBerth.get_set_ne _ _ _ _ h]
  sessions c h := by obtain ⟨v, e⟩ := hx; rw [e, PerBerth.get_set_ne _ _ _ _ h]
  mods := hd

/-- Every per-berth record of `s` is itself with berth `b` put back. -/
theorem setBack {α : Type} (p : PerBerth α) (b : Berth) : ∃ v, p = p.set b v := ⟨p.get b, (PerBerth.set_get p b).symm⟩

/-! ## Updates of one berth -/

theorem updSeq_only (b : Berth) (f : Seq → Seq) (s : State) : s.OnlyBerth b (s.updSeq b f) :=
  onlyBerth_of (by constructor <;> rfl) rfl rfl rfl rfl (setBack _ _) (setBack _ _) (setBack _ _) ⟨_, rfl⟩ (setBack _ _)
    fun _ _ => rfl

theorem updSync_only (b : Berth) (f : Sync → Sync) (s : State) : s.OnlyBerth b (s.updSync b f) :=
  onlyBerth_of (by constructor <;> rfl) rfl rfl rfl rfl (setBack _ _) (setBack _ _) ⟨_, rfl⟩ (setBack _ _) (setBack _ _)
    fun _ _ => rfl

theorem updOsc_only (b : Berth) (f : Osc → Osc) (s : State) : s.OnlyBerth b (s.updOsc b f) :=
  onlyBerth_of (by constructor <;> rfl) rfl rfl rfl rfl ⟨_, rfl⟩ (setBack _ _) (setBack _ _) (setBack _ _) (setBack _ _)
    fun _ _ => rfl

theorem updMeas_only (b : Berth) (f : Meas → Meas) (s : State) : s.OnlyBerth b (s.updMeas b f) :=
  onlyBerth_of (by constructor <;> rfl) rfl rfl rfl rfl (setBack _ _) ⟨_, rfl⟩ (setBack _ _) (setBack _ _) (setBack _ _)
    fun _ _ => rfl

theorem setSession_only (b : Berth) (x : Option Session) (s : State) : s.OnlyBerth b (s.setSession b x) :=
  onlyBerth_of (by constructor <;> rfl) rfl rfl rfl rfl (setBack _ _) (setBack _ _) (setBack _ _) (setBack _ _) ⟨_, rfl⟩
    fun _ _ => rfl

theorem updSession_only (b : Berth) (f : Session → Session) (s : State) : s.OnlyBerth b (s.updSession b f) :=
  setSession_only b _ s

/-- Only the queue, the lost count and the event summary. -/
theorem bare_only (b : Berth) {s t : State}
    (h : t = { s with
      jour := { s.jour with queue := t.jour.queue, lost := t.jour.lost }
      page := { s.page with summary := t.page.summary } }) : s.OnlyBerth b t := by
  rw [h]
  exact onlyBerth_of (by constructor <;> rfl) rfl rfl rfl rfl (setBack _ _) (setBack _ _) (setBack _ _) (setBack _ _)
    (setBack _ _) fun _ _ => rfl

theorem setSummary_only (b : Berth) (k : SummaryBit) (s : State) : s.OnlyBerth b (setSummary k s) := bare_only b rfl

theorem admitBilling_only (b c : Berth) (r : Record) (s : State) : s.OnlyBerth b (admitBilling c r s) := by
  unfold admitBilling; split
  · exact bare_only b rfl
  · exact .refl b s

theorem admitInterval_only (b c : Berth) (r : Record) (i : IntervalBody) (s : State) :
    s.OnlyBerth b (admitInterval c r i s) := by
  unfold admitInterval; split
  · exact bare_only b rfl
  · exact admitBilling_only b c r s

theorem admitEvent_only (b : Berth) (r : Record) (s : State) : s.OnlyBerth b (admitEvent r s) := by
  unfold admitEvent; split
  · exact bare_only b rfl
  · exact bare_only b rfl

theorem emitEvent_only (b : Berth) (c : EventCode) (q : Nat) (o : Option Berth) (ws : List Word) (s : State) :
    s.OnlyBerth b (emitEvent c q o ws s) := admitEvent_only b _ s

/-! ## Operations of one berth -/

/-- The drive of the berth's modules alone. -/
theorem driven_only {b : Berth} {s t : State} (h : DriveOnly b s t) : s.OnlyBerth b t := by
  obtain ⟨ms, d, e⟩ := h.driven
  rw [e]
  exact onlyBerth_of (by constructor <;> rfl) rfl rfl rfl rfl (setBack _ _) (setBack _ _) (setBack _ _) (setBack _ _)
    (setBack _ _) d.2

theorem recomputeShares_only (b : Berth) (s : State) : s.OnlyBerth b (recomputeShares b s) := by
  rw [recomputeShares_eq]
  exact (driven_only (sharesSet_driveOnly b s)).trans (updSeq_only b _ _)

theorem blankBerth_only (b : Berth) (s : State) : s.OnlyBerth b (blankBerth b s) := driven_only (blankBerth_driveOnly b s)

theorem refreshDirection_only (b : Berth) (s : State) : s.OnlyBerth b (refreshDirection b s) := by
  unfold refreshDirection; split
  · exact .refl b s
  · exact (updSeq_only b _ s).trans (blankBerth_only b _)

theorem judge_only (b : Berth) (s : State) : s.OnlyBerth b (judge b s) := by
  unfold judge; exact updSeq_only b _ s

theorem holdTimers_only (b : Berth) (s : State) : s.OnlyBerth b (holdTimers b s) := by
  unfold holdTimers; exact updSeq_only b _ s

theorem driveBreaker_only (b : Berth) (closed : Bool) (s : State) : s.OnlyBerth b (s.driveBreaker b closed) :=
  updSync_only b _ s

theorem holdIfStale_only (b : Berth) (s : State) : s.OnlyBerth b (holdIfStale b s) := by
  unfold holdIfStale; split
  · exact updSeq_only b _ s
  · exact .refl b s

theorem noteInterruption_only (b : Berth) (s : State) : s.OnlyBerth b (noteInterruption b s) := updSession_only b _ s

theorem noteTrip_only (b : Berth) (s : State) : s.OnlyBerth b (noteTrip b s) := updSession_only b _ s

theorem oscEnter_only (b : Berth) (st : BerthState) (s : State) : s.OnlyBerth b (oscEnter b st s) := by
  rw [oscEnter_eq]; exact updOsc_only b (fun _ => enteredOsc b st s) s

theorem enterState_only (b : Berth) (new : BerthState) (s : State) : s.OnlyBerth b (enterState b new s) := by
  rw [enterState_mid]
  have h : s.OnlyBerth b (enteredMid b new s) := by
    refine onlyBerth_of (by constructor <;> rfl) rfl rfl rfl rfl ⟨_, rfl⟩ (setBack _ _) ⟨_, rfl⟩ ⟨_, rfl⟩ ?_
      fun _ _ => rfl
    show ∃ v, enteredSessions b new s = s.sessions.set b v
    unfold enteredSessions; split
    · exact ⟨_, rfl⟩
    · exact setBack _ _
  exact ((((h.trans (driven_only (refreshModes_driveOnly b _))).trans (holdIfStale_only b _)).trans
    (refreshDirection_only b _)).trans (recomputeShares_only b _)).trans (judge_only b _)

theorem capacityReport_only (b : Berth) (s : State) : s.OnlyBerth b (capacityReport b s) :=
  (((updSeq_only b _ s).trans (refreshDirection_only b _)).trans (recomputeShares_only b _)).trans (judge_only b _)

theorem reportIfChanged_only (b : Berth) (n : Nat) (s : State) : s.OnlyBerth b (reportIfChanged b n s) := by
  unfold reportIfChanged; split
  · exact recomputeShares_only b s
  · exact capacityReport_only b s

theorem writeResult_only (b : Berth) (k : BitVec 8) (t : BitVec 16) (o : ReqOutcome) (c : Option Cause)
    (v : Option (BitVec 16)) (s : State) : s.OnlyBerth b (writeResult b k t o c v s) :=
  (updSeq_only b _ s).trans (setSummary_only b _ _)

theorem completeCurrent_only (b : Berth) (o : ReqOutcome) (c : Option Cause) (s : State) :
    s.OnlyBerth b (completeCurrent b o c s) := by
  unfold completeCurrent; split
  · exact .refl b s
  · exact (updSeq_only b _ s).trans (writeResult_only b _ _ _ _ _ _)

theorem issueTrip_only (b : Berth) (s : State) : s.OnlyBerth b (issueTrip b s) := updSync_only b _ s

theorem controlledOpen_only (b : Berth) (c : OpenCause) (s : State) : s.OnlyBerth b (controlledOpen b c s) :=
  ((updSeq_only b _ s).trans (enterState_only b _ _)).trans (issueTrip_only b _)

/-! ## Single modules -/

theorem refreshMode_modsOnly (m : ModuleId) (s : State) : s.ModsOnly (refreshMode m s) := by
  rw [refreshMode_eq]; rfl

theorem blank_modsOnly (m : ModuleId) (s : State) : s.ModsOnly (blank m s) := rfl

theorem enterJoining_modsOnly (b : Berth) (m : ModuleId) (s : State) : s.ModsOnly (enterJoining b m s) :=
  State.ModsOnly.trans (updMod_modsOnly m _ s) (refreshMode_modsOnly m _)

theorem leaveBerth_modsOnly (d : Standing) (m : ModuleId) (s : State) : s.ModsOnly (leaveBerth d m s) :=
  State.ModsOnly.trans (updMod_modsOnly m _ s) (refreshMode_modsOnly m _)

theorem releaseModule_modsOnly (m : ModuleId) (s : State) : s.ModsOnly (releaseModule m s) :=
  State.ModsOnly.trans (leaveBerth_modsOnly _ m s) (updMod_modsOnly m _ _)

theorem releaseModules_modsOnly (b : Berth) (s : State) : s.ModsOnly (releaseModules b s) :=
  forModules_modsOnly (fun m s => by
    split
    · exact releaseModule_modsOnly m s
    · exact .refl s) s

theorem blockModules_modsOnly (b : Berth) (s : State) : s.ModsOnly (blockModules b s) :=
  forModules_modsOnly (fun m s => by
    dsimp only
    split
    · exact State.ModsOnly.trans (updMod_modsOnly m _ s) (refreshMode_modsOnly m _)
    · exact .refl s) s

theorem unblockModules_modsOnly (b : Berth) (s : State) : s.ModsOnly (unblockModules b s) :=
  forModules_modsOnly (fun m s => by
    split
    · exact enterJoining_modsOnly b m s
    · exact .refl s) s

theorem assignAll_modsOnly (b : Berth) (ms : List ModuleId) (s : State) : s.ModsOnly (assignAll b ms s) := by
  induction ms generalizing s with
  | nil => exact .refl s
  | cons m ms ih => exact State.ModsOnly.trans (enterJoining_modsOnly b m s) (ih _)

theorem replaceWith_modsOnly (b : Berth) (m : ModuleId) (s : State) : s.ModsOnly (replaceWith b m s) := by
  unfold replaceWith; split
  · exact enterJoining_modsOnly b m s
  · exact .refl s

theorem serveNeed_modsOnly (b : Berth) (s : State) : s.ModsOnly (serveNeed b s) :=
  forModules_modsOnly (replaceWith_modsOnly b) s

theorem serveNeeds_modsOnly (k : Option Berth) (s : State) : s.ModsOnly (serveNeeds k s) :=
  forBerths_modsOnly (fun b s => by
    split
    · exact .refl s
    · exact serveNeed_modsOnly b s) s

/-! ## Trips -/

/-- Blocking changes only modules of the berth that are JOINING or RUNNING (R14). -/
theorem blockModules_get (b : Berth) (s : State) (m : ModuleId) :
    (blockModules b s).mods.get m =
      if (s.mods.get m).standing = .assigned b .joining ∨ (s.mods.get m).standing = .assigned b .running then
        refreshed s { s.mods.get m with standing := .assigned b .blockedByBerth, share := 0 }
      else s.mods.get m :=
  forModules_get
    (h := fun s _ r =>
      if r.standing = .assigned b .joining ∨ r.standing = .assigned b .running then
        refreshed s { r with standing := .assigned b .blockedByBerth, share := 0 }
      else r)
    (fun m s => by
      dsimp only
      split <;> rename_i h
      · rw [refreshMode_eq, State.updMod_updMod]
        simp only [State.updMod, h, if_true]
        rfl
      · rw [State.updMod_id]; simp only [h, if_false])
    (fun _ _ => rfl) s m

theorem blockModules_only (b : Berth) (s : State) : s.OnlyBerth b (blockModules b s) := by
  have h := blockModules_modsOnly b s
  refine onlyBerth_of h.same (by rw [h]) (by rw [h]) (by rw [h]) (by rw [h]) ?_ ?_ ?_ ?_ ?_ fun m hm => ?_
  · rw [h]; exact setBack _ _
  · rw [h]; exact setBack _ _
  · rw [h]; exact setBack _ _
  · rw [h]; exact setBack _ _
  · rw [h]; exact setBack _ _
  · rw [blockModules_get, if_neg]
    rintro (e | e) <;> simp [Module.serves, e, Standing.berth?] at hm

theorem enterTripped_only (b : Berth) (c : TripCause) (s : State) : s.OnlyBerth b (enterTripped b c s) := by
  unfold enterTripped; dsimp only; split
  · exact .refl b s
  · exact ((((((((updSeq_only b _ s).trans (enterState_only b _ _)).trans (blockModules_only b _)).trans
      (reportIfChanged_only b _ _)).trans (setSummary_only b _ _)).trans (emitEvent_only b _ _ _ _ _)).trans
      (noteTrip_only b _)).trans (completeCurrent_only b _ _ _))

end Sys2Proof.Machine
end

