-- ==== Sys2Proof/Laws/Station.lean ====
section
/-! SUPPORT. Frames of the Synchronising Unit, the intake, the pool and the requests. -/

namespace Sys2Proof.Machine

/-! ## Berth frames of the Synchronising Unit -/

theorem predict_only (b : Berth) (s : State) : s.OnlyBerth b (predict b s) := by
  unfold predict; split
  · exact updSync_only b _ s
  · exact .refl b s

theorem evaluate_only (b : Berth) (s : State) : s.OnlyBerth b (evaluate b s) := by
  unfold evaluate; dsimp only; split
  · split
    · refine .trans ?_ (predict_only b _)
      split
      · exact (updSync_only b _ s).trans (enterState_only b _ _)
      · exact updSync_only b _ s
    · split
      · exact ((updSync_only b _ s).trans (updSync_only b _ _)).trans (enterState_only b _ _)
      · exact updSync_only b _ s
  · exact .refl b s

theorem startWatching_only (b : Berth) (s : State) : s.OnlyBerth b (startWatching b s) :=
  (updSync_only b _ s).trans (evaluate_only b _)

theorem closeDue_only (b : Berth) (s : State) : s.OnlyBerth b (closeDue b s) := by
  unfold closeDue; dsimp only; split
  · exact ((updSync_only b _ s).trans (updSync_only b _ _)).trans (enterState_only b _ _)
  · split
    · exact (updSync_only b _ s).trans (updSync_only b _ _)
    · exact ((updSync_only b _ s).trans (updSync_only b _ _)).trans (enterState_only b _ _)

theorem emitRough_only (b : Berth) (r : LastClose) (s : State) : s.OnlyBerth b (emitRough b r s) := by
  unfold emitRough; split
  · exact emitEvent_only b _ _ _ _ s
  · exact .refl b s

theorem confirmClose_only (b : Berth) (s : State) : s.OnlyBerth b (confirmClose b s) :=
  ((((((updSync_only b _ s).trans (emitRough_only b _ _)).trans (updSession_only b _ _)).trans
    (enterState_only b _ _)).trans (emitEvent_only b _ _ _ _ _)).trans (completeCurrent_only b _ _ _))

theorem closeFailed_only (b : Berth) (s : State) : s.OnlyBerth b (closeFailed b s) :=
  ((updSync_only b _ s).trans (enterState_only b _ _)).trans (completeCurrent_only b _ _ _)

theorem openingConfirmed_only (b : Berth) (s : State) : s.OnlyBerth b (openingConfirmed b s) :=
  ((enterState_only b _ s).trans (emitEvent_only b _ _ _ _ _)).trans (completeCurrent_only b _ _ _)

theorem externalOpen_only (b : Berth) (s : State) : s.OnlyBerth b (externalOpen b s) :=
  ((enterState_only b _ s).trans (emitEvent_only b _ _ _ _ _)).trans (completeCurrent_only b _ _ _)

theorem breakerFall_only (b : Berth) (s : State) : s.OnlyBerth b (breakerFall b s) := by
  unfold breakerFall; dsimp only
  have h : s.OnlyBerth b (startDeadTime b s) := updSync_only b _ s
  split
  · exact (h.trans (updSync_only b _ _)).trans (openingConfirmed_only b _)
  · exact h.trans (externalOpen_only b _)
  · exact h.trans (externalOpen_only b _)
  · exact h.trans (externalOpen_only b _)
  · exact h

theorem openFailed_only (b : Berth) (s : State) : s.OnlyBerth b (openFailed b s) :=
  ((updSync_only b _ s).trans (issueTrip_only b _)).trans (enterTripped_only b _ _)

theorem tripPulseEnd_only (b : Berth) (s : State) : s.OnlyBerth b (tripPulseEnd b s) := by
  unfold tripPulseEnd; exact updSync_only b _ s

theorem overloadExpired_only (b : Berth) (s : State) : s.OnlyBerth b (overloadExpired b s) := by
  unfold overloadExpired; split
  · exact controlledOpen_only b _ s
  · exact controlledOpen_only b _ s
  · exact (issueTrip_only b s).trans (enterTripped_only b _ _)
  · exact enterTripped_only b _ s

/-! ## Berth frames of the intake -/

theorem countFailure_only (b : Berth) (f : Counters → Counters) (s : State) : s.OnlyBerth b (countFailure b f s) :=
  updMeas_only b _ s

theorem compareReading_only (b : Berth) (x : RegisterBase) (f : Feeder) (s : State) :
    s.OnlyBerth b (compareReading b x f s) := by
  unfold compareReading; split
  · exact updSession_only b _ s
  · exact emitEvent_only b _ _ _ _ s

theorem takeReading_only (b : Berth) (f : Feeder) (s : State) : s.OnlyBerth b (takeReading b f s) := by
  unfold takeReading; dsimp only; split
  · exact updMeas_only b _ s
  · exact (compareReading_only b _ f s).trans (updMeas_only b _ _)

theorem acceptShip_only (b : Berth) (p : Phasor) (s : State) : s.OnlyBerth b (acceptShip b p s) :=
  (((updMeas_only b _ s).trans (updOsc_only b _ _)).trans (updSync_only b _ _)).trans (evaluate_only b _)

theorem feederAccepted_only (b : Berth) (s : State) : s.OnlyBerth b (feederAccepted b s) :=
  ((updSeq_only b _ s).trans (refreshDirection_only b _)).trans (judge_only b _)

theorem compareRelease_only (b : Berth) (p : Int) (s : State) : s.OnlyBerth b (compareRelease b p s) := by
  unfold compareRelease; split
  · exact controlledOpen_only b _ s
  · exact .refl b s

theorem acceptFeeder_only (b : Berth) (f : Feeder) (s : State) : s.OnlyBerth b (acceptFeeder b f s) :=
  (((updMeas_only b _ s).trans (takeReading_only b f _)).trans (feederAccepted_only b _)).trans
    (compareRelease_only b _ _)

theorem acceptFeederFault_only (b : Berth) (s : State) : s.OnlyBerth b (acceptFeederFault b s) := by
  have h := (countFailure_only b (fun c => { c with meterStatus := sat16 (c.meterStatus + 1) }) s).trans
    (updMeas_only b (fun m => { m with feeder := m.feeder.refresh (s.stalenessUs b) none }) _)
  unfold acceptFeederFault; dsimp only; split
  · exact h
  · exact h.trans (feederAccepted_only b _)

theorem slotStale_only (b : Berth) (k : SlotKind) (s : State) : s.OnlyBerth b (slotStale b k s) := by
  cases k
  · exact ((((updMeas_only b _ s).trans (setSummary_only b _ _)).trans (updOsc_only b _ _)).trans
      (updSync_only b _ _)).trans (evaluate_only b _)
  · exact ((updMeas_only b _ s).trans (setSummary_only b _ _)).trans (evaluate_only b _)
  · exact (((((updMeas_only b _ s).trans (setSummary_only b _ _)).trans (updSession_only b _ _)).trans
      (holdIfStale_only b _)).trans (refreshDirection_only b _)).trans (holdTimers_only b _)

/-! ## Loss of the supervisor -/

theorem supervisorLost_only (b : Berth) (s : State) : s.OnlyBerth b (supervisorLost b s) := by
  unfold supervisorLost; split
  · exact (enterState_only b _ s).trans (completeCurrent_only b _ _ _)
  · exact (enterState_only b _ s).trans (completeCurrent_only b _ _ _)
  · exact (updSeq_only b _ s).trans (refreshDirection_only b _)
  · exact .refl b s

theorem supervisorRestored_only (b : Berth) (s : State) : s.OnlyBerth b (supervisorRestored b s) :=
  (updSeq_only b _ s).trans (refreshDirection_only b _)

/-! ## Station frames of sessions and states -/

theorem openSession_same (b : Berth) (p : ShipProfile) (s : State) : s.SameStation (openSession b p s) := by
  unfold openSession; dsimp only
  have h : s.SameStation { s with sessionCounter := nextSessionNumber s.sessionCounter } := by constructor <;> rfl
  exact (h.trans (setSession_only b _ _).toSameStation).trans (admitBilling_only b _ _ _).toSameStation

theorem firstEnergised_same (b : Berth) (s : State) : s.SameStation (firstEnergised b s) := by
  unfold firstEnergised; split
  · exact .refl s
  · exact ((updSeq_only b _ s).toSameStation.trans (openSession_same b _ _)).trans
      (emitEvent_only b _ _ _ _ _).toSameStation

theorem becomeEnergised_same (b : Berth) (s : State) : s.SameStation (becomeEnergised b s) := by
  unfold becomeEnergised; dsimp only
  have h := (enterState_only b .energised s).toSameStation
  refine .trans ?_ (completeCurrent_only b _ _ _).toSameStation
  split
  · exact h
  · exact h.trans (firstEnergised_same b _)

theorem checkEnergising_same (b : Berth) (s : State) : s.SameStation (checkEnergising b s) := by
  unfold checkEnergising; split
  · exact becomeEnergised_same b s
  · exact .refl s

theorem splitInterval_only (x y : StationTime) (k : Bool) (b : Berth) (s : State) :
    s.OnlyBerth b (splitInterval x y k b s) := by
  unfold splitInterval; split
  · exact .refl b s
  · exact (setSession_only b _ s).trans (admitInterval_only b _ _ _ _)

theorem closeSession_only (b : Berth) (k : Nat) (t : StationTime) (s : State) : s.OnlyBerth b (closeSession b k t s) := by
  unfold closeSession; split
  · exact .refl b s
  · exact ((admitInterval_only b _ _ _ s).trans (admitBilling_only b _ _ _)).trans (setSession_only b _ _)

theorem paramsIntoForce_same (b : Berth) (s : State) : s.SameStation (paramsIntoForce b s) := by
  unfold paramsIntoForce; split
  · exact .refl s
  · constructor <;> rfl

theorem enterIdle_same (b : Berth) (s : State) : s.SameStation (enterIdle b s) := by
  unfold enterIdle; dsimp only
  have h : (closeSession b 1 s.clock.time s).SameStation
      (if (s.seq.get b).state = .deEnergising then emitReleased b (closeSession b 1 s.clock.time s)
        else closeSession b 1 s.clock.time s) := by
    split
    · exact (emitEvent_only b _ _ _ _ _).toSameStation
    · exact .refl _
  exact ((((closeSession_only b _ _ s).toSameStation.trans h).trans (enterState_only b _ _).toSameStation).trans
    (updSeq_only b _ _).toSameStation).trans (paramsIntoForce_same b _)

/-! ## Station frames of the pool -/

theorem energiseWith_same (b : Berth) (ms : List ModuleId) (s : State) : s.SameStation (energiseWith b ms s) :=
  (assignAll_modsOnly b ms s).same.trans (enterState_only b _ _).toSameStation

theorem serveClaims_same (cs : List Claim) (s : State) : s.SameStation (serveClaims cs s) := by
  induction cs generalizing s with
  | nil => constructor <;> rfl
  | cons c cs ih =>
    unfold serveClaims
    split
    · constructor <;> rfl
    · refine .trans ?_ ((energiseWith_same _ _ _).trans (ih _))
      constructor <;> rfl

theorem tryPoolBut_same (k : Option Berth) (s : State) : s.SameStation (tryPoolBut k s) :=
  (serveNeeds_modsOnly k s).same.trans (serveClaims_same _ _)

theorem tryPool_same (s : State) : s.SameStation (tryPool s) := tryPoolBut_same none s

theorem tryIf_same (h : Bool) (s : State) : s.SameStation (tryIf h s) := by
  unfold tryIf; split
  · exact tryPool_same s
  · exact .refl s

theorem tryIfNeeded_same (b : Berth) (s : State) : s.SameStation (tryIfNeeded b s) := by
  unfold tryIfNeeded; split
  · exact tryPool_same s
  · exact .refl s

theorem removeClaim_same (b : Berth) (s : State) : s.SameStation (removeClaim b s) := by constructor <;> rfl

theorem deEnergised_same (b : Berth) (s : State) : s.SameStation (deEnergised b s) :=
  ((((releaseModules_modsOnly b s).same.trans (reportIfChanged_only b _ _).toSameStation).trans
    (tryPoolBut_same _ _)).trans (enterIdle_same b _)).trans (completeCurrent_only b _ _ _).toSameStation

theorem rejoin_same (b : Berth) (s : State) : s.SameStation (rejoin b s) :=
  ((enterState_only b _ s).toSameStation.trans (unblockModules_modsOnly b _).same).trans (tryIfNeeded_same b _)

theorem claimTimeout_same (b : Berth) (s : State) : s.SameStation (claimTimeout b s) :=
  (((removeClaim_same b s).trans (enterIdle_same b _)).trans (completeCurrent_only b _ _ _).toSameStation).trans
    (tryIf_same _ _)

theorem uncommandedClose_same (b : Berth) (s : State) : s.SameStation (uncommandedClose b s) :=
  ((((issueTrip_only b s).toSameStation.trans (updSync_only b _ _).toSameStation).trans (removeClaim_same b _)).trans
    (enterTripped_only b _ _).toSameStation).trans (tryIf_same _ _)

theorem breakerRise_same (b : Berth) (s : State) : s.SameStation (breakerRise b s) := by
  unfold breakerRise; split
  · exact (confirmClose_only b s).toSameStation
  · exact .refl s
  · exact .refl s
  · exact .refl s
  · exact .refl s
  · exact uncommandedClose_same b s

/-! ## Station frames of modules -/

theorem enterRetryWait_modsOnly (b : Berth) (r : RunState) (d : Nat) (m : ModuleId) (s : State) :
    s.ModsOnly (enterRetryWait b r d m s) :=
  State.ModsOnly.trans (updMod_modsOnly m _ s) (refreshMode_modsOnly m _)

theorem lockOut_same (b : Berth) (c : Word) (m : ModuleId) (s : State) : s.SameStation (lockOut b c m s) :=
  (((leaveBerth_modsOnly _ m s).same.trans (updMod_modsOnly m _ _).same).trans
    (emitEvent_only b _ _ _ _ _).toSameStation).trans (setSummary_only b _ _).toSameStation

theorem countedFault_same (b : Berth) (c : Word) (m : ModuleId) (s : State) : s.SameStation (countedFault b c m s) := by
  unfold countedFault; dsimp only; split
  · exact (updMod_modsOnly m _ s).same.trans (enterRetryWait_modsOnly _ _ _ m _).same
  · split
    · exact (updMod_modsOnly m _ s).same.trans (enterRetryWait_modsOnly _ _ _ m _).same
    · exact lockOut_same b c m s

theorem countFlags_same (m : ModuleId) (f : PerFlag Bool) (s : State) : s.SameStation (countFlags m f s) := by
  unfold countFlags; dsimp only; split
  · exact (updMod_modsOnly m _ s).same
  · split
    · exact (updMod_modsOnly m _ s).same.trans (countedFault_same _ _ m _)
    · exact (updMod_modsOnly m _ s).same

theorem joinRunning_same (m : ModuleId) (x : StatusReport) (s : State) : s.SameStation (joinRunning m x s) := by
  unfold joinRunning; split
  · split
    · dsimp only
      split
      · exact (updMod_modsOnly m _ s).same.trans
          ((leaveBerth_modsOnly _ m _).same.trans (updMod_modsOnly m _ _).same)
      · exact (updMod_modsOnly m _ s).same
    · exact .refl s
  · exact .refl s

theorem reportFor_same (b : Option Berth) (old new : State) : new.SameStation (reportFor b old new) := by
  unfold reportFor; split
  · exact (reportIfChanged_only _ _ _).toSameStation
  · exact .refl _

theorem tryAfterLockout_same (b : Option Berth) (m : ModuleId) (s : State) : s.SameStation (tryAfterLockout b m s) := by
  unfold tryAfterLockout; split
  · exact tryIfNeeded_same _ s
  · exact .refl s

theorem acceptStatus_same (m : ModuleId) (x : StatusReport) (s : State) : s.SameStation (acceptStatus m x s) := by
  unfold acceptStatus; dsimp only
  have h := (((updMod_modsOnly m _ s).same.trans (joinRunning_same m x _)).trans (countFlags_same m x.flags _)).trans
    (reportFor_same (s.mods.get m).standing.berth? s (countFlags m x.flags (joinRunning m x (takeStatus m x s))))
  split
  · exact h.trans (tryPool_same _)
  · exact h.trans (tryAfterLockout_same _ m _)

theorem statusRecord_same (m : ModuleId) (ws : List Word) (s : State) : s.SameStation (statusRecord m ws s) := by
  unfold statusRecord; dsimp only; split
  · exact (updMod_modsOnly m _ s).same
  · split
    · split
      · exact .refl s
      · exact acceptStatus_same m _ s
    · exact acceptStatus_same m _ s

theorem statusStale_same (m : ModuleId) (s : State) : s.SameStation (statusStale m s) := by
  unfold statusStale; dsimp only; split
  · exact (updMod_modsOnly m _ s).same
  · exact (((updMod_modsOnly m _ s).same.trans (countedFault_same _ _ m _)).trans
      (reportIfChanged_only _ _ _).toSameStation).trans (tryAfterLockout_same _ m _)

theorem restartModule_modsOnly (b : Berth) (m : ModuleId) (s : State) : s.ModsOnly (restartModule b m s) :=
  State.ModsOnly.trans (updMod_modsOnly m _ s) (enterJoining_modsOnly b m _)

theorem retryWaitEnd_same (m : ModuleId) (s : State) : s.SameStation (retryWaitEnd m s) := by
  unfold retryWaitEnd; split
  · split
    · exact (restartModule_modsOnly _ m s).same
    · exact (releaseModule_modsOnly m s).same.trans (tryPool_same _)
  · exact (updMod_modsOnly m _ s).same

/-! ## Station frames of the intake -/

theorem moveExpected_only (b : Berth) (q : BitVec 8) (s : State) : s.OnlyBerth b (moveExpected b q s) :=
  updMeas_only b _ s

theorem applySeq_only (b : Berth) (q : BitVec 8) {s t : State} (h : applySeq b q s = some t) : s.OnlyBerth b t := by
  unfold applySeq at h
  split at h
  · cases h; exact moveExpected_only b q s
  · cases h; exact moveExpected_only b q s
  · cases h
    exact ((moveExpected_only b q s).trans (countFailure_only b _ _)).trans (updSession_only b _ _)
  · cases h

theorem acceptShore_same (b : Berth) (p : Phasor) (s : State) : s.SameStation (acceptShore b p s) :=
  ((updMeas_only b _ s).toSameStation.trans (checkEnergising_same b _)).trans (evaluate_only b _).toSameStation

theorem takeValues_same (b : Berth) (k : SlotKind) (r : MeasRecord) (s : State) : s.SameStation (takeValues b k r s) := by
  unfold takeValues; split
  · split
    · exact (acceptShip_only b _ s).toSameStation
    · exact (countFailure_only b _ s).toSameStation
  · split
    · exact acceptShore_same b _ s
    · exact (countFailure_only b _ s).toSameStation
  · split
    · exact (acceptFeeder_only b _ s).toSameStation
    · exact (acceptFeederFault_only b s).toSameStation

theorem takeMeasurement_same (b : Berth) (w0 w1 w2 w3 : Word) (s : State) :
    s.SameStation (takeMeasurement b w0 w1 w2 w3 s) := by
  unfold takeMeasurement; dsimp only
  split
  · exact (countFailure_only b _ s).toSameStation
  · split
    · exact (countFailure_only b _ s).toSameStation
    · split
      · rename_i h _
        exact (applySeq_only b _ h).toSameStation.trans (takeValues_same b _ _ _)
      · exact (countFailure_only b _ s).toSameStation

/-! ## Station frames of the requests -/

theorem makeCurrent_only (b : Berth) (k : RequestKind) (t : BitVec 16) (s : State) :
    s.OnlyBerth b (makeCurrent b k t s) := updSeq_only b _ s

theorem refuse_only (b : Berth) (k : BitVec 8) (t : BitVec 16) (o : ReqOutcome) (s : State) :
    s.OnlyBerth b (refuse b k t o s) := writeResult_only b _ _ _ _ _ s

theorem takeSync_only (b : Berth) (t : BitVec 16) (s : State) : s.OnlyBerth b (takeSync b t s) :=
  ((makeCurrent_only b _ t s).trans (enterState_only b _ _)).trans (startWatching_only b _)

theorem takeGensOff_only (b : Berth) (t : BitVec 16) (s : State) : s.OnlyBerth b (takeGensOff b t s) :=
  ((enterState_only b _ s).trans (emitEvent_only b _ _ _ _ _)).trans (writeResult_only b _ _ _ _ _ _)

theorem takeGensOn_only (b : Berth) (t : BitVec 16) (s : State) : s.OnlyBerth b (takeGensOn b t s) :=
  (makeCurrent_only b _ t s).trans (enterState_only b _ _)

theorem connectQueued_same (b : Berth) (p : ShipProfile) (s : State) : s.SameStation (connectQueued b p s) := by
  refine .trans ?_ (enterState_only b _ _).toSameStation
  constructor <;> rfl

theorem connectWith_same (b : Berth) (t : BitVec 16) (p : ShipProfile) (s : State) :
    s.SameStation (connectWith b t p s) := by
  unfold connectWith; dsimp only
  split
  · exact (refuse_only b _ t _ s).toSameStation
  · exact ((updSeq_only b _ s).toSameStation.trans (makeCurrent_only b _ t _).toSameStation).trans
      (energiseWith_same b _ _)
  · exact ((updSeq_only b _ s).toSameStation.trans (makeCurrent_only b _ t _).toSameStation).trans
      (connectQueued_same b _ _)

theorem takeConnect_same (b : Berth) (t : BitVec 16) (s : State) : s.SameStation (takeConnect b t s) := by
  unfold takeConnect; dsimp only
  split
  · exact (refuse_only b _ t _ s).toSameStation
  · split
    · exact (refuse_only b _ t _ s).toSameStation
    · split
      · exact (refuse_only b _ t _ s).toSameStation
      · split
        · exact (refuse_only b _ t _ s).toSameStation
        · exact connectWith_same b t _ s

theorem abortEffect_same (b : Berth) (s : State) : s.SameStation (abortEffect b s) := by
  unfold abortEffect; split
  · exact ((removeClaim_same b s).trans (enterIdle_same b _)).trans (tryIf_same _ _)
  · exact (enterState_only b _ s).toSameStation
  · exact (enterState_only b _ s).toSameStation
  · exact (enterState_only b _ s).toSameStation
  · exact .refl s

theorem takeAbort_same (b : Berth) (t : BitVec 16) (s : State) : s.SameStation (takeAbort b t s) :=
  ((completeCurrent_only b _ _ s).toSameStation.trans (abortEffect_same b _)).trans
    (writeResult_only b _ _ _ _ _ _).toSameStation

theorem takeDisconnect_same (b : Berth) (t : BitVec 16) (s : State) : s.SameStation (takeDisconnect b t s) := by
  unfold takeDisconnect; dsimp only
  have h := (makeCurrent_only b .disconnect t s).toSameStation.trans
    (enterState_only b .deEnergising (makeCurrent b .disconnect t s)).toSameStation
  split
  · exact h.trans (deEnergised_same b _)
  · exact h

theorem takeClear_same (b : Berth) (t : BitVec 16) (s : State) : s.SameStation (takeClear b t s) :=
  ((makeCurrent_only b .clear t s).toSameStation.trans (updSeq_only b _ _).toSameStation).trans (rejoin_same b _)

theorem takeAccepted_same (b : Berth) (t : BitVec 16) (k : RequestKind) (s : State) :
    s.SameStation (takeAccepted b t k s) := by
  cases k
  · exact takeConnect_same b t s
  · exact (takeSync_only b t s).toSameStation
  · exact (takeGensOff_only b t s).toSameStation
  · exact (takeGensOn_only b t s).toSameStation
  · exact takeAbort_same b t s
  · exact takeDisconnect_same b t s
  · exact takeClear_same b t s

theorem takeRequest_same (b : Berth) (k : BitVec 8) (t : BitVec 16) (s : State) : s.SameStation (takeRequest b k t s) := by
  unfold takeRequest; split
  · exact (refuse_only b _ t _ s).toSameStation
  · split
    · exact (refuse_only b _ t _ s).toSameStation
    · split
      · exact (refuse_only b _ t _ s).toSameStation
      · split
        · exact (refuse_only b _ t _ s).toSameStation
        · exact takeAccepted_same b t _ s

theorem shadowWord_only (b : Berth) (n : Nat) (v : Word) (s : State) : s.OnlyBerth b (shadowWord b n v s) := by
  unfold shadowWord; split
  · exact updSeq_only b _ s
  · exact .refl b s

theorem foldl_same {α : Type} (f : State → α → State) (h : ∀ (s : State) x, s.SameStation (f s x)) (l : List α) (s : State) :
    s.SameStation (l.foldl f s) := by
  induction l generalizing s with
  | nil => exact .refl s
  | cons x l ih => exact (h s x).trans (ih _)

theorem takeBerthWords_same (b : Berth) (ws : List (Nat × Word)) (s : State) : s.SameStation (takeBerthWords b ws s) := by
  have h := foldl_same (fun s x => shadowWord b x.1 x.2 s) (fun s x => (shadowWord_only b x.1 x.2 s).toSameStation) ws s
  unfold takeBerthWords; dsimp only; split
  · exact h.trans (takeRequest_same b _ _ _)
  · exact h

end Sys2Proof.Machine
end

