-- ==== Sys2Proof/Laws/Bus.lean ====
section
/-! SUPPORT. The bus path: what the arbiter and the answers to transfers change, and how a SUPERVISOR write of the
station page or of a berth page is treated. -/

namespace Sys2Proof.Machine

/-! ## What the bus path changes -/

/-- Only the faces, the pass list, the responses, the refused-transfer records, the marks of the journal's claim and the
event summary differ. -/
def State.BusOnly (s t : State) : Prop :=
  t = { s with
    bus := { s.bus with
      refused := t.bus.refused, passList := t.bus.passList, face := t.bus.face, passCount := t.bus.passCount
      resp := t.bus.resp }
    jour := { s.jour with writing := t.jour.writing }
    page := { s.page with summary := t.page.summary } }

theorem State.BusOnly.refl (s : State) : s.BusOnly s := rfl

theorem State.BusOnly.trans {s t u : State} (h : s.BusOnly t) (k : t.BusOnly u) : s.BusOnly u :=
  Eq.trans k (congrArg (fun x : State => { x with
    bus := { x.bus with
      refused := u.bus.refused, passList := u.bus.passList, face := u.bus.face, passCount := u.bus.passCount
      resp := u.bus.resp }
    jour := { x.jour with writing := u.jour.writing }
    page := { x.page with summary := u.page.summary } }) h)

theorem grant_busOnly (s : State) : s.BusOnly (grant s) := by
  unfold grant grantJournal grantPass
  split
  · rfl
  · split
    · rfl
    · rfl
    · rfl
    · split <;> rfl

theorem passOn_busOnly (i : PassItem) (s : State) : s.BusOnly (passOn i s) :=
  State.BusOnly.trans (by rfl) (grant_busOnly _)

theorem respond_busOnly (t : Tag) (r : Response) (s : State) : s.BusOnly (respond t r s) := rfl

theorem refuseTransfer_busOnly (t : Tag) (c : RefuseCause) (s : State) : s.BusOnly (refuseTransfer t c s) := rfl

theorem answerRead_busOnly (t : Tag) (a : Nat) (f : List (Option Word)) (s : State) : s.BusOnly (answerRead t a f s) := by
  unfold answerRead; split
  · rfl
  · exact passOn_busOnly _ s

theorem setRefused_busOnly (r : PerTag RefusedRecord) (s : State) :
    s.BusOnly { s with bus := { s.bus with refused := r } } := rfl

theorem clearRecords_busOnly (n len : Nat) (s : State) : s.BusOnly (clearRecords n len s) := by
  unfold clearRecords
  induction List.range len generalizing s with
  | nil => rfl
  | cons i l ih =>
    refine State.BusOnly.trans ?_ (ih _)
    dsimp only
    split
    · exact setRefused_busOnly _ s
    · exact .refl s

theorem readStation_busOnly (t : Tag) (a n len : Nat) (s : State) : s.BusOnly (readStation t a n len s) := by
  unfold readStation; dsimp only
  refine State.BusOnly.trans ?_ (answerRead_busOnly _ _ _ _)
  split
  · exact clearRecords_busOnly n len s
  · rfl

theorem readWindow_busOnly (t : Tag) (a len : Nat) (e : WindowEntry) (s : State) : s.BusOnly (readWindow t a len e s) := by
  unfold readWindow; dsimp only
  split
  · exact answerRead_busOnly _ _ _ s
  · exact answerRead_busOnly _ _ _ s
  · exact passOn_busOnly _ s

theorem acceptRead_busOnly (t : Tag) (a len : Nat) (r : Region) (s : State) : s.BusOnly (acceptRead t a len r s) := by
  unfold acceptRead; split
  · rfl
  · split
    · exact passOn_busOnly _ s
    · exact readStation_busOnly _ _ _ _ s
    · exact readWindow_busOnly _ _ _ _ s

/-! ## Partly substituted reads (R167) -/

theorem leadingWords_append_dropLeading : ∀ l : List (Option Word), (leadingWords l).map some ++ dropLeading l = l
  | [] => rfl
  | none :: _ => rfl
  | some v :: l => congrArg (some v :: ·) (leadingWords_append_dropLeading l)

theorem dropLeading_head : ∀ l : List (Option Word), dropLeading l ≠ [] → (dropLeading l).head? = some none
  | [], h => absurd rfl h
  | none :: _, _ => rfl
  | some _ :: l, h => dropLeading_head l h

theorem dropLeading_ne_nil : ∀ l : List (Option Word), none ∈ l → dropLeading l ≠ []
  | none :: _, _ => List.cons_ne_nil _ _
  | some _ :: l, h => dropLeading_ne_nil l (by simpa using h)

/-- R167: the burst of a partly substituted read is the substituted words before the span, the span, which begins and ends
with a word of memory, and the substituted words after it. -/
theorem spanRead_splits (t : Tag) (addr : Nat) (fill : List (Option Word)) (h : none ∈ fill) :
    ∃ before span after, fill = before.map some ++ span ++ after.map some ∧ span.head? = some none ∧
      span.getLast? = some none ∧
      spanRead t addr fill = { tag := t, addr := addr + 4 * before.length, load := .read before span after } := by
  have hb := leadingWords_append_dropLeading (dropLeading fill).reverse
  have hr : dropLeading (dropLeading fill).reverse ≠ [] := by
    refine dropLeading_ne_nil _ ?_
    have := dropLeading_head fill (dropLeading_ne_nil fill h)
    exact List.mem_reverse.2 (List.mem_of_head? this)
  have hs : dropLeading fill = (dropLeading (dropLeading fill).reverse).reverse ++
      (leadingWords (dropLeading fill).reverse).reverse.map some := by
    rw [List.map_reverse, ← List.reverse_append, hb, List.reverse_reverse]
  refine ⟨leadingWords fill, (dropLeading (dropLeading fill).reverse).reverse,
    (leadingWords (dropLeading fill).reverse).reverse, ?_, ?_, ?_, rfl⟩
  · rw [List.append_assoc, ← hs, leadingWords_append_dropLeading]
  · have := dropLeading_head fill (dropLeading_ne_nil fill h)
    rw [hs, List.head?_append] at this
    revert this
    cases hx : (dropLeading (dropLeading fill).reverse).reverse with
    | nil => exact absurd (List.reverse_eq_nil_iff.1 hx) hr
    | cons a l => simp
  · rw [List.getLast?_reverse, dropLeading_head _ hr]

/-- R167: the answer to a read: at once where every word is substituted, else after a memory-face transfer. -/
theorem answerRead_cases (t : Tag) (addr : Nat) (fill : List (Option Word)) (s : State) :
    ((∀ x ∈ fill, x.isSome = true) ∧ answerRead t addr fill s = respond t (.done (fill.map (·.getD 0))) s) ∨
      (none ∈ fill ∧ answerRead t addr fill s = passOn (spanRead t addr fill) s) := by
  unfold answerRead
  by_cases h : (fill.all fun x => x.isSome) = true
  · exact .inl ⟨fun x hx => List.all_eq_true.1 h x hx, if_pos h⟩
  · refine .inr ⟨?_, if_neg h⟩
    simpa using h

/-! ## The arbiter (R173) -/

theorem grant_busy (s : State) (h : s.bus.face.isSome = true) : grant s = s := by
  unfold grant; rw [if_pos h]

theorem grant_pass (s : State) (i : PassItem) (l : List PassItem) (h : s.bus.face = none)
    (hp : s.bus.passList = i :: l) (hc : waitingClaim s = none ∨ s.bus.passCount ≠ 4) : grant s = grantPass i l s := by
  unfold grant
  rw [h, hp]
  simp only [Option.isSome_none, Bool.false_eq_true, if_false]
  cases hw : waitingClaim s with
  | none => rfl
  | some w =>
    rcases hc with hc | hc
    · rw [hw] at hc; cases hc
    · simp only [hc, if_false]

theorem grant_journal (s : State) (w : Writing) (h : s.bus.face = none) (hw : waitingClaim s = some w)
    (hc : s.bus.passList = [] ∨ s.bus.passCount = 4) : grant s = grantJournal w s := by
  unfold grant
  rw [h, hw]
  simp only [Option.isSome_none, Bool.false_eq_true, if_false]
  cases hp : s.bus.passList with
  | nil => rfl
  | cons i l =>
    rcases hc with hc | hc
    · rw [hp] at hc; cases hc
    · simp only [hc, if_true]

theorem grant_idle (s : State) (hp : s.bus.passList = []) (hw : waitingClaim s = none) : grant s = s := by
  unfold grant; rw [hp, hw]; split <;> rfl

/-! ## Writes of the SUPERVISOR -/

theorem offerTransfer_takes (x : Transfer) (s : State) (h : s.Takes x.tag) : offerTransfer x s = acceptNow x s := by
  unfold offerTransfer; rw [h.1, h.2]; rfl

theorem stationRegion (s : State) (n len : Nat) (h : n + len ≤ 256) :
    s.burstRegion (Config.stationPageBase + 4 * n) len = some .station := by
  have e : ∀ a, Config.stationPageBase ≤ a → s.region a = .station := by
    intro a ha; unfold State.region; rw [if_pos ha]
  unfold State.burstRegion
  dsimp only
  rw [e _ (by omega), if_pos]
  refine ⟨by unfold Config.stationPageBase Config.topOfMemory; omega, ?_⟩
  rw [List.all_eq_true]
  intro i _
  rw [e _ (by omega)]
  rfl

/-- R175: a SUPERVISOR write of the station page is taken word by word and passes to memory. -/
theorem stationWrite_next (s : State) (n : Nat) (ws : List Word) (h : s.Takes .supervisor) (h1 : 1 ≤ ws.length)
    (h8 : ws.length ≤ 8) (hn : n + ws.length ≤ 256) :
    acceptTransfer (stationWrite n ws) s = .next (passOn (stationItem n ws) (takeStationWords (numbered n ws) s)) := by
  have ea : (stationWrite n ws).addr.toNat = Config.stationPageBase + 4 * n := by
    simp only [stationWrite, BitVec.toNat_ofNat]
    unfold Config.stationPageBase
    omega
  have el : (stationWrite n ws).len = ws.length := rfl
  have wf : (stationWrite n ws).wellFormed = true := by
    unfold Transfer.wellFormed
    rw [ea, el]
    unfold Config.stationPageBase
    simp only [Bool.and_eq_true, beq_iff_eq, decide_eq_true_eq]
    omega
  unfold acceptTransfer
  rw [if_pos wf, offerTransfer_takes _ _ h]
  unfold acceptNow
  rw [if_neg (by simp [stationWrite]), ea, el, stationRegion s n _ hn]
  simp only [stationWrite, acceptWrite, writeStation, if_true, passWrite, Nat.add_sub_cancel_left]
  rw [Nat.mul_div_cancel_left n (by decide)]
  rfl

/-- R175: a single word. -/
theorem stationWord_next (s : State) (n : Nat) (v : Word) (h : s.Takes .supervisor) (hn : n < 256) :
    acceptTransfer (stationWrite n [v]) s = .next (passOn (stationItem n [v]) (takeStationWord n v s)) :=
  stationWrite_next s n [v] h (by simp) (by simp) (by simpa using hn)

/-! ## Windows (R162) -/

theorem covers_iff (e : WindowEntry) (a : Nat) :
    e.covers a = true ↔ e.kind ≠ .none ∧ e.base ≤ a ∧ a < e.base + e.size := by
  unfold WindowEntry.covers
  simp only [Bool.and_eq_true, bne_iff_ne, ne_eq, decide_eq_true_eq]

theorem regionIn_first (t : List WindowEntry) (e : WindowEntry) (he : e ∈ t)
    (hp : t.Pairwise WindowEntry.Apart) (k : Nat) :
    ∃ n, ∀ x, e.covers x = true → regionIn k t x = .window n e := by
  induction t generalizing k with
  | nil => cases he
  | cons c t ih =>
    by_cases h : c = e
    · exact ⟨k, fun x hx => by unfold regionIn; rw [h, if_pos hx]⟩
    · have he' : e ∈ t := by
        rcases List.mem_cons.mp he with h' | h'
        · exact absurd h'.symm h
        · exact h'
      rw [List.pairwise_cons] at hp
      obtain ⟨n, hn'⟩ := ih he' hp.2 (k + 1)
      refine ⟨n, fun x hx => ?_⟩
      unfold regionIn
      have ap := hp.1 e he'
      rw [if_neg, hn' x hx]
      intro hcx
      rw [covers_iff] at hcx hx
      rcases ap with ap | ap | ap
      · exact hcx.1 ap
      · exact hx.1 ap
      · omega

/-- R162: all words of a window of the table are classified as that window. -/
theorem windowRegion (s : State) (e : WindowEntry) (h : s.TableOk) (he : e ∈ s.bus.table) (hk : e.kind ≠ .none) :
    ∃ n, ∀ a, e.base ≤ a → a < e.base + e.size → s.region a = .window n e := by
  obtain ⟨-, hok, hp, -⟩ := h
  have ok := hok e he
  rcases ok with ok | ok
  · exact absurd ok hk
  · obtain ⟨n, hn⟩ := regionIn_first s.bus.table e he hp 0
    refine ⟨n, fun a h1 h2 => ?_⟩
    unfold State.region
    rw [if_neg (by omega)]
    exact hn a (by rw [covers_iff]; exact ⟨hk, h1, h2⟩)

/-- R162: a burst that lies in a window is classified as that window. -/
theorem windowBurst (s : State) (e : WindowEntry) (h : s.TableOk) (he : e ∈ s.bus.table) (hk : e.kind ≠ .none) :
    ∃ n, ∀ a len, e.base ≤ a → 1 ≤ len → a + 4 * len ≤ e.base + e.size →
      s.burstRegion a len = some (.window n e) := by
  obtain ⟨n, hn⟩ := windowRegion s e h he hk
  have ok := h.2.1 e he
  rcases ok with ok | ok
  · exact absurd ok hk
  · refine ⟨n, fun a len h1 h2 h3 => ?_⟩
    have es := ok.2.2.2.2.1
    have top : Config.stationPageBase ≤ Config.topOfMemory := by decide
    unfold State.burstRegion
    dsimp only
    rw [hn a h1 (by omega), if_pos]
    refine ⟨by omega, ?_⟩
    rw [List.all_eq_true]
    intro i hi
    rw [List.mem_range] at hi
    rw [hn (a + 4 * i) (by omega) (by omega)]
    simp

theorem berthWindow_mem {s : State} {k : WindowKind} {b : Berth} {e : WindowEntry} (h : s.berthWindow k b = some e) :
    e ∈ s.bus.table ∧ e.kind = k ∧ e.berth = b.num := by
  unfold State.berthWindow at h
  have h1 := List.mem_of_find?_eq_some h
  have h2 := List.find?_some h
  simp only [Bool.and_eq_true, beq_iff_eq] at h2
  exact ⟨h1, h2.1, h2.2⟩

theorem findWindow_mem {t : List WindowEntry} {k : WindowKind} {e : WindowEntry} (h : findWindow t k = some e) :
    e ∈ t ∧ e.kind = k := by
  unfold findWindow at h
  have h2 := List.find?_some h
  simp only [beq_iff_eq] at h2
  exact ⟨List.mem_of_find?_eq_some h, h2⟩

theorem regionIn_mem {t : List WindowEntry} {k a n : Nat} {e : WindowEntry} (h : regionIn k t a = .window n e) :
    e ∈ t ∧ e.covers a = true := by
  induction t generalizing k with
  | nil => simp [regionIn] at h
  | cons c t ih =>
    unfold regionIn at h
    split at h
    · next hc => rw [Region.window.injEq] at h; exact ⟨by rw [h.2]; exact List.mem_cons_self, by rw [← h.2]; exact hc⟩
    · obtain ⟨hm, hc⟩ := ih h
      exact ⟨List.mem_cons_of_mem c hm, hc⟩

/-- R162: a burst classified as a window begins in that window of the table. -/
theorem burstRegion_mem {s : State} {a len n : Nat} {e : WindowEntry} (h : s.burstRegion a len = some (.window n e)) :
    e ∈ s.bus.table ∧ e.kind ≠ .none ∧ e.base ≤ a ∧ a < e.base + e.size := by
  unfold State.burstRegion at h
  dsimp only at h
  split at h
  · rw [Option.some.injEq] at h
    unfold State.region at h
    split at h
    · cases h
    · obtain ⟨hm, hc⟩ := regionIn_mem h
      exact ⟨hm, (covers_iff e a).mp hc⟩
  · cases h

/-- R164: of one kind the table has one entry, but for MEASURE and BERTH_PAGE, of which it has one for each berth. -/
theorem entry_unique {s : State} (h : s.TableOk) {e c : WindowEntry} (he : e ∈ s.bus.table) (hc : c ∈ s.bus.table)
    (hk : e.kind ≠ .none) (hs : e.kind = c.kind) (hb : e.berth = c.berth ∨ (e.kind ≠ .measure ∧ e.kind ≠ .berthPage)) :
    e = c := by
  have key : ∀ x y : WindowEntry, x.Apart y → x.kind = e.kind → y.kind = e.kind →
      x.berth = y.berth ∨ (e.kind ≠ .measure ∧ e.kind ≠ .berthPage) → False := by
    intro x y ap hx hy hxy
    rcases ap with ap | ap | ap
    · exact hk (hx.symm.trans ap)
    · exact hk (hy.symm.trans ap)
    · obtain ⟨hm, hn⟩ := ap.2 (hx.trans hy.symm)
      rcases hxy with hxy | hxy
      · exact hn hxy
      · rw [hx] at hm; rcases hm with hm | hm
        · exact hxy.1 hm
        · exact hxy.2 hm
  by_contra hne
  obtain ⟨i, hi, rfl⟩ := List.mem_iff_getElem.mp he
  obtain ⟨j, hj, rfl⟩ := List.mem_iff_getElem.mp hc
  rcases Nat.lt_trichotomy i j with hij | hij | hij
  · exact key _ _ (List.pairwise_iff_getElem.mp h.2.2.1 i j hi hj hij) rfl hs.symm hb
  · subst hij; exact hne rfl
  · exact key _ _ (List.pairwise_iff_getElem.mp h.2.2.1 j i hj hi hij) hs.symm rfl (hb.imp Eq.symm id)

/-- R164: an entry of a kind that stands once for each berth is the one that its berth's commands find. -/
theorem berthWindow_of_mem {s : State} {e : WindowEntry} {b : Berth} (h : s.TableOk) (he : e ∈ s.bus.table)
    (hk : e.kind ≠ .none) (hb : e.berth = b.num) : s.berthWindow e.kind b = some e := by
  cases hf : s.berthWindow e.kind b with
  | none =>
    unfold State.berthWindow at hf
    rw [List.find?_eq_none] at hf
    exact absurd (by simp [hb]) (hf e he)
  | some c =>
    obtain ⟨hm, hck, hcb⟩ := berthWindow_mem hf
    rw [entry_unique h he hm hk hck.symm (.inl (hb.trans hcb.symm))]

/-- R164: an entry of a kind that stands once is the one that a search for its kind finds. -/
theorem findWindow_of_mem {s : State} {e : WindowEntry} (h : s.TableOk) (he : e ∈ s.bus.table) (hk : e.kind ≠ .none)
    (hs : e.kind ≠ .measure ∧ e.kind ≠ .berthPage) : findWindow s.bus.table e.kind = some e := by
  cases hf : findWindow s.bus.table e.kind with
  | none =>
    unfold findWindow at hf
    rw [List.find?_eq_none] at hf
    exact absurd (by simp) (hf e he)
  | some c =>
    obtain ⟨hm, hck⟩ := findWindow_mem hf
    rw [entry_unique h he hm hk hck.symm (.inr hs)]

theorem berth_ofNat_num (b : Berth) : Berth.ofNat? b.num = some b := by cases b <;> rfl

theorem module_ofNat_num (m : ModuleId) : ModuleId.ofNat? m.num = some m := by cases m <;> rfl

theorem module_num_lt (m : ModuleId) : m.num < 8 := by cases m <;> decide

/-- A write into a window of the table, as its treatment takes it. -/
theorem intoWindow_write (s : State) (e : WindowEntry) (t : Tag) (off : Nat) (ws : List Word) (h : s.TableOk)
    (he : e ∈ s.bus.table) (hk : e.kind ≠ .none) (ht : s.Takes t) (hu : t ≠ .unknown) (h4 : off % 4 = 0)
    (h1 : 1 ≤ ws.length) (h8 : ws.length ≤ 8) (hs : off + 4 * ws.length ≤ e.size) :
    acceptTransfer { tag := t, addr := BitVec.ofNat 24 (e.base + off), access := .write ws } s =
      .next (writeWindow t (e.base + off) ws e s) := by
  have ok := h.2.1 e he
  rcases ok with ok | ok
  · exact absurd ok hk
  · have es : Config.stationPageBase = 16776192 := rfl
    have ea : (BitVec.ofNat 24 (e.base + off)).toNat = e.base + off := by
      rw [BitVec.toNat_ofNat]; omega
    have wf : Transfer.wellFormed { tag := t, addr := BitVec.ofNat 24 (e.base + off), access := .write ws } = true := by
      unfold Transfer.wellFormed Transfer.len
      simp only [ea, Bool.and_eq_true, beq_iff_eq, decide_eq_true_eq]
      omega
    obtain ⟨n, hn⟩ := windowBurst s e h he hk
    unfold acceptTransfer
    rw [if_pos wf, offerTransfer_takes _ _ ht]
    unfold acceptNow
    rw [if_neg hu]
    simp only [ea, Transfer.len]
    rw [hn _ _ (by omega) h1 (by omega)]
    rfl

/-- R99: a SUPERVISOR write of words 0 to 7 of a berth page is taken and passes to memory. -/
theorem berthWrite_next (s : State) (b : Berth) (e : WindowEntry) (n : Nat) (ws : List Word) (h : s.TableOk)
    (he : s.berthWindow .berthPage b = some e) (ht : s.Takes .supervisor) (h1 : 1 ≤ ws.length)
    (hn : n + ws.length ≤ 8) :
    berthWrite b n ws s =
      .next (passOn (writeItem .supervisor (e.base + 4 * n) ws) (takeBerthWords b (numbered n ws) s)) := by
  obtain ⟨hm, hk, hb⟩ := berthWindow_mem he
  have hk' : e.kind ≠ .none := by rw [hk]; decide
  have hsz : e.size = 256 := by
    rcases h.2.1 e hm with ok | ok
    · exact absurd ok hk'
    · exact ok.2.2.2.2.2.2 (.inl hk)
  unfold berthWrite intoWindow
  rw [he]
  dsimp only
  rw [intoWindow_write s e .supervisor (4 * n) ws h hm hk' ht (by decide) (by omega) h1 (by omega) (by omega)]
  unfold writeWindow
  rw [hk]
  dsimp only
  unfold writeBerthPage
  dsimp only
  rw [hb, berth_ofNat_num, Nat.add_sub_cancel_left, Nat.mul_div_cancel_left n (by decide)]
  dsimp only
  rw [if_pos hn]
  rfl

/-- R59: a METER write of a record at a 16-byte place of a MEASURE window is handed to the intake and passes. -/
theorem measurementRecord_next (s : State) (b : Berth) (e : WindowEntry) (k : Nat) (w0 w1 w2 w3 : Word)
    (h : s.TableOk) (he : s.berthWindow .measure b = some e) (ht : s.Takes .meter) (hs : 16 * k + 16 ≤ e.size) :
    execMeasurementRecord b k w0 w1 w2 w3 s =
      .next (passOn (writeItem .meter (e.base + 16 * k) [w0, w1, w2, w3]) (takeMeasurement b w0 w1 w2 w3 s)) := by
  obtain ⟨hm, hk, hb⟩ := berthWindow_mem he
  have hk' : e.kind ≠ .none := by rw [hk]; decide
  have hbase : e.base % 256 = 0 := by
    rcases h.2.1 e hm with ok | ok
    · exact absurd ok hk'
    · exact ok.1
  unfold execMeasurementRecord intoWindow
  rw [he]
  dsimp only
  rw [intoWindow_write s e .meter (16 * k) [w0, w1, w2, w3] h hm hk' ht (by decide) (by omega) (by simp) (by simp)
    (by simpa using hs)]
  unfold writeWindow
  rw [hk]
  dsimp only
  unfold writeMeasure
  rw [hb, berth_ofNat_num, show (e.base + 16 * k) % 16 = 0 by omega]
  rfl

/-- R21: a LINK write of a module's eight-word record in MODULE_STAT is handed to the pool and passes. -/
theorem moduleStatusRecord_next (s : State) (m : ModuleId) (e : WindowEntry) (ws : List Word) (h : s.TableOk)
    (he : findWindow s.bus.table .moduleStat = some e) (ht : s.Takes .link) (hl : ws.length = 8) :
    execModuleStatusRecord m ws s =
      .next (passOn (writeItem .link (e.base + 32 * m.num) ws) (statusRecord m ws s)) := by
  obtain ⟨hm, hk⟩ := findWindow_mem he
  have hk' : e.kind ≠ .none := by rw [hk]; decide
  have hsz : e.size = 256 := by
    rcases h.2.1 e hm with ok | ok
    · exact absurd ok hk'
    · exact ok.2.2.2.2.2.2 (.inr (.inr hk))
  have hlt := module_num_lt m
  unfold execModuleStatusRecord intoWindow
  rw [he]
  dsimp only
  rw [intoWindow_write s e .link (32 * m.num) ws h hm hk' ht (by decide) (by omega) (by omega) (by omega) (by omega)]
  unfold writeWindow
  rw [hk]
  dsimp only
  unfold writeStatus
  rw [Nat.add_sub_cancel_left, Nat.mul_div_cancel_left m.num (by decide), module_ofNat_num]
  dsimp only
  rw [if_pos ⟨hl, by omega⟩]
  rfl

end Sys2Proof.Machine
end

