-- ==== Sys2Proof/Laws/Commands.lean ====
section
/-! SUPPORT. What the words of the station page and the treatments of transfers leave as it was: the count, TIMEBASE, the
reset line, the waiting commands and plant memory. -/

namespace Sys2Proof.Machine

/-- The count, TIMEBASE, the reset line, the waiting commands and plant memory are the same. -/
structure State.SameCore (s t : State) : Prop where
  now : t.now = s.now
  tbPhase : t.tbPhase = s.tbPhase
  tbValue : t.tbValue = s.tbValue
  resetLow : t.resetLow = s.resetLow
  pending : t.pending = s.pending
  mem : t.bus.mem = s.bus.mem

theorem State.SameCore.refl (s : State) : s.SameCore s := ⟨rfl, rfl, rfl, rfl, rfl, rfl⟩

theorem State.SameCore.trans {s t u : State} (h : s.SameCore t) (k : t.SameCore u) : s.SameCore u :=
  ⟨k.now.trans h.now, k.tbPhase.trans h.tbPhase, k.tbValue.trans h.tbValue, k.resetLow.trans h.resetLow,
    k.pending.trans h.pending, k.mem.trans h.mem⟩

theorem State.SameStation.core {s t : State} (h : s.SameStation t) : s.SameCore t :=
  ⟨h.now, h.tbPhase, h.tbValue, h.resetLow, h.pending, congrArg Bus.mem h.bus⟩

theorem State.BusOnly.core {s t : State} (h : s.BusOnly t) : s.SameCore t := by
  rw [h]; exact ⟨rfl, rfl, rfl, rfl, rfl, rfl⟩

theorem forBerths_core {f : Berth → State → State} (h : ∀ b (s : State), s.SameCore (f b s)) (s : State) :
    s.SameCore (forBerths f s) := ((h .b0 _).trans (h .b1 _)).trans (h .b2 _)

theorem forBerths_same {f : Berth → State → State} (h : ∀ b (s : State), s.SameStation (f b s)) (s : State) :
    s.SameStation (forBerths f s) := ((h .b0 _).trans (h .b1 _)).trans (h .b2 _)

theorem withClock_core (s : State) (c : Clock) : s.SameCore { s with clock := c } := ⟨rfl, rfl, rfl, rfl, rfl, rfl⟩

theorem withPage_core (s : State) (p : Page) : s.SameCore { s with page := p } := ⟨rfl, rfl, rfl, rfl, rfl, rfl⟩

theorem withJour_core (s : State) (j : Journal) : s.SameCore { s with jour := j } := ⟨rfl, rfl, rfl, rfl, rfl, rfl⟩

theorem withService_core (s : State) (r : ServiceResult) : s.SameCore { s with service := r } :=
  ⟨rfl, rfl, rfl, rfl, rfl, rfl⟩

/-! ## Clock -/

theorem markMetrology_same (b : Berth) (s : State) : s.SameStation (markMetrology b s) :=
  (updSession_only b _ s).toSameStation

theorem boundaryInterval_same (b : Berth) (s : State) : s.SameStation (boundaryInterval b s) := by
  unfold boundaryInterval; split
  · exact .refl s
  · exact (splitInterval_only _ _ _ b s).toSameStation

theorem metrologyIntoForce_core (s : State) : s.SameCore (metrologyIntoForce s) := by
  unfold metrologyIntoForce; split
  · exact .refl s
  · dsimp only
    split
    · exact withClock_core s _
    · exact (withClock_core s _).trans (forBerths_same markMetrology_same _).core

theorem boundary_core (s : State) : s.SameCore (boundary s) := by
  unfold boundary; dsimp only
  exact ((forBerths_same boundaryInterval_same s).core.trans (metrologyIntoForce_core _)).trans (withClock_core _ _)

theorem tick_core (s : State) : s.SameCore (tick s) := by
  unfold tick; dsimp only; split
  · exact (withClock_core s _).trans (boundary_core _)
  · exact withClock_core s _

theorem timeSet_core (v : Word) (s : State) : s.SameCore (timeSet v s) := by
  unfold timeSet; dsimp only; split
  · exact .refl s
  · have h : ∀ (x y : StationTime) (t : State), t.SameCore (forBerths (splitInterval x y true) t) := fun x y t =>
      (forBerths_same (fun b s => (splitInterval_only x y true b s).toSameStation) t).core
    exact (((withClock_core s _).trans (h _ _ _)).trans (withClock_core _ _)).trans
      (emitEvent_only .b0 _ _ _ _ _).toSameStation.core

/-! ## Commits -/

theorem rebaseIntake_core (s : State) : s.SameCore (rebaseIntake s) :=
  (forBerths_same (fun b s => ((updMeas_only b _ s).trans (updSync_only b _ _)).toSameStation) s).core

theorem commitBerth_core (b : Berth) (s : State) : s.SameCore (commitBerth b s) := by
  unfold commitBerth; split <;> exact ⟨rfl, rfl, rfl, rfl, rfl, rfl⟩

theorem applySection_core (x : Section) (s : State) : s.SameCore (applySection x s) := by
  cases x
  · have h : ∀ (t : List WindowEntry), s.SameCore { s with bus := { s.bus with table := t, firstCommit := true } } :=
      fun _ => ⟨rfl, rfl, rfl, rfl, rfl, rfl⟩
    exact (h _).trans (rebaseIntake_core _)
  · exact forBerths_core commitBerth_core s
  · show s.SameCore (commitPool s)
    unfold commitPool
    refine .trans ?_ (tryPool_same _).core
    exact (forModules_modsOnly (fun m s => updMod_modsOnly m _ s) s).same.core
  · exact ⟨rfl, rfl, rfl, rfl, rfl, rfl⟩
  · exact ⟨rfl, rfl, rfl, rfl, rfl, rfl⟩
  · show s.SameCore (commitMetrology s)
    unfold commitMetrology metrologyCommitted admitConfig; dsimp only
    split <;> exact ⟨rfl, rfl, rfl, rfl, rfl, rfl⟩
  · exact ⟨rfl, rfl, rfl, rfl, rfl, rfl⟩

theorem applyList_core (mask : Word) (l : List Section) (s : State) :
    s.SameCore (l.foldl (fun t x => if names mask x then applySection x t else t) s) := by
  induction l generalizing s with
  | nil => exact .refl s
  | cons x l ih =>
    refine .trans ?_ (ih _)
    dsimp only
    split
    · exact applySection_core x s
    · exact .refl s

theorem rewindRing_core (old new : State) : new.SameCore (rewindRing old new) := by
  unfold rewindRing; split
  · exact .refl new
  · exact ⟨rfl, rfl, rfl, rfl, rfl, rfl⟩

theorem commit_core (mask : Word) (s : State) : s.SameCore (commit mask s) := by
  unfold commit; dsimp only
  have h : ∀ (r : CommitOutcome × Offence) (t : State), t.SameCore (recordCommit mask r t) := fun r t =>
    (withPage_core t _).trans (setSummary_only .b0 _ _).toSameStation.core
  refine .trans ?_ (h _ _)
  split
  · exact ((applyList_core mask Section.list s).trans (rewindRing_core s _)).trans (withPage_core _ _)
  · exact .refl s

/-! ## Control words -/

theorem heartbeat_core (s : State) : s.SameCore (heartbeat s) := by
  unfold heartbeat; split
  · exact .refl s
  · exact ⟨rfl, rfl, rfl, rfl, rfl, rfl⟩
  · exact ⟨rfl, rfl, rfl, rfl, rfl, rfl⟩
  · exact ((withPage_core s _).trans (forBerths_same (fun b s => (supervisorRestored_only b s).toSameStation) _).core).trans
      (emitEvent_only .b0 _ _ _ _ _).toSameStation.core

theorem heartbeatLost_core (s : State) : s.SameCore (heartbeatLost s) :=
  (((withPage_core s _).trans (setSummary_only .b0 _ _).toSameStation.core).trans
    (forBerths_same (fun b s => (supervisorLost_only b s).toSameStation) _).core).trans
    (emitEvent_only .b0 _ _ _ _ _).toSameStation.core

theorem acknowledge_core (w : Word) (s : State) : s.SameCore (acknowledge w s) := by
  unfold acknowledge readyCleared; dsimp only
  split
  · split <;> exact ⟨rfl, rfl, rfl, rfl, rfl, rfl⟩
  · exact ⟨rfl, rfl, rfl, rfl, rfl, rfl⟩

theorem unlockWrite_core (v : Word) (s : State) : s.SameCore (unlockWrite v s) := by
  unfold unlockWrite setUnlock; split
  · split <;> exact ⟨rfl, rfl, rfl, rfl, rfl, rfl⟩
  · split <;> exact ⟨rfl, rfl, rfl, rfl, rfl, rfl⟩
  · exact ⟨rfl, rfl, rfl, rfl, rfl, rfl⟩

theorem journalCommand_core (v : Word) (s : State) : s.SameCore (journalCommand v s) := by
  unfold journalCommand; split
  · unfold journalStart; split <;> exact ⟨rfl, rfl, rfl, rfl, rfl, rfl⟩
  · unfold journalStop; split <;> exact ⟨rfl, rfl, rfl, rfl, rfl, rfl⟩
  · exact ⟨rfl, rfl, rfl, rfl, rfl, rfl⟩
  · exact .refl s

theorem consumeWrite_core (v : Word) (s : State) : s.SameCore (consumeWrite v s) := by
  unfold consumeWrite; split <;> exact ⟨rfl, rfl, rfl, rfl, rfl, rfl⟩

theorem serve_core (a : ServiceAction) (m : ModuleId) (s : State) : s.SameCore (serve a m s).2 := by
  unfold serve clearLockout; split <;> dsimp only
  · exact .refl s
  · exact .trans (updMod_modsOnly m _ s).same.core (tryPool_same _).core
  · exact (updMod_modsOnly m _ s).same.core
  · exact .trans (updMod_modsOnly m _ s).same.core (tryPool_same _).core
  · exact .refl s

theorem serviceWrite_core (v : Word) (s : State) : s.SameCore (serviceWrite v s) := by
  unfold serviceWrite serviceRequest; dsimp only
  split
  · split
    · exact ⟨rfl, rfl, rfl, rfl, rfl, rfl⟩
    · exact (serve_core _ _ s).trans (withService_core _ _)
  · exact ⟨rfl, rfl, rfl, rfl, rfl, rfl⟩

theorem takeStationWord_core (n : Nat) (v : Word) (s : State) : s.SameCore (takeStationWord n v s) := by
  unfold takeStationWord; split
  · exact ⟨rfl, rfl, rfl, rfl, rfl, rfl⟩
  · split
    · exact heartbeat_core s
    · exact acknowledge_core v s
    · exact unlockWrite_core v s
    · exact journalCommand_core v s
    · exact consumeWrite_core v s
    · exact ⟨rfl, rfl, rfl, rfl, rfl, rfl⟩
    · exact timeSet_core v s
    · exact serviceWrite_core v s
    · exact ⟨rfl, rfl, rfl, rfl, rfl, rfl⟩
    · exact commit_core v s
    · exact .refl s

theorem takeStationWords_core (ws : List (Nat × Word)) (s : State) : s.SameCore (takeStationWords ws s) := by
  unfold takeStationWords
  induction ws generalizing s with
  | nil => exact .refl s
  | cons x l ih => exact (takeStationWord_core x.1 x.2 s).trans (ih _)

/-! ## Transfers -/

theorem passWrite_core (t : Tag) (a : Nat) (ws : List Word) (s : State) : s.SameCore (passWrite t a ws s) :=
  (passOn_busOnly _ s).core

theorem acceptWrite_core (t : Tag) (a : Nat) (ws : List Word) (r : Region) (s : State) :
    s.SameCore (acceptWrite t a ws r s) := by
  unfold acceptWrite; split
  · exact passWrite_core _ _ _ s
  · unfold writeStation; split
    · exact (takeStationWords_core _ s).trans (passWrite_core _ _ _ _)
    · exact (refuseTransfer_busOnly _ _ s).core
  · unfold writeWindow; split
    · unfold writeMeasure; split
      · exact (takeMeasurement_same _ _ _ _ _ s).core.trans (passWrite_core _ _ _ _)
      · exact (refuseTransfer_busOnly _ _ s).core
    · unfold writeStatus; split
      · split
        · exact (statusRecord_same _ _ s).core.trans (passWrite_core _ _ _ _)
        · exact (refuseTransfer_busOnly _ _ s).core
      · exact (refuseTransfer_busOnly _ _ s).core
    · unfold writeBerthPage; dsimp only; split
      · split
        · exact (takeBerthWords_same _ _ s).core.trans (passWrite_core _ _ _ _)
        · exact (refuseTransfer_busOnly _ _ s).core
      · exact (refuseTransfer_busOnly _ _ s).core
    · exact (refuseTransfer_busOnly _ _ s).core

theorem offerTransfer_core (x : Transfer) (s : State) : s.SameCore (offerTransfer x s) := by
  unfold offerTransfer; split
  · exact .refl s
  · unfold acceptNow; split
    · exact (refuseTransfer_busOnly _ _ s).core
    · split
      · exact (refuseTransfer_busOnly _ _ s).core
      · split
        · exact (acceptRead_busOnly _ _ _ _ s).core
        · exact acceptWrite_core _ _ _ _ s

/-- A transfer's treatment leaves the core as it was. -/
theorem acceptTransfer_core {x : Transfer} {s t : State} (h : acceptTransfer x s = .next t) : s.SameCore t := by
  unfold acceptTransfer at h
  split at h
  · cases h; exact offerTransfer_core x s
  · cases h

theorem intoWindow_core {w : Option WindowEntry} {f : Nat → Transfer} {s t : State}
    (h : intoWindow w f s = .next t) : s.SameCore t := by
  unfold intoWindow at h
  split at h
  · cases h; exact .refl s
  · exact acceptTransfer_core h

/-- A time-driven command leaves the core as its effect leaves it. -/
theorem whenDue_core {c : Instr} {f : State → State} {s t : State} (hf : s.SameCore (f s))
    (h : Host.Outcome.next (whenDue c f s) = (Host.Outcome.next t : Result)) : s.SameCore t := by
  cases h
  unfold whenDue; split
  · exact hf
  · exact .refl s

end Sys2Proof.Machine
end

