-- ==== Sys2Proof/Laws/Records.lean ====
section
/-! SUPPORT. Operations that keep the measurement records, and operations that keep what the modules have reported. -/

namespace Sys2Proof.Machine

/-! ## Measurement records -/

@[simp] theorem enterState_meas (b : Berth) (n : BerthState) (s : State) : (enterState b n s).meas = s.meas := by
  obtain ⟨ms, -, e⟩ := enterState_spec b n s; rw [e]

@[simp] theorem emitEvent_meas (c : EventCode) (q : Nat) (o : Option Berth) (ws : List Word) (s : State) :
    (emitEvent c q o ws s).meas = s.meas := by
  unfold emitEvent admitEvent; split <;> rfl

@[simp] theorem admitBilling_meas (b : Berth) (r : Record) (s : State) : (admitBilling b r s).meas = s.meas := by
  unfold admitBilling; split <;> rfl

@[simp] theorem writeResult_meas (b : Berth) (k : BitVec 8) (t : BitVec 16) (o : ReqOutcome) (c : Option Cause)
    (v : Option (BitVec 16)) (s : State) : (writeResult b k t o c v s).meas = s.meas := rfl

@[simp] theorem completeCurrent_meas (b : Berth) (o : ReqOutcome) (c : Option Cause) (s : State) :
    (completeCurrent b o c s).meas = s.meas := by
  unfold completeCurrent; split <;> rfl

@[simp] theorem refreshDirection_meas (b : Berth) (s : State) : (refreshDirection b s).meas = s.meas := by
  obtain ⟨ms, -, e⟩ := refreshDirection_spec b s; rw [e]

@[simp] theorem recomputeShares_meas (b : Berth) (s : State) : (recomputeShares b s).meas = s.meas := by
  obtain ⟨ms, -, e⟩ := recomputeShares_spec b s; rw [e]

@[simp] theorem judge_meas (b : Berth) (s : State) : (judge b s).meas = s.meas := rfl

@[simp] theorem holdIfStale_meas (b : Berth) (s : State) : (holdIfStale b s).meas = s.meas := by
  rw [holdIfStale_eq]

@[simp] theorem firstEnergised_meas (b : Berth) (s : State) : (firstEnergised b s).meas = s.meas := by
  unfold firstEnergised; split
  · rfl
  · simp [openSession]

@[simp] theorem becomeEnergised_meas (b : Berth) (s : State) : (becomeEnergised b s).meas = s.meas := by
  unfold becomeEnergised; dsimp only; split <;> simp

@[simp] theorem checkEnergising_meas (b : Berth) (s : State) : (checkEnergising b s).meas = s.meas := by
  unfold checkEnergising; split <;> simp

@[simp] theorem predict_meas (b : Berth) (s : State) : (predict b s).meas = s.meas := by
  unfold predict; split <;> rfl

@[simp] theorem evaluate_meas (b : Berth) (s : State) : (evaluate b s).meas = s.meas := by
  unfold evaluate; dsimp only; split
  · split
    · rw [predict_meas]; split
      · rw [enterState_meas]; rfl
      · rfl
    · split
      · rw [enterState_meas]; rfl
      · rfl
  · rfl

@[simp] theorem controlledOpen_meas (b : Berth) (c : OpenCause) (s : State) : (controlledOpen b c s).meas = s.meas := by
  unfold controlledOpen issueTrip; rw [State.updSync_meas, enterState_meas]; rfl

@[simp] theorem compareRelease_meas (b : Berth) (p : Int) (s : State) : (compareRelease b p s).meas = s.meas := by
  unfold compareRelease; split
  · exact controlledOpen_meas b _ s
  · rfl

@[simp] theorem feederAccepted_meas (b : Berth) (s : State) : (feederAccepted b s).meas = s.meas := by
  unfold feederAccepted; rw [judge_meas, refreshDirection_meas]; rfl

/-! ## What the modules have reported -/

/-- Presence, rating, latest status, stale mark, fit flag and bad-status count are the same. -/
structure Module.SameReport (r x : Module) : Prop where
  present : x.present = r.present
  rating : x.rating = r.rating
  latest : x.latest = r.latest
  stale : x.stale = r.stale
  fit : x.fit = r.fit
  badCount : x.badCount = r.badCount

theorem Module.SameReport.refl (r : Module) : r.SameReport r := ⟨rfl, rfl, rfl, rfl, rfl, rfl⟩

theorem Module.SameReport.trans {r x y : Module} (h : r.SameReport x) (k : x.SameReport y) : r.SameReport y :=
  ⟨k.present.trans h.present, k.rating.trans h.rating, k.latest.trans h.latest, k.stale.trans h.stale,
    k.fit.trans h.fit, k.badCount.trans h.badCount⟩

theorem Module.SameButDrive.report {r x : Module} (h : r.SameButDrive x) : r.SameReport x := by
  rw [h]; exact ⟨rfl, rfl, rfl, rfl, rfl, rfl⟩

/-- Every module's report is the same. -/
def State.SameReports (s t : State) : Prop := ∀ m, (s.mods.get m).SameReport (t.mods.get m)

theorem State.SameReports.refl (s : State) : s.SameReports s := fun _ => .refl _

theorem State.SameReports.trans {s t u : State} (h : s.SameReports t) (k : t.SameReports u) : s.SameReports u :=
  fun m => (h m).trans (k m)

theorem sameReports_of_mods {s t : State} (h : t.mods = s.mods) : s.SameReports t := fun m => by
  rw [h]; exact .refl _

theorem updMod_reports (m : ModuleId) (f : Module → Module) (s : State) (h : (s.mods.get m).SameReport (f (s.mods.get m))) :
    s.SameReports (s.updMod m f) := fun k => by
  by_cases e : k = m
  · subst e; rw [State.updMod_self]; exact h
  · rw [State.updMod_other _ _ _ _ e]; exact .refl _

theorem Driven.reports {b : Berth} {s t : State} (h : Driven b s.mods t.mods) : s.SameReports t :=
  fun m => (h.1 m).report

theorem driveOnly_reports {b : Berth} {s t : State} (h : DriveOnly b s t) : s.SameReports t :=
  fun m => (h.drive m).report

theorem forModules_reports {f : ModuleId → State → State} (h : ∀ m (s : State), s.SameReports (f m s)) (s : State) :
    s.SameReports (forModules f s) :=
  ((((((((h .m0 _).trans (h .m1 _)).trans (h .m2 _)).trans (h .m3 _)).trans (h .m4 _)).trans (h .m5 _)).trans
    (h .m6 _)).trans (h .m7 _))

theorem forBerths_reports {f : Berth → State → State} (h : ∀ b (s : State), s.SameReports (f b s)) (s : State) :
    s.SameReports (forBerths f s) := ((h .b0 _).trans (h .b1 _)).trans (h .b2 _)

theorem refreshMode_reports (m : ModuleId) (s : State) : s.SameReports (refreshMode m s) := by
  rw [refreshMode_eq]; exact updMod_reports m _ s (refreshed_drive s _).report

theorem enterState_reports (b : Berth) (n : BerthState) (s : State) : s.SameReports (enterState b n s) := by
  obtain ⟨ms, d, e⟩ := enterState_spec b n s; rw [e]; exact fun m => (d.1 m).report

theorem recomputeShares_reports (b : Berth) (s : State) : s.SameReports (recomputeShares b s) := by
  obtain ⟨ms, d, e⟩ := recomputeShares_spec b s; rw [e]; exact fun m => (d.1 m).report

theorem refreshDirection_reports (b : Berth) (s : State) : s.SameReports (refreshDirection b s) := by
  obtain ⟨ms, d, e⟩ := refreshDirection_spec b s; rw [e]; exact fun m => (d.1 m).report

theorem enterJoining_reports (b : Berth) (m : ModuleId) (s : State) : s.SameReports (enterJoining b m s) :=
  (updMod_reports m _ s ⟨rfl, rfl, rfl, rfl, rfl, rfl⟩).trans (refreshMode_reports m _)

theorem leaveBerth_reports (d : Standing) (m : ModuleId) (s : State) : s.SameReports (leaveBerth d m s) :=
  (updMod_reports m _ s ⟨rfl, rfl, rfl, rfl, rfl, rfl⟩).trans (refreshMode_reports m _)

theorem releaseModule_reports (m : ModuleId) (s : State) : s.SameReports (releaseModule m s) :=
  (leaveBerth_reports _ m s).trans (updMod_reports m _ _ ⟨rfl, rfl, rfl, rfl, rfl, rfl⟩)

theorem emitEvent_mods (c : EventCode) (q : Nat) (o : Option Berth) (ws : List Word) (s : State) :
    (emitEvent c q o ws s).mods = s.mods := by
  unfold emitEvent admitEvent; split <;> rfl

theorem judge_reports (b : Berth) (s : State) : s.SameReports (judge b s) := sameReports_of_mods rfl

theorem capacityReport_reports (b : Berth) (s : State) : s.SameReports (capacityReport b s) :=
  (State.SameReports.trans (sameReports_of_mods rfl : s.SameReports (s.updSeq b (clampRamp (s.bound b))))
    (refreshDirection_reports b _)).trans ((recomputeShares_reports b _).trans (judge_reports b _))

theorem reportIfChanged_reports (b : Berth) (n : Nat) (s : State) : s.SameReports (reportIfChanged b n s) := by
  unfold reportIfChanged; split
  · exact recomputeShares_reports b s
  · exact capacityReport_reports b s

theorem assignAll_reports (b : Berth) (ms : List ModuleId) (s : State) : s.SameReports (assignAll b ms s) := by
  induction ms generalizing s with
  | nil => exact .refl s
  | cons m ms ih => exact (enterJoining_reports b m s).trans (ih _)

theorem serveNeeds_reports (k : Option Berth) (s : State) : s.SameReports (serveNeeds k s) :=
  forBerths_reports (fun b s => by
    split
    · exact .refl s
    · exact forModules_reports (fun m s => by
        unfold replaceWith; split
        · exact enterJoining_reports b m s
        · exact .refl s) s) s

theorem serveClaims_reports (cs : List Claim) (s : State) : s.SameReports (serveClaims cs s) := by
  induction cs generalizing s with
  | nil => exact fun _ => .refl _
  | cons c cs ih =>
    unfold serveClaims
    split
    · exact fun _ => .refl _
    · refine .trans ?_ (ih _)
      unfold energiseWith
      exact .trans (assignAll_reports _ _ { s with claims := cs }) (enterState_reports _ _ _)

theorem tryPoolBut_reports (k : Option Berth) (s : State) : s.SameReports (tryPoolBut k s) :=
  (serveNeeds_reports k s).trans (serveClaims_reports _ _)

theorem tryPool_reports (s : State) : s.SameReports (tryPool s) := tryPoolBut_reports none s

theorem tryIfNeeded_reports (b : Berth) (s : State) : s.SameReports (tryIfNeeded b s) := by
  unfold tryIfNeeded; split
  · exact tryPool_reports s
  · exact .refl s

theorem countedFault_reports (b : Berth) (c : Word) (m : ModuleId) (s : State) :
    s.SameReports (countedFault b c m s) := by
  unfold countedFault enterRetryWait; dsimp only
  split
  · exact ((updMod_reports m _ s ⟨rfl, rfl, rfl, rfl, rfl, rfl⟩).trans
      (updMod_reports m _ _ ⟨rfl, rfl, rfl, rfl, rfl, rfl⟩)).trans (refreshMode_reports m _)
  · split
    · exact ((updMod_reports m _ s ⟨rfl, rfl, rfl, rfl, rfl, rfl⟩).trans
        (updMod_reports m _ _ ⟨rfl, rfl, rfl, rfl, rfl, rfl⟩)).trans (refreshMode_reports m _)
    · unfold lockOut; dsimp only
      refine ((leaveBerth_reports .lockedOut m s).trans (updMod_reports m (fun r =>
        { r with fastCount := 0, slowCount := 0, retryWait := .stopped, retryWindow := .stopped, blankExpiry := none })
        _ ⟨rfl, rfl, rfl, rfl, rfl, rfl⟩)).trans (sameReports_of_mods ?_)
      exact emitEvent_mods _ _ _ _ _

theorem countFlags_reports (m : ModuleId) (f : PerFlag Bool) (s : State) : s.SameReports (countFlags m f s) := by
  unfold countFlags; dsimp only
  have h : ∀ n, s.SameReports (s.updMod m fun r => { r with deglitch := n }) := fun n =>
    updMod_reports m _ s ⟨rfl, rfl, rfl, rfl, rfl, rfl⟩
  split
  · exact h _
  · split
    · exact (h _).trans (countedFault_reports _ _ m _)
    · exact h _

theorem joinRunning_reports (m : ModuleId) (x : StatusReport) (s : State) : s.SameReports (joinRunning m x s) := by
  unfold joinRunning; split
  · split
    · dsimp only
      have h := fun b => updMod_reports m (fun r => { r with standing := .assigned b .running, returning := false }) s
        ⟨rfl, rfl, rfl, rfl, rfl, rfl⟩
      split
      · exact (h _).trans ((leaveBerth_reports _ m _).trans (updMod_reports m _ _ ⟨rfl, rfl, rfl, rfl, rfl, rfl⟩))
      · exact h _
    · exact .refl s
  · exact .refl s

theorem reportFor_reports (b : Option Berth) (old new : State) : new.SameReports (reportFor b old new) := by
  unfold reportFor; split
  · exact reportIfChanged_reports _ _ _
  · exact .refl _

theorem tryAfterLockout_reports (b : Option Berth) (m : ModuleId) (s : State) :
    s.SameReports (tryAfterLockout b m s) := by
  unfold tryAfterLockout; split
  · exact tryIfNeeded_reports _ s
  · exact .refl s

/-- After the record itself has been taken, its further effects keep every module's report. -/
theorem acceptStatus_reports (m : ModuleId) (x : StatusReport) (s : State) :
    (takeStatus m x s).SameReports (acceptStatus m x s) := by
  unfold acceptStatus; dsimp only
  have h := ((joinRunning_reports m x (takeStatus m x s)).trans (countFlags_reports m x.flags _)).trans
    (reportFor_reports (s.mods.get m).standing.berth? s (countFlags m x.flags (joinRunning m x (takeStatus m x s))))
  split
  · exact h.trans (tryPool_reports _)
  · exact h.trans (tryAfterLockout_reports _ m _)

end Sys2Proof.Machine
end

