-- ==== Sys2Proof/Laws/Entry.lean ====
section
/-! SUPPORT. What a berth stands in after entry to a state (R98), after a trip (R118), a controlled open (R89) and the end
of a request (R101). -/

namespace Sys2Proof.Machine

/-! ## Commanded modes through a state entry -/

/-- Standing and commanded mode of every module are the same. -/
def State.SameModes (s t : State) : Prop :=
  ∀ m, (t.mods.get m).standing = (s.mods.get m).standing ∧ (t.mods.get m).mode = (s.mods.get m).mode

theorem State.SameModes.refl (s : State) : s.SameModes s := fun _ => ⟨rfl, rfl⟩

theorem State.SameModes.trans {s t u : State} (h : s.SameModes t) (k : t.SameModes u) : s.SameModes u :=
  fun m => ⟨(k m).1.trans (h m).1, (k m).2.trans (h m).2⟩

theorem sameModes_of_mods {s t : State} (h : t.mods = s.mods) : s.SameModes t := fun m => by rw [h]; exact ⟨rfl, rfl⟩

theorem blankBerth_modes (b : Berth) (s : State) : s.SameModes (blankBerth b s) := fun m => by
  have e : (blankBerth b s).mods.get m = _ :=
    forModules_get (h := fun s _ r =>
      if r.serves b = true then { r with blankExpiry := blankedUntil s.now s.prot.blankingMs r.blankExpiry } else r)
      (fun m s => whenServes_eq
        (h := fun s _ r => { r with blankExpiry := blankedUntil s.now s.prot.blankingMs r.blankExpiry }) blank_eq b m s)
      (fun _ _ => rfl) s m
  rw [e]; split <;> exact ⟨rfl, rfl⟩

theorem refreshDirection_modes (b : Berth) (s : State) : s.SameModes (refreshDirection b s) := by
  unfold refreshDirection; split
  · exact .refl s
  · exact (sameModes_of_mods rfl).trans (blankBerth_modes b _)

theorem recomputeShares_modes (b : Berth) (s : State) : s.SameModes (recomputeShares b s) := fun m => by
  rw [recomputeShares_eq, State.updSeq_mods, sharesSet_get]
  split
  · exact ⟨(shared_drive _ _ _).standing, shared_mode _ _ _⟩
  · exact ⟨rfl, rfl⟩

theorem settle_modes (b : Berth) (s : State) :
    s.SameModes (judge b (recomputeShares b (refreshDirection b (holdIfStale b s)))) :=
  (sameModes_of_mods (by rw [holdIfStale_eq]) : s.SameModes (holdIfStale b s)).trans
    ((refreshDirection_modes b _).trans ((recomputeShares_modes b _).trans (sameModes_of_mods rfl)))

theorem refreshed_mode (s : State) (r : Module) : (refreshed s r).mode = s.commandedMode r.standing := by
  unfold refreshed; split <;> rename_i h
  · exact h
  · rfl

theorem commandedMode_congr {s t : State} (h : ∀ b, (t.seq.get b).state = (s.seq.get b).state) (x : Standing) :
    t.commandedMode x = s.commandedMode x := by
  cases x with
  | assigned b r => cases r <;> simp only [State.commandedMode, h]
  | _ => rfl

/-- R19: after entry to a state, the modules that serve the berth have the mode of their standing, and every other
module keeps its own. -/
theorem enterState_mode (b : Berth) (new : BerthState) (s : State) (m : ModuleId) :
    ((enterState b new s).mods.get m).standing = (s.mods.get m).standing ∧
      ((s.mods.get m).serves b = true →
        ((enterState b new s).mods.get m).mode = (enterState b new s).commandedMode (s.mods.get m).standing) := by
  have hs : ∀ c, ((enterState b new s).seq.get c).state = ((enteredMid b new s).seq.get c).state := fun c => by
    obtain ⟨ms, -, e⟩ := enterState_spec b new s
    rw [e]
    by_cases h : c = b
    · subst h; simp only [enteredMid, PerBerth.get_set_self]; rfl
    · simp only [enteredMid, PerBerth.get_set_ne _ _ _ _ h]
  have h := settle_modes b (refreshModes b (enteredMid b new s)) m
  rw [← enterState_mid, refreshModes_get] at h
  have hd : (enteredMid b new s).mods = s.mods := rfl
  rw [hd] at h
  refine ⟨?_, fun k => ?_⟩
  · rw [h.1]; split
    · exact (refreshed_drive _ _).standing
    · rfl
  · rw [h.2, if_pos k, refreshed_mode, ← commandedMode_congr hs]

theorem serves_of_assigned {r : Module} {b : Berth} {x : RunState} (h : r.standing = .assigned b x) :
    r.serves b = true := by
  simp [Module.serves, h, Standing.berth?]

/-! ## Entry to a state -/

theorem request_requested (e : OscEnv) (m : OscMode) (o : Osc) (h : (o.request e m).running = true) :
    (o.request e m).requested = m := by
  unfold Osc.request at h ⊢
  have hr : ∀ (o : Osc), (o.endHold e.ship.isSome).requested = o.requested := fun o => by
    unfold Osc.endHold; split
    · split <;> rfl
    · rfl
  split at h <;> rename_i c
  · rw [if_pos c]
    rcases c with c | c
    · rw [c] at h; exact absurd h (by decide)
    · exact c
  · rw [if_neg c]
    dsimp only
    split
    · unfold Osc.settleLock; split <;> exact hr _
    · unfold Osc.settle; split <;> exact hr _

@[simp] theorem enteredSeq_state (b : Berth) (new : BerthState) (s : State) : (enteredSeq b new s).state = new := rfl

@[simp] theorem enteredSeq_current (b : Berth) (new : BerthState) (s : State) :
    (enteredSeq b new s).current = (s.seq.get b).current := rfl

@[simp] theorem enteredSeq_last (b : Berth) (new : BerthState) (s : State) :
    (enteredSeq b new s).last = (s.seq.get b).last := rfl

@[simp] theorem enteredSeq_count (b : Berth) (new : BerthState) (s : State) :
    (enteredSeq b new s).count = (s.seq.get b).count := rfl

@[simp] theorem enteredSeq_tripCause (b : Berth) (new : BerthState) (s : State) :
    (enteredSeq b new s).tripCause = (s.seq.get b).tripCause := rfl

@[simp] theorem enteredSeq_openCause (b : Berth) (new : BerthState) (s : State) :
    (enteredSeq b new s).openCause = (s.seq.get b).openCause := rfl

@[simp] theorem enteredSeq_profile (b : Berth) (new : BerthState) (s : State) :
    (enteredSeq b new s).profile = (s.seq.get b).profile := rfl

@[simp] theorem enteredSeq_firstEnergised (b : Berth) (new : BerthState) (s : State) :
    (enteredSeq b new s).firstEnergised = (s.seq.get b).firstEnergised := rfl

@[simp] theorem enterState_seq (b : Berth) (new : BerthState) (s : State) :
    (enterState b new s).seq = s.seq.set b (enteredSeq b new s) := by
  obtain ⟨ms, -, e⟩ := enterState_spec b new s; rw [e]

@[simp] theorem enterState_sync (b : Berth) (new : BerthState) (s : State) :
    (enterState b new s).sync = s.sync.set b (enteredSync b new s) := by
  obtain ⟨ms, -, e⟩ := enterState_spec b new s; rw [e]

@[simp] theorem enterState_page (b : Berth) (new : BerthState) (s : State) : (enterState b new s).page = s.page := by
  obtain ⟨ms, -, e⟩ := enterState_spec b new s; rw [e]

/-! ## Blanking through a state entry (R29) -/

theorem blankedUntil_idem (now : Word) (ms : Nat) (x : Option Word) :
    blankedUntil now ms (blankedUntil now ms x) = blankedUntil now ms x := by
  have e : ∀ y : Word, ¬(0 < stampDiff y y) := fun y => by simp [stampDiff]
  unfold blankedUntil
  by_cases h : ms = 0
  · simp only [h, if_true]
  · simp only [h, if_false]
    cases x with
    | none => simp only [e, if_false]
    | some y =>
      by_cases k : 0 < stampDiff (stampAfter now (ms * Config.msUs)) y
      · simp only [k, if_true, e, if_false]
      · simp only [k, if_false]

/-- Blanking events of one instant are one event. -/
theorem blankedUntil_or (now : Word) (ms : Nat) (x : Option Word) (p q : Prop) [Decidable p] [Decidable q] :
    (if p then blankedUntil now ms (if q then blankedUntil now ms x else x)
      else if q then blankedUntil now ms x else x) = if q ∨ p then blankedUntil now ms x else x := by
  by_cases hp : p <;> by_cases hq : q <;> simp [hp, hq, blankedUntil_idem]

theorem refreshed_expiry (s : State) (r : Module) : (refreshed s r).blankExpiry =
    if (refreshed s r).mode ≠ r.mode then blankedUntil s.now s.prot.blankingMs r.blankExpiry else r.blankExpiry := by
  unfold refreshed
  by_cases h : r.mode = s.commandedMode r.standing
  · simp only [if_pos h]; rw [if_neg (fun k => k rfl)]
  · simp only [if_neg h]; rw [if_pos (fun k => h k.symm)]

theorem shared_expiry (s : State) (x : Int) (r : Module) : (shared s x r).blankExpiry =
    if r.rating < 10 * (x - r.share).natAbs then blankedUntil s.now s.prot.blankingMs r.blankExpiry
    else r.blankExpiry := by
  unfold shared bigStep
  by_cases h : r.rating < 10 * (x - r.share).natAbs <;> simp [h]

theorem blankBerth_get (b : Berth) (s : State) (m : ModuleId) : (blankBerth b s).mods.get m =
    if (s.mods.get m).serves b = true then
      { s.mods.get m with blankExpiry := blankedUntil s.now s.prot.blankingMs (s.mods.get m).blankExpiry }
    else s.mods.get m :=
  forModules_get (h := fun s _ r =>
    if r.serves b = true then { r with blankExpiry := blankedUntil s.now s.prot.blankingMs r.blankExpiry } else r)
    (fun m s => whenServes_eq
      (h := fun s _ r => { r with blankExpiry := blankedUntil s.now s.prot.blankingMs r.blankExpiry }) blank_eq b m s)
    (fun _ _ => rfl) s m

/-- R29, R98: a module of the berth after its ramp direction has been taken: blanked where the direction has changed. -/
theorem refreshDirection_get (b : Berth) (s : State) (m : ModuleId) (h : (s.mods.get m).serves b = true) :
    (refreshDirection b s).mods.get m =
      { s.mods.get m with
        blankExpiry := if (s.seq.get b).wantDir ≠ (s.seq.get b).dir then
            blankedUntil s.now s.prot.blankingMs (s.mods.get m).blankExpiry
          else (s.mods.get m).blankExpiry } := by
  unfold refreshDirection
  by_cases k : (s.seq.get b).dir = (s.seq.get b).wantDir
  · rw [if_pos k, if_neg (fun n => n k.symm)]
  · rw [if_neg k, if_pos (fun n => k n.symm), blankBerth_get, State.updSeq_mods, if_pos h]; rfl

/-- R17, R29: a module of the berth after the shares have been recomputed. -/
theorem recomputeShares_get (b : Berth) (s : State) (m : ModuleId) (h : (s.mods.get m).serves b = true) :
    (recomputeShares b s).mods.get m = shared s (s.shareOf b m) (s.mods.get m) := by
  rw [recomputeShares_eq, State.updSeq_mods, sharesSet_get, if_pos h]

/-- R29: a direction taken and shares recomputed, from a state whose modules a mode change may have blanked already: one
blanking event covers all of it. -/
theorem settle_blanks {b : Berth} {s x : State} (hn : x.now = s.now) (hp : x.prot = s.prot) (m : ModuleId)
    (h : (x.mods.get m).serves b = true) (hs : (x.mods.get m).share = (s.mods.get m).share)
    (hr : (x.mods.get m).rating = (s.mods.get m).rating)
    (hx : (x.mods.get m).blankExpiry =
      if (x.mods.get m).mode ≠ (s.mods.get m).mode then
        blankedUntil s.now s.prot.blankingMs (s.mods.get m).blankExpiry
      else (s.mods.get m).blankExpiry) :
    let y := (recomputeShares b (refreshDirection b x)).mods.get m
    y.blankExpiry =
      if y.mode ≠ (s.mods.get m).mode ∨ (s.mods.get m).rating < 10 * (y.share - (s.mods.get m).share).natAbs ∨
          (x.seq.get b).wantDir ≠ (x.seq.get b).dir then
        blankedUntil s.now s.prot.blankingMs (s.mods.get m).blankExpiry
      else (s.mods.get m).blankExpiry := by
  have g := refreshDirection_get b x m h
  have hf := (refreshDirection_only b x).toSameStation
  have k : ((refreshDirection b x).mods.get m).serves b = true := by rw [g]; exact h
  dsimp only
  rw [recomputeShares_get b _ m k, shared_expiry, shared_mode, shared_share, hf.now, hf.prot, hn, hp]
  generalize (refreshDirection b x).shareOf b m = z
  rw [g, hn, hp]
  dsimp only
  rw [hs, hr, hx, blankedUntil_or, blankedUntil_or]
  by_cases a : (x.mods.get m).mode ≠ (s.mods.get m).mode <;>
    by_cases c : (s.mods.get m).rating < 10 * (z - (s.mods.get m).share).natAbs <;>
    by_cases d : (x.seq.get b).wantDir ≠ (x.seq.get b).dir <;> simp [a, c, d]

/-- R29: the modules of a berth over an entry of it to a state. -/
theorem enterState_blanks (b : Berth) (new : BerthState) (s : State) : s.BlanksModules b (enterState b new s) := by
  intro m h _
  have hd : (enterState b new s).seq.get b = enteredSeq b new s := by rw [enterState_seq, PerBerth.get_set_self]
  have hq : (enterState b new s).mods =
      (recomputeShares b (refreshDirection b (holdIfStale b (refreshModes b (enteredMid b new s))))).mods := by
    rw [enterState_mid]; rfl
  have hx : (refreshModes b (enteredMid b new s)).mods.get m = refreshed (enteredMid b new s) (s.mods.get m) := by
    rw [refreshModes_get]; exact if_pos h
  have hr := (refreshModes_driveOnly b (enteredMid b new s)).rest
  have e := settle_blanks (b := b) (s := s) (x := holdIfStale b (refreshModes b (enteredMid b new s)))
    (by rw [holdIfStale_eq, hr]; rfl) (by rw [holdIfStale_eq, hr]; rfl) m
    (by rw [holdIfStale_eq, hx, (refreshed_drive _ _).serves]; exact h)
    (by rw [holdIfStale_eq, hx]; unfold refreshed; split <;> rfl)
    (by rw [holdIfStale_eq, hx]; exact (refreshed_drive _ _).rating)
    (by rw [holdIfStale_eq, hx, refreshed_expiry]; rfl)
  have w : (holdIfStale b (refreshModes b (enteredMid b new s))).seq.get b =
      (enterContext (s.params.get b) s.now s.isLost (s.feederPower b) (s.bound b) new (s.seq.get b)).holding
        !s.feederFresh b := by
    rw [holdIfStale_eq, hr]
    simp only [enteredMid, PerBerth.get_set_self]
    rfl
  unfold State.Blanked
  rw [hq, hd]
  rw [w] at e
  exact e

/-! ## What entry to a state leaves -/

/-- R98: what the berth stands in after entry to a state. -/
theorem enterState_stands (b : Berth) (new : BerthState) (s : State) : s.Stands b new (enterState b new s) := by
  have hm := enterState_mode b new s
  have hb := enterState_blanks b new s
  obtain ⟨ms, hd, e⟩ := enterState_spec b new s
  have q : ((enterState b new s).seq.get b) = enteredSeq b new s := by rw [e]; simp
  have eo : (enterState b new s).osc.get b = enteredOsc b new s := by rw [e]; simp
  have en : (enterState b new s).nominalFreq b = s.nominalFreq b := by
    unfold State.nominalFreq; rw [q, enteredSeq_profile]
  have eh : (enterState b new s).overloaded b = s.overloaded b :=
    Driven.overloaded (by rw [e]; exact hd) (by rw [e]) b
  constructor
  · rw [q]; rfl
  · rw [q]; rfl
  · rw [q]; rfl
  · intro h; rw [q]; cases new <;> first | rfl | cases h
  · intro h; rw [q]
    show Seq.wantDir _ = .level
    unfold Seq.wantDir
    split
    · rfl
    · show (match new with | .parallelIn => _ | .parallelOut => _ | _ => _) = _
      cases new <;> first | rfl | cases h
  · rw [q]; rfl
  · rw [q]; rfl
  · rw [q]; rfl
  · intro h; rw [q]; exact if_neg h
  · intro h; rw [q]; cases new <;> first | rfl | cases h
  · intro h; rw [q]; cases new <;> first | rfl | cases h
  · rw [q]; unfold State.overloadAfter; rw [eh, e]; rfl
  · rw [q]; unfold State.reverseAfter; rw [e]; rfl
  · intro o ho
    have ev : (enterState b new s).oscEnv b = s.oscEnv b := by
      unfold State.oscEnv; rw [en, e]; rfl
    rw [eo, en, ev]; unfold enteredOsc; rw [ho]
  · intro o ho hr
    rw [eo] at hr ⊢
    unfold enteredOsc at hr ⊢
    rw [ho] at hr ⊢
    dsimp only at hr ⊢
    split <;> rename_i c
    · rw [c.1] at ho; cases ho; rfl
    · rw [if_neg c] at hr; exact request_requested _ _ _ hr
  · intro m h
    obtain ⟨h1, h2⟩ := hm m
    rw [h1] at h
    rcases h with h | h
    · rw [h2 (serves_of_assigned h), h]; simp only [State.commandedMode, q]; rfl
    · rw [h2 (serves_of_assigned h), h]; simp only [State.commandedMode, q]; rfl
  · exact fun _ => hb

/-- The measurement slots, the parameters and the time are the same. -/
structure State.SameInputs (s t : State) : Prop where
  meas : t.meas = s.meas
  params : t.params = s.params
  prot : t.prot = s.prot
  now : t.now = s.now

theorem State.SameInputs.refl (s : State) : s.SameInputs s := ⟨rfl, rfl, rfl, rfl⟩

theorem State.SameInputs.trans {s t u : State} (h : s.SameInputs t) (k : t.SameInputs u) : s.SameInputs u :=
  ⟨k.meas.trans h.meas, k.params.trans h.params, k.prot.trans h.prot, k.now.trans h.now⟩

/-- A berth stands in a state still after an event that changes the result of a request and the modules, and keeps what is
driven from the state. -/
theorem State.Stands.after {b : Berth} {new : BerthState} {s t t' : State} (h : s.Stands b new t)
    (hi : t.SameInputs t')
    (hq : ∃ c l n k, t'.seq.get b = { t.seq.get b with current := c, last := l, count := n, sharedKw := k })
    (ho : t'.osc.get b = t.osc.get b) (hh : new.judgesOverload = true → t'.healthy b = t.healthy b)
    (hm : ∀ m, (t'.mods.get m).standing = .assigned b .joining ∨ (t'.mods.get m).standing = .assigned b .running →
      (t'.mods.get m).mode = new.moduleMode)
    (hb : ∀ m, (s.mods.get m).serves b = true → (t'.mods.get m).serves b = true →
      (t.mods.get m).serves b = true ∧ (t'.mods.get m).mode = (t.mods.get m).mode ∧
        (t'.mods.get m).share = (t.mods.get m).share ∧ (t'.mods.get m).blankExpiry = (t.mods.get m).blankExpiry) :
    s.Stands b new t' := by
  obtain ⟨c, l, n, k, e⟩ := hq
  have en : t'.nominalFreq b = t.nominalFreq b := by unfold State.nominalFreq; rw [e]
  have ev : t'.oscEnv b = t.oscEnv b := by
    unfold State.oscEnv State.shipFresh; rw [en, hi.meas, hi.params, hi.now]
  constructor
  · rw [e]; exact h.state
  · rw [e]; exact h.entry
  · rw [e]; exact h.volt
  · rw [e]; exact h.setpoint
  · rw [e]; exact h.level
  · rw [e]; exact h.direction
  · rw [e]; exact h.staleHold
  · rw [e]; exact h.lostHold
  · rw [e]; exact h.energise
  · rw [e]; exact h.syncT
  · rw [e]; exact h.parallel
  · rw [e]
    by_cases j : new.judgesOverload = true
    · rw [if_pos j]
      have := h.overload
      rw [if_pos j] at this
      unfold State.overloadAfter State.overloaded State.feederPower State.feederFresh at this ⊢
      rw [hh j, hi.meas, hi.prot]
      exact this
    · rw [if_neg j]; have := h.overload; rw [if_neg j] at this; exact this
  · rw [e]
    have := h.reverse
    unfold State.reverseAfter State.reversed State.feederPower State.feederFresh at this ⊢
    rw [hi.meas, hi.prot]
    exact this
  · rw [ho, en, ev]; exact h.osc
  · rw [ho]; exact h.mode
  · exact hm
  · intro hs m h1 h2
    obtain ⟨g, g1, g2, g3⟩ := hb m h1 h2
    have := h.blanking hs m h1 g
    unfold State.Blanked at this ⊢
    rw [g1, g2, g3, e]
    exact this

/-- What a berth stands in does not depend on the causes that the event had written before. -/
theorem State.Stands.ofCauses {b : Berth} {new : BerthState} {f : Seq → Seq} {s t : State}
    (h : (s.updSeq b f).Stands b new t)
    (hf : ∃ c d, f (s.seq.get b) = { s.seq.get b with openCause := c, tripCause := d }) : s.Stands b new t := by
  obtain ⟨c, d, hf⟩ := hf
  have e : (s.updSeq b f).seq.get b = { s.seq.get b with openCause := c, tripCause := d } := by
    rw [State.updSeq_self, hf]
  have hmo : s.ModesOk → (s.updSeq b f).ModesOk := fun k m => by
    have := k m
    rw [← commandedMode_congr (t := s.updSeq b f)] at this
    · exact this
    · intro a
      by_cases ha : a = b
      · subst ha; rw [e]
      · simp only [State.updSeq, PerBerth.get_set_ne _ _ _ _ ha]
  have hbl : (s.updSeq b f).BlanksModules b t → s.BlanksModules b t := fun k m h1 h2 => by
    have := k m h1 h2
    unfold State.Blanked at this ⊢
    rw [e] at this
    exact this
  exact { h with
    volt := by have := h.volt; rw [e] at this; exact this
    staleHold := by have := h.staleHold; rw [e] at this; exact this
    lostHold := by have := h.lostHold; rw [e] at this; exact this
    blanking := fun k => hbl (h.blanking (hmo k)) }

/-! ## The end of a request -/

/-- R101: the end of the request in progress, whole. -/
theorem completeCurrent_spec (b : Berth) (o : ReqOutcome) (c : Option Cause) (s : State) :
    ∃ x p, completeCurrent b o c s = { s with seq := s.seq.set b x, page := { s.page with summary := p } } ∧
      (s.seq.get b).Completes o c x ∧
      (∃ l n, x = { s.seq.get b with current := none, last := l, count := n }) := by
  unfold completeCurrent
  split <;> rename_i h
  · refine ⟨s.seq.get b, s.page.summary, ?_, ⟨h, ?_⟩, ?_⟩
    · rw [PerBerth.set_get]
    · rw [h]; exact ⟨rfl, rfl⟩
    · exact ⟨_, _, by rw [← h]⟩
  · rename_i r
    refine ⟨{ s.seq.get b with
        current := none, last := { kind := r.kind.bits, tag := r.tag, outcome := o, cause := c, overtaken := none }
        count := (s.seq.get b).count + 1 }, s.page.summary ||| SummaryBit.mask (.requestDone b), ?_, ⟨rfl, ?_⟩,
        ⟨_, _, rfl⟩⟩
    · simp only [writeResult, State.updSeq, PerBerth.get_set_self, PerBerth.set_set]; rfl
    · rw [h]; exact ⟨rfl, rfl⟩

end Sys2Proof.Machine
end

