-- ==== Sys2Proof/Laws/Pool.lean ====
section
/-! SUPPORT. A try of the pool leaves a berth alone that has neither need nor claim; releases, trips and openings, whole. -/

namespace Sys2Proof.Machine

/-! ## Berths that a try leaves alone -/

theorem State.KeepsBerth.refl (b : Berth) (s : State) : s.KeepsBerth b s :=
  ⟨rfl, rfl, rfl, rfl, rfl, rfl, rfl, fun _ _ => rfl⟩

theorem State.KeepsBerth.trans {b : Berth} {s t u : State} (h : s.KeepsBerth b t) (k : t.KeepsBerth b u) :
    s.KeepsBerth b u where
  osc := k.osc.trans h.osc
  meas := k.meas.trans h.meas
  sync := k.sync.trans h.sync
  seq := k.seq.trans h.seq
  sessions := k.sessions.trans h.sessions
  params := k.params.trans h.params
  pendingParams := k.pendingParams.trans h.pendingParams
  mods m c := by
    rcases c with c | c
    · have e := h.mods m (.inl c)
      exact (k.mods m (.inl (by rw [e]; exact c))).trans e
    · have e := k.mods m (.inr c)
      rw [e] at c
      exact e.trans (h.mods m (.inr c))

/-- A state that differs only in modules that serve another berth before and after, or none. -/
theorem keepsBerth_of_mods {b : Berth} {s t : State} (h : s.ModsOnly t)
    (hm : ∀ m, (s.mods.get m).serves b = true ∨ (t.mods.get m).serves b = true → t.mods.get m = s.mods.get m) :
    s.KeepsBerth b t := by
  constructor <;> first | exact hm | (rw [h])

theorem not_serves_of_available {b : Berth} {r : Module} (h : r.standing = .available) : r.serves b = false := by
  simp [Module.serves, h, Standing.berth?]

theorem enterJoining_standing (c : Berth) (m : ModuleId) (s : State) :
    ((enterJoining c m s).mods.get m).standing = .assigned c .joining := by
  unfold enterJoining
  rw [refreshMode_eq, State.updMod_self, (refreshed_drive _ _).standing, State.updMod_self]

theorem enterJoining_other (c : Berth) (m k : ModuleId) (s : State) (h : k ≠ m) :
    (enterJoining c m s).mods.get k = s.mods.get k := by
  unfold enterJoining
  rw [refreshMode_eq, State.updMod_other _ _ _ _ h, State.updMod_other _ _ _ _ h]

theorem enterJoining_keeps {b c : Berth} (hc : c ≠ b) (m : ModuleId) (s : State)
    (hs : (s.mods.get m).serves b = false) : s.KeepsBerth b (enterJoining c m s) := by
  refine keepsBerth_of_mods (enterJoining_modsOnly c m s) fun k hk => ?_
  by_cases e : k = m
  · subst e
    rcases hk with hk | hk
    · rw [hs] at hk; cases hk
    · simp [Module.serves, enterJoining_standing, Standing.berth?, hc] at hk
  · exact enterJoining_other c m k s e

theorem replaceWith_keeps {b c : Berth} (hc : c ≠ b) (m : ModuleId) (s : State) :
    s.KeepsBerth b (replaceWith c m s) := by
  unfold replaceWith
  split <;> rename_i h
  · refine enterJoining_keeps hc m s (not_serves_of_available ?_)
    simp only [Bool.and_eq_true, Module.isCandidate, beq_iff_eq] at h
    exact h.2.1.2
  · exact .refl b s

theorem forModules_keeps {b : Berth} {f : ModuleId → State → State} (h : ∀ m (s : State), s.KeepsBerth b (f m s))
    (s : State) : s.KeepsBerth b (forModules f s) :=
  ((((((((h .m0 _).trans (h .m1 _)).trans (h .m2 _)).trans (h .m3 _)).trans (h .m4 _)).trans (h .m5 _)).trans
    (h .m6 _)).trans (h .m7 _))

theorem serveNeed_keeps {b c : Berth} (hc : c ≠ b) (s : State) : s.KeepsBerth b (serveNeed c s) :=
  forModules_keeps (replaceWith_keeps hc) s

/-- A berth without a need gets no module. -/
theorem serveNeed_none (b : Berth) (s : State) (h : s.needs b = false) : serveNeed b s = s := by
  have e : ∀ m, replaceWith b m s = s := fun m => by unfold replaceWith; rw [h]; rfl
  unfold serveNeed forModules
  simp only [e]

theorem needs_of_state {b : Berth} {s : State} (h : (s.seq.get b).state.isActive = false) : s.needs b = false := by
  unfold State.needs; rw [h]; rfl

/-- R10 step 1 leaves a berth alone that is passed over or not active. -/
theorem serveNeeds_keeps {b : Berth} {k : Option Berth} (s : State)
    (h : k = some b ∨ (s.seq.get b).state.isActive = false) : s.KeepsBerth b (serveNeeds k s) := by
  have one : ∀ c (t : State), s.KeepsBerth b t →
      t.KeepsBerth b (if k = some c then t else serveNeed c t) := fun c t ht => by
    split <;> rename_i hk
    · exact .refl b t
    · by_cases e : c = b
      · subst e
        rcases h with h | h
        · exact absurd h hk
        · rw [serveNeed_none]
          · exact .refl c t
          · exact needs_of_state (by rw [ht.seq]; exact h)
      · exact serveNeed_keeps e t
  unfold serveNeeds forBerths
  have h0 := one .b0 s (.refl b s)
  have h1 := h0.trans (one .b1 _ h0)
  exact h1.trans (one .b2 _ h1)

/-- What changes only a berth leaves every other alone. -/
theorem State.OnlyBerth.keeps {b c : Berth} {s t : State} (hc : c ≠ b) (h : s.OnlyBerth c t)
    (hm : ∀ m, (s.mods.get m).serves b = true ∨ (t.mods.get m).serves b = true → (s.mods.get m).serves c = false) :
    s.KeepsBerth b t :=
  ⟨h.osc b hc.symm, h.meas b hc.symm, h.sync b hc.symm, h.seq b hc.symm, h.sessions b hc.symm, by rw [h.params],
    by rw [h.pendingParams], fun m k => h.mods m (hm m k)⟩

theorem serves_unique {r : Module} {b c : Berth} (h : r.serves b = true) (hc : c ≠ b) : r.serves c = false := by
  simp only [Module.serves, beq_iff_eq] at h
  simp [Module.serves, h, hc.symm]

theorem enterState_keeps {b c : Berth} (hc : c ≠ b) (new : BerthState) (s : State) :
    s.KeepsBerth b (enterState c new s) :=
  (enterState_only c new s).keeps hc fun m k => by
    rcases k with k | k
    · exact serves_unique k hc
    · refine serves_unique (b := b) ?_ hc
      simp only [Module.serves, (enterState_mode c new s m).1] at k
      exact k

theorem allocate_candidates {l : List (ModuleId × Nat)} {d r : Nat} {ms : List ModuleId}
    (h : allocate l d r = some ms) : ∀ m ∈ ms, ∃ x, (m, x) ∈ l := by
  have take : ∀ (l : List (ModuleId × Nat)) d ms rest, takeDemand d l = some (ms, rest) →
      (∀ m ∈ ms, ∃ x, (m, x) ∈ l) ∧ ∀ y ∈ rest, y ∈ l := by
    intro l
    induction l with
    | nil =>
      intro d ms rest h
      cases d with
      | zero => simp only [takeDemand] at h; cases h; simp
      | succ n => simp [takeDemand] at h
    | cons p l ih =>
      intro d ms rest h
      obtain ⟨m, r⟩ := p
      cases d with
      | zero => simp only [takeDemand] at h; cases h; simp
      | succ n =>
        simp only [takeDemand] at h
        split at h <;> rename_i e
        · cases h
          obtain ⟨h1, h2⟩ := ih _ _ _ e
          refine ⟨fun k hk => ?_, fun y hy => List.mem_cons_of_mem _ (h2 y hy)⟩
          rcases List.mem_cons.mp hk with hk | hk
          · exact ⟨r, by rw [hk]; exact List.mem_cons_self⟩
          · obtain ⟨x, hx⟩ := h1 k hk
            exact ⟨x, List.mem_cons_of_mem _ hx⟩
        · cases h
  unfold allocate at h
  split at h <;> rename_i e
  · cases h
  · split at h
    · cases h
      obtain ⟨h1, h2⟩ := take _ _ _ _ e
      intro m hm
      rcases List.mem_append.mp hm with hm | hm
      · exact h1 m hm
      · obtain ⟨y, hy, rfl⟩ := List.mem_map.mp hm
        exact ⟨y.2, h2 _ (List.mem_of_mem_take hy)⟩
    · cases h

theorem allocation_available {s : State} {d r : Nat} {ms : List ModuleId} (h : s.allocation d r = some ms) :
    ∀ m ∈ ms, (s.mods.get m).standing = .available := fun m hm => by
  obtain ⟨x, hx⟩ := allocate_candidates h m hm
  unfold State.pickModules at hx
  obtain ⟨k, hk, e⟩ := List.mem_map.mp hx
  cases e
  have hk := (List.mem_filter.mp hk).2
  simp only [Module.isCandidate, Bool.and_eq_true, beq_iff_eq] at hk
  exact hk.1.2

theorem assignAll_keeps {b c : Berth} (hc : c ≠ b) (ms : List ModuleId) (s : State)
    (h : ∀ m ∈ ms, (s.mods.get m).serves b = false) : s.KeepsBerth b (assignAll c ms s) := by
  induction ms generalizing s with
  | nil => exact .refl b s
  | cons m ms ih =>
    have k := enterJoining_keeps hc m s (h m List.mem_cons_self)
    refine k.trans (ih _ fun x hx => ?_)
    by_cases e : x = m
    · subst e; simp [Module.serves, enterJoining_standing, Standing.berth?, hc]
    · rw [enterJoining_other c m x s e]; exact h x (List.mem_cons_of_mem _ hx)

theorem claims_keeps (b : Berth) (s : State) (cs : List Claim) : s.KeepsBerth b { s with claims := cs } := by
  constructor <;> first | rfl | (intros; rfl)

theorem energiseWith_keeps {b c : Berth} (hc : c ≠ b) (ms : List ModuleId) (s : State)
    (h : ∀ m ∈ ms, (s.mods.get m).standing = .available) : s.KeepsBerth b (energiseWith c ms s) :=
  (assignAll_keeps hc ms s fun m hm => not_serves_of_available (h m hm)).trans (enterState_keeps hc _ _)

/-- R10 step 2 leaves a berth alone that has no claim. -/
theorem serveClaims_keeps {b : Berth} (cs : List Claim) (s : State) (h : ∀ c ∈ cs, c.berth ≠ b) :
    s.KeepsBerth b (serveClaims cs s) := by
  induction cs generalizing s with
  | nil => exact claims_keeps b s []
  | cons c cs ih =>
    unfold serveClaims
    split <;> rename_i e
    · exact claims_keeps b s _
    · refine .trans ?_ (ih _ fun x hx => h x (List.mem_cons_of_mem _ hx))
      exact (claims_keeps b s cs).trans (energiseWith_keeps (h c List.mem_cons_self) _ _ (allocation_available e))

theorem energiseWith_claims (c : Berth) (ms : List ModuleId) (s : State) : (energiseWith c ms s).claims = s.claims := by
  unfold energiseWith
  rw [(enterState_only c .energising _).claims, (assignAll_modsOnly c ms s)]

/-- R10: the claims that a try leaves are the last of those it found. -/
theorem serveClaims_claims (cs : List Claim) (s : State) : (serveClaims cs s).claims <:+ cs := by
  induction cs generalizing s with
  | nil => exact List.suffix_refl _
  | cons c cs ih =>
    unfold serveClaims
    split
    · exact List.suffix_refl _
    · exact (ih _).trans (List.suffix_cons c cs)

theorem tryPoolBut_claims (k : Option Berth) (s : State) : (tryPoolBut k s).claims <:+ s.claims := by
  unfold tryPoolBut
  have e : (serveNeeds k s).claims = s.claims := by rw [serveNeeds_modsOnly k s]
  dsimp only
  rw [e]
  exact serveClaims_claims _ _

/-- A try leaves a berth alone that has no claim and is passed over or not active. -/
theorem tryPoolBut_keeps {b : Berth} {k : Option Berth} (s : State) (hc : ∀ c ∈ s.claims, c.berth ≠ b)
    (h : k = some b ∨ (s.seq.get b).state.isActive = false) : s.KeepsBerth b (tryPoolBut k s) := by
  unfold tryPoolBut
  have e : (serveNeeds k s).claims = s.claims := by rw [serveNeeds_modsOnly k s]
  dsimp only
  rw [e]
  exact (serveNeeds_keeps s h).trans (serveClaims_keeps _ _ hc)

theorem tryIf_keeps {b : Berth} (d : Bool) (s : State) (hc : ∀ c ∈ s.claims, c.berth ≠ b)
    (h : (s.seq.get b).state.isActive = false) : s.KeepsBerth b (tryIf d s) := by
  unfold tryIf; split
  · exact tryPoolBut_keeps s hc (.inr h)
  · exact .refl b s

theorem tryIf_claims (d : Bool) (s : State) : (tryIf d s).claims <:+ s.claims := by
  unfold tryIf; split
  · exact tryPoolBut_claims none s
  · exact List.suffix_refl _

theorem removeClaim_none (b : Berth) (s : State) : ∀ c ∈ (removeClaim b s).claims, c.berth ≠ b := fun c h => by
  have := (List.mem_filter.mp h).2
  simpa using this

end Sys2Proof.Machine
end

