-- ==== Sys2Proof/Laws/Produced.lean ====
section
/-! SUPPORT. Which operations produce no record, and that what an operation produces depends on nothing they change. -/

namespace Sys2Proof.Machine

/-- No record is produced, and what a later EVENT would carry of the state stays: the clock and the session numbers. -/
structure State.Quiet (s t : State) : Prop where
  jour : t.jour = s.jour
  clock : t.clock = s.clock
  number : ∀ b, t.sessionNumber b = s.sessionNumber b

theorem State.Quiet.refl (s : State) : s.Quiet s := ⟨rfl, rfl, fun _ => rfl⟩

theorem State.Quiet.trans {s t u : State} (h : s.Quiet t) (k : t.Quiet u) : s.Quiet u :=
  ⟨k.jour.trans h.jour, k.clock.trans h.clock, fun b => (k.number b).trans (h.number b)⟩

theorem quiet_of {s t : State} (hj : t.jour = s.jour) (hc : t.clock = s.clock) (hs : t.sessions = s.sessions) :
    s.Quiet t :=
  ⟨hj, hc, fun b => by unfold State.sessionNumber; rw [hs]⟩

theorem State.ModsOnly.quiet {s t : State} (h : s.ModsOnly t) : s.Quiet t := by
  rw [h]; exact quiet_of rfl rfl rfl

theorem updSession_quiet (b : Berth) (f : Session → Session) (s : State) (h : ∀ x, (f x).number = x.number) :
    s.Quiet (s.updSession b f) := by
  refine ⟨rfl, rfl, fun c => ?_⟩
  unfold State.sessionNumber State.updSession State.setSession
  by_cases e : c = b
  · subst e
    simp only [PerBerth.get_set_self]
    cases s.sessions.get c with
    | none => rfl
    | some x => exact h x
  · rw [PerBerth.get_set_ne _ _ _ _ e]

theorem forModules_quiet {f : ModuleId → State → State} (h : ∀ m (s : State), s.Quiet (f m s)) (s : State) :
    s.Quiet (forModules f s) :=
  (((((((h _ _).trans (h _ _)).trans (h _ _)).trans (h _ _)).trans (h _ _)).trans (h _ _)).trans (h _ _)).trans (h _ _)

theorem forBerths_quiet {f : Berth → State → State} (h : ∀ b (s : State), s.Quiet (f b s)) (s : State) :
    s.Quiet (forBerths f s) := ((h _ _).trans (h _ _)).trans (h _ _)

/-! ## EVENTs -/

/-- The journal after an EVENT depends only on the journal, the clock and the session numbers before it. -/
theorem emitEvent_jour {s t : State} (h : s.Quiet t) (c : EventCode) (q : Nat) (o : Option Berth) (ws : List Word) :
    (emitEvent c q o ws t).jour = (emitEvent c q o ws s).jour := by
  have e : ∀ r : Record, (admitEvent r t).jour = (admitEvent r s).jour := fun r => by
    unfold admitEvent
    rw [h.jour]
    split
    · unfold State.withQueue; rw [h.jour]
    · simp only [setSummary_jour]
  unfold emitEvent
  rw [e, h.clock]
  cases o with
  | none => rfl
  | some x => simp only [h.number x]

/-! ## Operations that produce nothing -/

theorem setSummary_quiet (k : SummaryBit) (s : State) : s.Quiet (setSummary k s) := quiet_of rfl rfl rfl

theorem enterState_quiet (b : Berth) (new : BerthState) (s : State) : s.Quiet (enterState b new s) := by
  obtain ⟨ms, -, e⟩ := enterState_spec b new s
  rw [e]
  refine ⟨rfl, rfl, fun c => ?_⟩
  by_cases h : (s.seq.get b).state = .shoreOnly ∧ new ≠ .parallelOut
  · have := (updSession_quiet b (fun x => { x with interruptions := sat16 (x.interruptions + 1) }) s fun _ => rfl).number c
    unfold State.sessionNumber enteredSessions
    rw [if_pos h]
    exact this
  · unfold State.sessionNumber enteredSessions
    rw [if_neg h]

theorem recomputeShares_quiet (b : Berth) (s : State) : s.Quiet (recomputeShares b s) := by
  obtain ⟨ms, -, e⟩ := recomputeShares_spec b s; rw [e]; exact quiet_of rfl rfl rfl

theorem refreshDirection_quiet (b : Berth) (s : State) : s.Quiet (refreshDirection b s) := by
  obtain ⟨ms, -, e⟩ := refreshDirection_spec b s; rw [e]; exact quiet_of rfl rfl rfl

theorem judge_quiet (b : Berth) (s : State) : s.Quiet (judge b s) := quiet_of rfl rfl rfl

theorem capacityReport_quiet (b : Berth) (s : State) : s.Quiet (capacityReport b s) :=
  (((quiet_of rfl rfl rfl : s.Quiet (s.updSeq b (clampRamp (s.bound b)))).trans (refreshDirection_quiet b _)).trans
    (recomputeShares_quiet b _)).trans (judge_quiet b _)

theorem reportIfChanged_quiet (b : Berth) (n : Nat) (s : State) : s.Quiet (reportIfChanged b n s) := by
  unfold reportIfChanged; split
  · exact recomputeShares_quiet b s
  · exact capacityReport_quiet b s

theorem completeCurrent_quiet (b : Berth) (o : ReqOutcome) (c : Option Cause) (s : State) :
    s.Quiet (completeCurrent b o c s) := by
  unfold completeCurrent; split
  · exact .refl s
  · exact quiet_of rfl rfl rfl

theorem controlledOpen_quiet (b : Berth) (c : OpenCause) (s : State) : s.Quiet (controlledOpen b c s) :=
  ((quiet_of rfl rfl rfl : s.Quiet (s.updSeq b fun q => { q with openCause := some c })).trans
    (enterState_quiet b _ _)).trans (quiet_of rfl rfl rfl)

theorem noteTrip_quiet (b : Berth) (s : State) : s.Quiet (noteTrip b s) := updSession_quiet b _ s fun _ => rfl

theorem serveClaims_quiet (cs : List Claim) (s : State) : s.Quiet (serveClaims cs s) := by
  induction cs generalizing s with
  | nil => exact quiet_of rfl rfl rfl
  | cons c cs ih =>
    unfold serveClaims
    split
    · exact quiet_of rfl rfl rfl
    · exact (((quiet_of rfl rfl rfl : s.Quiet { s with claims := cs }).trans (assignAll_modsOnly _ _ _).quiet).trans
        (enterState_quiet _ _ _)).trans (ih _)

theorem tryPoolBut_quiet (k : Option Berth) (s : State) : s.Quiet (tryPoolBut k s) :=
  (serveNeeds_modsOnly k s).quiet.trans (serveClaims_quiet _ _)

theorem tryPool_quiet (s : State) : s.Quiet (tryPool s) := tryPoolBut_quiet none s

theorem tryIf_quiet (d : Bool) (s : State) : s.Quiet (tryIf d s) := by
  unfold tryIf; split
  · exact tryPool_quiet s
  · exact .refl s

end Sys2Proof.Machine
end

