-- ==== Sys2Proof/Laws/Ends.lean ====
section
/-! SUPPORT. Controlled opens (R89), trips (R118) and entry to IDLE (R121), whole as far as the berth's own records go. -/

namespace Sys2Proof.Machine

/-! ## The event summary -/

theorem summaryBit_setSummary (k : SummaryBit) (s : State) : (setSummary k s).summaryBit k = true := by
  have h : k.pos < 16 := by
    cases k <;> first | decide | (rename_i b; cases b <;> decide)
  simp [State.summaryBit, setSummary, SummaryBit.mask, h]

theorem summaryBit_keeps (j k : SummaryBit) (s : State) (h : s.summaryBit k = true) :
    (setSummary j s).summaryBit k = true := by
  simp only [State.summaryBit, setSummary, BitVec.getLsbD_or, Bool.or_eq_true] at h ⊢
  exact .inl h

theorem summaryBit_emitEvent (k : SummaryBit) (c : EventCode) (q : Nat) (o : Option Berth) (ws : List Word) (s : State)
    (h : s.summaryBit k = true) : (emitEvent c q o ws s).summaryBit k = true := by
  unfold emitEvent admitEvent
  split
  · exact h
  · exact summaryBit_keeps _ _ _ h

theorem summaryBit_completeCurrent (k : SummaryBit) (b : Berth) (o : ReqOutcome) (c : Option Cause) (s : State)
    (h : s.summaryBit k = true) : (completeCurrent b o c s).summaryBit k = true := by
  unfold completeCurrent
  split
  · exact h
  · exact summaryBit_keeps _ _ _ h

/-! ## Fields that operations of a berth leave alone -/

theorem emitEvent_rest (c : EventCode) (q : Nat) (o : Option Berth) (ws : List Word) (s : State) :
    ∃ l n p, emitEvent c q o ws s =
      { s with jour := { s.jour with queue := l, lost := n }, page := { s.page with summary := p } } := by
  unfold emitEvent admitEvent; split
  · exact ⟨_, _, _, rfl⟩
  · exact ⟨_, _, _, rfl⟩

@[simp] theorem emitEvent_seq (c : EventCode) (q : Nat) (o : Option Berth) (ws : List Word) (s : State) :
    (emitEvent c q o ws s).seq = s.seq := by
  obtain ⟨_, _, _, e⟩ := emitEvent_rest c q o ws s; rw [e]

@[simp] theorem emitEvent_sync (c : EventCode) (q : Nat) (o : Option Berth) (ws : List Word) (s : State) :
    (emitEvent c q o ws s).sync = s.sync := by
  obtain ⟨_, _, _, e⟩ := emitEvent_rest c q o ws s; rw [e]

@[simp] theorem emitEvent_osc (c : EventCode) (q : Nat) (o : Option Berth) (ws : List Word) (s : State) :
    (emitEvent c q o ws s).osc = s.osc := by
  obtain ⟨_, _, _, e⟩ := emitEvent_rest c q o ws s; rw [e]

@[simp] theorem emitEvent_sessions (c : EventCode) (q : Nat) (o : Option Berth) (ws : List Word) (s : State) :
    (emitEvent c q o ws s).sessions = s.sessions := by
  obtain ⟨_, _, _, e⟩ := emitEvent_rest c q o ws s; rw [e]

@[simp] theorem emitEvent_now (c : EventCode) (q : Nat) (o : Option Berth) (ws : List Word) (s : State) :
    (emitEvent c q o ws s).now = s.now := by
  obtain ⟨_, _, _, e⟩ := emitEvent_rest c q o ws s; rw [e]


/-! ## Controlled opens -/

theorem enterState_now (b : Berth) (new : BerthState) (s : State) : (enterState b new s).now = s.now :=
  (enterState_only b new s).now

theorem updSeq_bound (b : Berth) (f : Seq → Seq) (s : State) (h : (f (s.seq.get b)).profile = (s.seq.get b).profile) :
    (s.updSeq b f).bound b = s.bound b := by
  simp only [State.bound, State.demand, State.updSeq_self, h]
  rfl

/-- R89: a controlled open of a berth that is not watching, whole. -/
theorem controlledOpen_opens (b : Berth) (c : OpenCause) (s : State) (h : (s.seq.get b).state.isWatching = false) :
    s.Opens b c (controlledOpen b c s) ∧ s.Opened b (controlledOpen b c s) := by
  have st := enterState_stands b .opening (s.updSeq b fun q => { q with openCause := some c })
  have hy : (controlledOpen b c s).sync.get b =
      { s.sync.get b with closePulse := .stopped, tripPulse := .running 100000 } := by
    unfold controlledOpen issueTrip
    rw [State.updSync_self, enterState_sync, PerBerth.get_set_self]
    have : enteredSync b .opening (s.updSeq b fun q => { q with openCause := some c }) = s.sync.get b := by
      unfold enteredSync
      rw [if_neg]
      · rfl
      · simp [leavesWatch, State.updSeq_self, h]
    rw [this]; rfl
  have hq : (controlledOpen b c s).seq.get b =
      enteredSeq b .opening (s.updSeq b fun q => { q with openCause := some c }) := by
    unfold controlledOpen issueTrip
    rw [State.updSync_seq, enterState_seq, PerBerth.get_set_self]
  refine ⟨⟨?_, ?_, ?_, ?_, ?_⟩, ?_, hy, controlledOpen_only b c s⟩
  · exact State.Stands.ofCauses (f := fun q => { q with openCause := some c })
      (State.Stands.after (t' := controlledOpen b c s) st ⟨rfl, rfl, rfl, rfl⟩ ⟨_, _, _, _, rfl⟩ rfl (fun _ => rfl)
        st.modules fun _ _ k => ⟨k, rfl, rfl, rfl⟩) ⟨_, _, rfl⟩
  · rw [hq, enteredSeq_openCause, State.updSeq_self]
  · rw [hq, enteredSeq_current, State.updSeq_self]
  · rw [hy]; rfl
  · rw [hy]
  · rw [hq]
    show min _ (_ * Config.powerUnit) = _
    rw [updSeq_bound _ _ _ rfl, State.updSeq_self]; rfl

theorem enteredSessions_other (b : Berth) (new : BerthState) (s : State) (h : (s.seq.get b).state ≠ .shoreOnly) :
    enteredSessions b new s = s.sessions := by
  unfold enteredSessions; rw [if_neg (fun k => h k.1)]

theorem enteredSessions_shore (b : Berth) (new : BerthState) (s : State) (h : (s.seq.get b).state = .shoreOnly)
    (hn : new ≠ .parallelOut) : enteredSessions b new s = s.sessions.set b ((s.sessions.get b).map fun x =>
      { x with interruptions := min (x.interruptions + 1) 65535 }) := by
  unfold enteredSessions; rw [if_pos ⟨h, hn⟩]; rfl

@[simp] theorem enterState_sessions (b : Berth) (new : BerthState) (s : State) :
    (enterState b new s).sessions = enteredSessions b new s := by
  obtain ⟨ms, -, e⟩ := enterState_spec b new s; rw [e]

theorem controlledOpen_sessions (b : Berth) (c : OpenCause) (s : State) :
    (controlledOpen b c s).sessions =
      enteredSessions b .opening (s.updSeq b fun q => { q with openCause := some c }) := by
  unfold controlledOpen issueTrip
  rw [State.updSync_sessions, enterState_sessions]

/-! ## Trips -/

/-- R17: a berth in TRIPPED gives its modules no share. -/
theorem shareOf_tripped {b : Berth} {s : State} (h : (s.seq.get b).state = .tripped) (m : ModuleId) :
    s.shareOf b m = 0 := by
  unfold State.shareOf
  dsimp only
  rw [if_neg (by rw [h]; simp [BerthState.moduleMode])]

theorem enterState_tripped_share (b : Berth) (s : State) (m : ModuleId) (h : (s.mods.get m).serves b = true) :
    ((enterState b .tripped s).mods.get m).share = 0 := by
  have hx : (refreshModes b (enteredMid b .tripped s)).mods.get m = refreshed (enteredMid b .tripped s) (s.mods.get m) := by
    rw [refreshModes_get]; exact if_pos h
  have hr := (refreshModes_driveOnly b (enteredMid b .tripped s)).rest
  have hq : (enterState b .tripped s).mods = (recomputeShares b (refreshDirection b (holdIfStale b
      (refreshModes b (enteredMid b .tripped s))))).mods := by
    rw [enterState_mid]; rfl
  obtain ⟨ms, d, e⟩ := refreshDirection_spec b (holdIfStale b (refreshModes b (enteredMid b .tripped s)))
  rw [hq, recomputeShares_share, shareOf_tripped]
  · rw [e, holdIfStale_eq, hr]
    simp only [enteredMid, PerBerth.get_set_self]
    rfl
  · rw [e]
    refine ((d.1 m).serves b).trans ?_
    rw [holdIfStale_eq, hx, (refreshed_drive _ _).serves]
    exact h

/-- Sharing keeps everything of a state that does not follow but the modules' drive and the shared value. -/
theorem reportIfChanged_tripped (b : Berth) (n : Nat) (s : State) (h : (s.seq.get b).state = .tripped)
    (hd : (s.seq.get b).dir = .level) :
    ∃ ms k, Driven b s.mods ms ∧ reportIfChanged b n s =
      { s with mods := ms, seq := s.seq.set b { s.seq.get b with sharedKw := k } } ∧
      (∀ m, ((reportIfChanged b n s).mods.get m).mode = (s.mods.get m).mode) ∧
      ∀ m, (s.mods.get m).serves b = true → (reportIfChanged b n s).mods.get m = shared s 0 (s.mods.get m) := by
  have hsh : ∀ m, s.shareOf b m = 0 := shareOf_tripped h
  have hs : ∃ ms k, Driven b s.mods ms ∧ recomputeShares b s =
      { s with mods := ms, seq := s.seq.set b { s.seq.get b with sharedKw := k } } ∧
      (∀ m, ((recomputeShares b s).mods.get m).mode = (s.mods.get m).mode) ∧
      ∀ m, (s.mods.get m).serves b = true → (recomputeShares b s).mods.get m = shared s 0 (s.mods.get m) := by
    obtain ⟨ms, d, e⟩ := recomputeShares_spec b s
    exact ⟨ms, _, d, e, fun m => (recomputeShares_modes b s m).2, fun m hm => by
      rw [recomputeShares_get b s m hm, hsh]⟩
  unfold reportIfChanged
  split
  · exact hs
  · have e1 : s.updSeq b (clampRamp (s.bound b)) = s := by
      unfold State.updSeq clampRamp
      simp only [h, BerthState.isParallel, Bool.false_eq_true, if_false]
      rw [PerBerth.set_get]
    have e2 : refreshDirection b s = s := by
      unfold refreshDirection
      rw [if_pos]
      rw [hd]
      unfold Seq.wantDir
      rw [h]; simp
    have e3 : ∀ t : State, (t.seq.get b).state = .tripped → judge b t = t := fun t ht => by
      rw [judge_eq]
      have : (t.seq.get b).judged (t.overloaded b) (t.reversed b) (t.feederFresh b) (t.prot.overloadMs * Config.msUs)
          = t.seq.get b := by
        unfold Seq.judged
        rw [if_neg (by rw [ht]; decide), if_neg (by rw [ht]; decide)]
      rw [this, PerBerth.set_get]
    obtain ⟨ms, k, d, e, h1, h2⟩ := hs
    have e4 : capacityReport b s = recomputeShares b s := by
      unfold capacityReport
      rw [e1, e2, e3]
      rw [e]; simp [h]
    rw [e4]
    exact ⟨ms, k, d, e, h1, h2⟩

theorem noteTrip_sessions (b : Berth) (s : State) : (noteTrip b s).sessions.get b =
    (s.sessions.get b).map fun y => { y with trips := min (y.trips + 1) 65535 } := by
  unfold noteTrip State.updSession State.setSession
  rw [PerBerth.get_set_self]; rfl

theorem noteTrip_seq (b : Berth) (s : State) : (noteTrip b s).seq = s.seq := rfl
theorem noteTrip_osc (b : Berth) (s : State) : (noteTrip b s).osc = s.osc := rfl
theorem noteTrip_sync (b : Berth) (s : State) : (noteTrip b s).sync = s.sync := rfl
theorem noteTrip_mods (b : Berth) (s : State) : (noteTrip b s).mods = s.mods := rfl

@[simp] theorem completeCurrent_osc (b : Berth) (o : ReqOutcome) (c : Option Cause) (s : State) :
    (completeCurrent b o c s).osc = s.osc := by unfold completeCurrent; split <;> rfl

@[simp] theorem completeCurrent_sync (b : Berth) (o : ReqOutcome) (c : Option Cause) (s : State) :
    (completeCurrent b o c s).sync = s.sync := by unfold completeCurrent; split <;> rfl

@[simp] theorem completeCurrent_mods (b : Berth) (o : ReqOutcome) (c : Option Cause) (s : State) :
    (completeCurrent b o c s).mods = s.mods := by unfold completeCurrent; split <;> rfl

@[simp] theorem completeCurrent_sessions (b : Berth) (o : ReqOutcome) (c : Option Cause) (s : State) :
    (completeCurrent b o c s).sessions = s.sessions := by unfold completeCurrent; split <;> rfl

/-- R101: the context after the end of a request. -/
theorem completeCurrent_seq (b : Berth) (o : ReqOutcome) (c : Option Cause) (s : State) :
    (s.seq.get b).Completes o c ((completeCurrent b o c s).seq.get b) ∧
      ∃ l n, (completeCurrent b o c s).seq.get b = { s.seq.get b with current := none, last := l, count := n } := by
  obtain ⟨x, p, e, hc, l, n, hx⟩ := completeCurrent_spec b o c s
  have : (completeCurrent b o c s).seq.get b = x := by rw [e, PerBerth.get_set_self]
  rw [this]
  exact ⟨hc, l, n, hx⟩

theorem emitEvent_inputs (c : EventCode) (q : Nat) (o : Option Berth) (ws : List Word) (s : State) :
    s.SameInputs (emitEvent c q o ws s) := by
  obtain ⟨_, _, _, e⟩ := emitEvent_rest c q o ws s; rw [e]; exact ⟨rfl, rfl, rfl, rfl⟩

theorem completeCurrent_inputs (b : Berth) (o : ReqOutcome) (c : Option Cause) (s : State) :
    s.SameInputs (completeCurrent b o c s) := by
  obtain ⟨x, p, e, -⟩ := completeCurrent_spec b o c s; rw [e]; exact ⟨rfl, rfl, rfl, rfl⟩

/-- The state of a trip up to the blocking of the modules. -/
def trippedMid (b : Berth) (w : State) : State := blockModules b (enterState b .tripped w)

/-- R14, R29: the blocking of a tripped berth's modules drives them no further. -/
theorem trippedMid_drive (b : Berth) (w : State) (m : ModuleId) (h : (w.mods.get m).serves b = true) :
    ((trippedMid b w).mods.get m).mode = ((enterState b .tripped w).mods.get m).mode ∧
      ((trippedMid b w).mods.get m).share = 0 ∧
      ((trippedMid b w).mods.get m).blankExpiry = ((enterState b .tripped w).mods.get m).blankExpiry := by
  have hs := enterState_tripped_share b w m h
  obtain ⟨h1, h2⟩ := enterState_mode b .tripped w m
  unfold trippedMid
  rw [blockModules_get]
  split <;> rename_i k
  · have e : ((enterState b .tripped w).mods.get m).mode = .blocked := by
      rw [h2 h]
      rw [h1] at k
      rcases k with k | k <;> rw [k] <;> simp only [State.commandedMode, enterState_seq, PerBerth.get_set_self] <;> rfl
    unfold refreshed
    rw [if_pos (by exact e)]
    exact ⟨rfl, rfl, rfl⟩
  · exact ⟨rfl, hs, rfl⟩

/-- The rest of a trip: the report, the summary bit, the event, the session's count and the request. -/
def trippedRest (b : Berth) (c : TripCause) (n left : Nat) (x : State) : State :=
  completeCurrent b .failed (some c.toCause) (noteTrip b
    (emitEvent .tripped c.toCause.code (some b) [put 0 32 left] (setSummary (.berthTrip b) (reportIfChanged b n x))))

theorem enterTripped_eq (b : Berth) (c : TripCause) (s : State) (h : (s.seq.get b).state ≠ .tripped) :
    enterTripped b c s = trippedRest b c (s.healthy b) (s.seq.get b).state.code
      (trippedMid b (s.updSeq b fun q => { q with tripCause := some c })) := by
  unfold enterTripped; rw [if_neg h]; rfl

/-- What the rest of a trip does to the berth's own records. -/
theorem trippedRest_spec (b : Berth) (c : TripCause) (n left : Nat) (x : State)
    (h : (x.seq.get b).state = .tripped) (hd : (x.seq.get b).dir = .level) :
    let t := trippedRest b c n left x
    (∃ k l i, t.seq.get b = { x.seq.get b with sharedKw := k, current := none, last := l, count := i }) ∧
      (x.seq.get b).Completes .failed (some c.toCause) (t.seq.get b) ∧ t.osc = x.osc ∧ t.sync = x.sync ∧
      t.sessions.get b = ((x.sessions.get b).map fun y => { y with trips := min (y.trips + 1) 65535 }) ∧
      t.summaryBit (.berthTrip b) = true ∧
      x.SameInputs t ∧
      ∀ m, (t.mods.get m).standing = (x.mods.get m).standing ∧ (t.mods.get m).mode = (x.mods.get m).mode ∧
        ((x.mods.get m).serves b = true → t.mods.get m = shared x 0 (x.mods.get m)) := by
  obtain ⟨ms, k, d, e, em, es⟩ := reportIfChanged_tripped b n x h hd
  have zq : (noteTrip b (emitEvent .tripped c.toCause.code (some b) [put 0 32 left]
      (setSummary (.berthTrip b) (reportIfChanged b n x)))).seq.get b = { x.seq.get b with sharedKw := k } := by
    rw [noteTrip_seq, emitEvent_seq, setSummary_seq, e, PerBerth.get_set_self]
  obtain ⟨hc, xl, xn, hx⟩ := completeCurrent_seq b .failed (some c.toCause) (noteTrip b
    (emitEvent .tripped c.toCause.code (some b) [put 0 32 left] (setSummary (.berthTrip b) (reportIfChanged b n x))))
  rw [zq] at hc hx
  have fm : (trippedRest b c n left x).mods = (reportIfChanged b n x).mods := by
    unfold trippedRest
    rw [completeCurrent_mods, noteTrip_mods, emitEvent_mods, setSummary_mods]
  refine ⟨⟨k, xl, xn, hx⟩, hc, ?_, ?_, ?_, ?_, ?_, fun m => ⟨?_, ?_, fun hm => ?_⟩⟩
  · unfold trippedRest
    rw [completeCurrent_osc, noteTrip_osc, emitEvent_osc, setSummary_osc, e]
  · unfold trippedRest
    rw [completeCurrent_sync, noteTrip_sync, emitEvent_sync, setSummary_sync, e]
  · unfold trippedRest
    rw [completeCurrent_sessions, noteTrip_sessions, emitEvent_sessions, setSummary_sessions, e]
  · exact summaryBit_completeCurrent _ _ _ _ _ (summaryBit_emitEvent _ _ _ _ _ _ (summaryBit_setSummary _ _))
  · have e0 : x.SameInputs (reportIfChanged b n x) := by rw [e]; exact ⟨rfl, rfl, rfl, rfl⟩
    have e1 : (reportIfChanged b n x).SameInputs (setSummary (.berthTrip b) (reportIfChanged b n x)) :=
      ⟨rfl, rfl, rfl, rfl⟩
    have e2 : ∀ y : State, y.SameInputs (noteTrip b y) := fun y => ⟨rfl, rfl, rfl, rfl⟩
    exact e0.trans (e1.trans ((emitEvent_inputs _ _ _ _ _).trans ((e2 _).trans (completeCurrent_inputs _ _ _ _))))
  · rw [fm, e]; exact (d.1 m).standing
  · rw [fm, em]
  · rw [fm, es m hm]

/-- R144: a trip produces the EVENT TRIPPED and no other record. -/
theorem enterTripped_jour (b : Berth) (c : TripCause) (s : State) (h : (s.seq.get b).state ≠ .tripped) :
    (enterTripped b c s).jour =
      (emitEvent .tripped c.toCause.code (some b) [put 0 32 (s.seq.get b).state.code] s).jour := by
  rw [enterTripped_eq b c s h]
  unfold trippedRest
  rw [((noteTrip_quiet b _).trans (completeCurrent_quiet b _ _ _)).jour]
  exact emitEvent_jour
    (((((quiet_of rfl rfl rfl : s.Quiet (s.updSeq b fun q => { q with tripCause := some c })).trans
      (enterState_quiet b _ _)).trans (blockModules_modsOnly b _).quiet).trans (reportIfChanged_quiet b _ _)).trans
      (setSummary_quiet _ _)) _ _ _ _

/-- R118: a trip, as far as the berth's records go. -/
theorem enterTripped_trips (b : Berth) (c : TripCause) (s : State) (h : (s.seq.get b).state ≠ .tripped) :
    s.Trips b c (enterTripped b c s) ∧
      (enterTripped b c s).sync.get b = enteredSync b .tripped s ∧
      (enterTripped b c s).sessions.get b = ((enteredSessions b .tripped s).get b).map fun x =>
        { x with trips := min (x.trips + 1) 65535 } := by
  have hj := enterTripped_jour b c s h
  rw [enterTripped_eq b c s h] at hj ⊢
  generalize hw : (s.updSeq b fun q => { q with tripCause := some c }) = w at *
  have wq : w.seq.get b = { s.seq.get b with tripCause := some c } := by rw [← hw, State.updSeq_self]
  have wn : w.now = s.now := by rw [← hw]; rfl
  have wm : w.mods = s.mods := by rw [← hw]; rfl
  have wy : enteredSync b .tripped w = enteredSync b .tripped s := by
    unfold enteredSync; rw [wq, ← hw]; rfl
  have wx : enteredSessions b .tripped w = enteredSessions b .tripped s := by
    unfold enteredSessions; rw [wq, ← hw]; rfl
  have st := enterState_stands b .tripped w
  have sm := enterState_mode b .tripped w
  have sq : (enterState b .tripped w).seq.get b = enteredSeq b .tripped w := by
    rw [enterState_seq, PerBerth.get_set_self]
  have hb := blockModules_modsOnly b (enterState b .tripped w)
  have hg := blockModules_get b (enterState b .tripped w)
  have mq : (trippedMid b w).seq = (enterState b .tripped w).seq := by unfold trippedMid; rw [hb]
  obtain ⟨⟨k, l, i, q⟩, hc, ho, hy, hx, hbit, hin, hm⟩ := trippedRest_spec b c (s.healthy b) (s.seq.get b).state.code
    (trippedMid b w) (by rw [mq]; exact st.state) (by rw [mq]; exact st.level rfl)
  generalize trippedRest b c (s.healthy b) (s.seq.get b).state.code (trippedMid b w) = t at *
  rw [mq] at q hc
  have stand : ∀ m, (t.mods.get m).standing =
      if (s.mods.get m).standing = .assigned b .joining ∨ (s.mods.get m).standing = .assigned b .running then
        .assigned b .blockedByBerth else (s.mods.get m).standing := fun m => by
    rw [(hm m).1]
    unfold trippedMid
    rw [hg, (sm m).1, wm]
    split
    · exact (refreshed_drive _ _).standing
    · rw [(sm m).1, wm]
  refine ⟨⟨?_, ?_, hbit, hj, ?_, fun m hs => ?_⟩, ?_, ?_⟩
  · have hf : t.osc.get b = (enterState b .tripped w).osc.get b := by rw [ho]; unfold trippedMid; rw [hb]
    exact State.Stands.ofCauses (f := fun q => { q with tripCause := some c })
      (by
        rw [hw]
        refine st.after ?_ ⟨_, _, _, _, q⟩ hf (fun k => by cases k) (fun m hs => ?_) (fun m h1 h2 => ?_)
        · refine State.SameInputs.trans ?_ hin
          unfold trippedMid; rw [hb]; exact ⟨rfl, rfl, rfl, rfl⟩
        · rw [stand m] at hs
          split at hs <;> rename_i hn
          · rcases hs with hs | hs <;> cases hs
          · exact absurd hs hn
        · have g := trippedMid_drive b w m h1
          have hv : ((trippedMid b w).mods.get m).serves b = true := by rw [← h2]; simp only [Module.serves, (hm m).1]
          refine ⟨by rw [Module.serves, (sm m).1]; exact h1, ?_⟩
          rw [(hm m).2.2 hv, shared_mode, shared_share, shared_expiry, g.1, g.2.1, g.2.2, enterState_tripped_share b w m h1]
          exact ⟨rfl, rfl, if_neg (by simp)⟩)
      ⟨_, _, rfl⟩
  · rw [q, sq, enteredSeq_tripCause, wq]
  · have e1 := enteredSeq_current b .tripped w
    have e2 := enteredSeq_last b .tripped w
    have e3 := enteredSeq_count b .tripped w
    rw [sq] at hc
    rw [wq] at e1 e2 e3
    unfold Seq.Completes at hc ⊢
    simp only [e1, e2, e3] at hc
    exact hc
  · refine ⟨by rw [stand m, if_pos hs], ?_, ?_⟩
    · rw [(hm m).2.1]
      unfold trippedMid
      rw [hg, (sm m).1, wm, if_pos hs, refreshed_mode]
      rfl
    · rw [(hm m).2.2, shared_share]
      unfold trippedMid
      rw [hg, (sm m).1, wm, if_pos hs]
      exact serves_of_assigned (refreshed_drive _ _).standing
  · rw [hy, ← wy]
    unfold trippedMid; rw [hb, enterState_sync, PerBerth.get_set_self]
  · rw [hx, ← wx]
    unfold trippedMid; rw [hb, enterState_sessions]

/-! ## The Synchronising Unit and the request at an entry -/

theorem enteredSync_watch (b : Berth) (new : BerthState) (s : State) (h : (s.seq.get b).state.isWatching = true)
    (h2 : new.isWatching = false) (h3 : new ≠ .closing) : enteredSync b new s = dropPrediction (s.sync.get b) := by
  unfold enteredSync leavesWatch; rw [h, h2]; simp [h3]

theorem enteredSync_not (b : Berth) (new : BerthState) (s : State) (h : (s.seq.get b).state.isWatching = false) :
    enteredSync b new s = s.sync.get b := by
  unfold enteredSync leavesWatch; rw [h]; simp

theorem enteredSync_in (b : Berth) (new : BerthState) (s : State) (h : new.isWatching = true ∨ new = .closing) :
    enteredSync b new s = s.sync.get b := by
  unfold enteredSync leavesWatch
  rcases h with h | h
  · rw [h]; simp
  · rw [h]; simp

theorem stands_complete (b : Berth) (new : BerthState) (o : ReqOutcome) (c : Option Cause) (s t : State)
    (h : s.Stands b new t) :
    s.Stands b new (completeCurrent b o c t) := by
  obtain ⟨x, p, e, -, l, n, hx⟩ := completeCurrent_spec b o c t
  rw [e]
  exact h.after ⟨rfl, rfl, rfl, rfl⟩ ⟨_, _, _, _, by rw [PerBerth.get_set_self]; exact hx⟩ rfl (fun _ => rfl)
    h.modules fun _ _ k => ⟨k, rfl, rfl, rfl⟩

theorem entered_completes {b : Berth} {new : BerthState} {o : ReqOutcome} {c : Option Cause} {s t : State}
    (ht : t.seq.get b = enteredSeq b new s) :
    (s.seq.get b).Completes o c ((completeCurrent b o c t).seq.get b) := by
  have h := (completeCurrent_seq b o c t).1
  rw [ht] at h
  exact h

end Sys2Proof.Machine
end

