-- ==== Sys2Proof/Laws/Invariants.lean ====
section
/-! SUPPORT. The invariant of the ring, case by case. -/

namespace Sys2Proof.Machine

theorem State.ringOk_unconfigured {s : State} (h : s.jour.ring = none) :
    s.RingOk ↔ s.jour.produce = 0 ∧ s.jour.consume = 0 ∧ s.jour.writing = none := by
  unfold State.RingOk; rw [h]

theorem State.ringOk_configured {s : State} {g : Ring} (h : s.jour.ring = some g) :
    s.RingOk ↔ 16 ≤ g.length ∧ g.length ≤ 2048 ∧ s.jour.produce < g.length ∧ s.jour.consume < g.length ∧
      unconsumed g.length s.jour.produce s.jour.consume + 1 ≤ g.length ∧
      (s.jour.writing.isSome = true → unconsumed g.length s.jour.produce s.jour.consume + 1 < g.length) := by
  unfold State.RingOk; rw [h]

/-- R152: the invariant depends on the journal alone. -/
theorem State.RingOk.of_jour {s t : State} (h : t.jour = s.jour) (k : s.RingOk) : t.RingOk := by
  unfold State.RingOk at *; rwa [h]

end Sys2Proof.Machine
end

