-- ==== Sys2Proof/Laws/PerInstr.lean ====
section
/-! SUPPORT. A law made for each command: the commands that time drives are those that the idle step puts in the queue
(log 1). -/

namespace Sys2Proof

/-- Whether a command is driven by time: the expiry of a timer or the meeting of a condition, not a master or a pin. -/
def Instr.isTimed : Instr → Bool
  | .powerOnReset _ _ _ => false
  | .lineReset => false
  | .lineResetRelease => false
  | .tripHoldEnd => true
  | .breakerViewRise _ => false
  | .breakerViewFall _ => false
  | .transferAccept _ => false
  | .refusedRecordRead _ => false
  | .memoryFaceDone => false
  | .measurementRecord _ _ _ _ _ _ => false
  | .moduleStatusRecord _ _ => false
  | .moduleStatusStale _ => true
  | .retryWaitExpiry _ => true
  | .retryWindowExpiry _ => true
  | .blankingExpiry _ => true
  | .claimTimerExpiry _ => true
  | .slotStalenessExpiry _ _ => true
  | .bridgeTimerExpiry _ => true
  | .glideNearTarget _ => true
  | .glideTargetReached _ => true
  | .energiseRampComplete _ => true
  | .energiseTimerExpiry _ => true
  | .deEnergisingComplete _ => true
  | .setpointKwStep _ => true
  | .rampEnd _ => true
  | .syncTimerExpiry _ => true
  | .parallelTimerExpiry _ => true
  | .overloadTimerExpiry _ => true
  | .reversePowerTimerExpiry _ => true
  | .closeDueExpiry _ => true
  | .closePulseExpiry _ => true
  | .tripPulseExpiry _ => true
  | .closeConfirmExpiry _ => true
  | .openConfirmExpiry _ => true
  | .deadTimeExpiry _ => true
  | .stationTick => true
  | .unlockTimerExpiry => true
  | .heartbeatTimerExpiry => true
  | .coalescingTimerExpiry => true
  | .journalWriteStart => true
  | .journalClaimDone => false
  | .connect _ _ _ => false
  | .sync _ _ _ => false
  | .gensOff _ _ _ => false
  | .gensOn _ _ _ => false
  | .abort _ _ _ => false
  | .disconnect _ _ _ => false
  | .clear _ _ _ => false
  | .requestShadowWrite _ _ _ => false
  | .commitWindows _ => false
  | .commitBerths _ => false
  | .commitPool _ => false
  | .commitJournal _ => false
  | .commitProtection _ => false
  | .commitMetrology _ => false
  | .commitAttention _ => false
  | .heartbeat _ => false
  | .eventAck _ => false
  | .unlock _ => false
  | .journalCmdStart => false
  | .journalCmdStop => false
  | .journalCmdReset => false
  | .journalConsume _ => false
  | .timeSetDay _ => false
  | .timeSetSecond _ => false
  | .clearLockout _ => false
  | .takeOut _ => false
  | .returnModule _ => false
  | .stationPageWrite _ _ => false
  | .unknownRequestKind _ _ _ _ => false
  | .unknownServiceAction _ _ => false
  | .commitNamingNoSection _ => false

end Sys2Proof

namespace Sys2Proof.Laws.TimeDriven

/-- A command that time drives is among those that the idle step looks through. -/
def Statement (i : Instr) : Prop := i.isTimed = true → i ∈ Machine.timedCommands

/-- The commands that the idle step looks through are driven by time. -/
theorem listed : Machine.timedCommands.all Instr.isTimed = true := by decide

theorem powerOnReset (closed0 closed1 closed2 : Bool) : Statement (.powerOnReset closed0 closed1 closed2) := fun h => nomatch h

theorem lineReset : Statement (.lineReset) := fun h => nomatch h

theorem lineResetRelease : Statement (.lineResetRelease) := fun h => nomatch h

theorem tripHoldEnd : Statement (.tripHoldEnd) := fun _ => by decide

theorem breakerViewRise (b : Berth) : Statement (.breakerViewRise b) := fun h => nomatch h

theorem breakerViewFall (b : Berth) : Statement (.breakerViewFall b) := fun h => nomatch h

theorem transferAccept (t : Transfer) : Statement (.transferAccept t) := fun h => nomatch h

theorem refusedRecordRead (k : Tag) : Statement (.refusedRecordRead k) := fun h => nomatch h

theorem memoryFaceDone : Statement (.memoryFaceDone) := fun h => nomatch h

theorem measurementRecord (b : Berth) (k : Nat) (w0 w1 w2 w3 : Word) : Statement (.measurementRecord b k w0 w1 w2 w3) := fun h => nomatch h

theorem moduleStatusRecord (m : ModuleId) (ws : List Word) : Statement (.moduleStatusRecord m ws) := fun h => nomatch h

theorem moduleStatusStale (m : ModuleId) : Statement (.moduleStatusStale m) := by
  cases m <;> exact fun _ => by decide

theorem retryWaitExpiry (m : ModuleId) : Statement (.retryWaitExpiry m) := by
  cases m <;> exact fun _ => by decide

theorem retryWindowExpiry (m : ModuleId) : Statement (.retryWindowExpiry m) := by
  cases m <;> exact fun _ => by decide

theorem blankingExpiry (m : ModuleId) : Statement (.blankingExpiry m) := by
  cases m <;> exact fun _ => by decide

theorem claimTimerExpiry (b : Berth) : Statement (.claimTimerExpiry b) := by
  cases b <;> exact fun _ => by decide

theorem slotStalenessExpiry (b : Berth) (k : SlotKind) : Statement (.slotStalenessExpiry b k) := by
  cases b <;> cases k <;> exact fun _ => by decide

theorem bridgeTimerExpiry (b : Berth) : Statement (.bridgeTimerExpiry b) := by
  cases b <;> exact fun _ => by decide

theorem glideNearTarget (b : Berth) : Statement (.glideNearTarget b) := by
  cases b <;> exact fun _ => by decide

theorem glideTargetReached (b : Berth) : Statement (.glideTargetReached b) := by
  cases b <;> exact fun _ => by decide

theorem energiseRampComplete (b : Berth) : Statement (.energiseRampComplete b) := by
  cases b <;> exact fun _ => by decide

theorem energiseTimerExpiry (b : Berth) : Statement (.energiseTimerExpiry b) := by
  cases b <;> exact fun _ => by decide

theorem deEnergisingComplete (b : Berth) : Statement (.deEnergisingComplete b) := by
  cases b <;> exact fun _ => by decide

theorem setpointKwStep (b : Berth) : Statement (.setpointKwStep b) := by
  cases b <;> exact fun _ => by decide

theorem rampEnd (b : Berth) : Statement (.rampEnd b) := by
  cases b <;> exact fun _ => by decide

theorem syncTimerExpiry (b : Berth) : Statement (.syncTimerExpiry b) := by
  cases b <;> exact fun _ => by decide

theorem parallelTimerExpiry (b : Berth) : Statement (.parallelTimerExpiry b) := by
  cases b <;> exact fun _ => by decide

theorem overloadTimerExpiry (b : Berth) : Statement (.overloadTimerExpiry b) := by
  cases b <;> exact fun _ => by decide

theorem reversePowerTimerExpiry (b : Berth) : Statement (.reversePowerTimerExpiry b) := by
  cases b <;> exact fun _ => by decide

theorem closeDueExpiry (b : Berth) : Statement (.closeDueExpiry b) := by
  cases b <;> exact fun _ => by decide

theorem closePulseExpiry (b : Berth) : Statement (.closePulseExpiry b) := by
  cases b <;> exact fun _ => by decide

theorem tripPulseExpiry (b : Berth) : Statement (.tripPulseExpiry b) := by
  cases b <;> exact fun _ => by decide

theorem closeConfirmExpiry (b : Berth) : Statement (.closeConfirmExpiry b) := by
  cases b <;> exact fun _ => by decide

theorem openConfirmExpiry (b : Berth) : Statement (.openConfirmExpiry b) := by
  cases b <;> exact fun _ => by decide

theorem deadTimeExpiry (b : Berth) : Statement (.deadTimeExpiry b) := by
  cases b <;> exact fun _ => by decide

theorem stationTick : Statement (.stationTick) := fun _ => by decide

theorem unlockTimerExpiry : Statement (.unlockTimerExpiry) := fun _ => by decide

theorem heartbeatTimerExpiry : Statement (.heartbeatTimerExpiry) := fun _ => by decide

theorem coalescingTimerExpiry : Statement (.coalescingTimerExpiry) := fun _ => by decide

theorem journalWriteStart : Statement (.journalWriteStart) := fun _ => by decide

theorem journalClaimDone : Statement (.journalClaimDone) := fun h => nomatch h

theorem connect (b : Berth) (tag : BitVec 16) (rest : List Word) : Statement (.connect b tag rest) := fun h => nomatch h

theorem sync (b : Berth) (tag : BitVec 16) (rest : List Word) : Statement (.sync b tag rest) := fun h => nomatch h

theorem gensOff (b : Berth) (tag : BitVec 16) (rest : List Word) : Statement (.gensOff b tag rest) := fun h => nomatch h

theorem gensOn (b : Berth) (tag : BitVec 16) (rest : List Word) : Statement (.gensOn b tag rest) := fun h => nomatch h

theorem abort (b : Berth) (tag : BitVec 16) (rest : List Word) : Statement (.abort b tag rest) := fun h => nomatch h

theorem disconnect (b : Berth) (tag : BitVec 16) (rest : List Word) : Statement (.disconnect b tag rest) := fun h => nomatch h

theorem clear (b : Berth) (tag : BitVec 16) (rest : List Word) : Statement (.clear b tag rest) := fun h => nomatch h

theorem requestShadowWrite (b : Berth) (first : Nat) (ws : List Word) : Statement (.requestShadowWrite b first ws) := fun h => nomatch h

theorem commitWindows (mask : Word) : Statement (.commitWindows mask) := fun h => nomatch h

theorem commitBerths (mask : Word) : Statement (.commitBerths mask) := fun h => nomatch h

theorem commitPool (mask : Word) : Statement (.commitPool mask) := fun h => nomatch h

theorem commitJournal (mask : Word) : Statement (.commitJournal mask) := fun h => nomatch h

theorem commitProtection (mask : Word) : Statement (.commitProtection mask) := fun h => nomatch h

theorem commitMetrology (mask : Word) : Statement (.commitMetrology mask) := fun h => nomatch h

theorem commitAttention (mask : Word) : Statement (.commitAttention mask) := fun h => nomatch h

theorem heartbeat (v : Word) : Statement (.heartbeat v) := fun h => nomatch h

theorem eventAck (v : Word) : Statement (.eventAck v) := fun h => nomatch h

theorem unlock (v : Word) : Statement (.unlock v) := fun h => nomatch h

theorem journalCmdStart : Statement (.journalCmdStart) := fun h => nomatch h

theorem journalCmdStop : Statement (.journalCmdStop) := fun h => nomatch h

theorem journalCmdReset : Statement (.journalCmdReset) := fun h => nomatch h

theorem journalConsume (n : Word) : Statement (.journalConsume n) := fun h => nomatch h

theorem timeSetDay (d : Word) : Statement (.timeSetDay d) := fun h => nomatch h

theorem timeSetSecond (v : Word) : Statement (.timeSetSecond v) := fun h => nomatch h

theorem clearLockout (idx : BitVec 4) : Statement (.clearLockout idx) := fun h => nomatch h

theorem takeOut (idx : BitVec 4) : Statement (.takeOut idx) := fun h => nomatch h

theorem returnModule (idx : BitVec 4) : Statement (.returnModule idx) := fun h => nomatch h

theorem stationPageWrite (first : Nat) (ws : List Word) : Statement (.stationPageWrite first ws) := fun h => nomatch h

theorem unknownRequestKind (b : Berth) (kind : BitVec 8) (tag : BitVec 16) (rest : List Word) : Statement (.unknownRequestKind b kind tag rest) := fun h => nomatch h

theorem unknownServiceAction (idx : BitVec 4) (action : BitVec 8) : Statement (.unknownServiceAction idx action) := fun h => nomatch h

theorem commitNamingNoSection (mask : Word) : Statement (.commitNamingNoSection mask) := fun h => nomatch h

end Sys2Proof.Laws.TimeDriven
end

