-- ==== Sys2Proof/Tests/Slice0.lean ====
section
/-! SUPPORT. Tests: an ill-formed command for each check, a few small steps, and for each statement of Obligations that has
hypotheses a state and operands that meet them, clause by clause and at the ends of their ranges. -/

namespace Sys2Proof.Tests

open Sys2Proof Sys2Proof.Machine

set_option Elab.async false

/-! ## Well-formedness: each check refuses a command -/

theorem test_illFormed_transfer_unaligned :
    (Instr.transferAccept { tag := .meter, addr := 0x100002, access := .read 1 }).wellFormed = false := by decide
theorem test_illFormed_transfer_empty :
    (Instr.transferAccept { tag := .meter, addr := 0, access := .read 0 }).wellFormed = false := by decide
theorem test_illFormed_transfer_long :
    (Instr.transferAccept { tag := .link, addr := 0, access := .write (List.replicate 9 0) }).wellFormed = false := by
  decide
theorem test_illFormed_measurement_place :
    (Instr.measurementRecord .b0 65536 0 0 0 0).wellFormed = false := by decide
theorem test_illFormed_status_short :
    (Instr.moduleStatusRecord .m0 (List.replicate 7 0)).wellFormed = false := by decide
theorem test_illFormed_request_rest :
    [Instr.connect .b0 0 (List.replicate 8 0), .sync .b0 0 (List.replicate 8 0), .gensOff .b0 0 (List.replicate 8 0),
      .gensOn .b0 0 (List.replicate 8 0), .abort .b0 0 (List.replicate 8 0), .disconnect .b0 0 (List.replicate 8 0),
      .clear .b0 0 (List.replicate 8 0), .unknownRequestKind .b0 9 0 (List.replicate 8 0)].any
        Instr.wellFormed = false := by decide
theorem test_illFormed_known_kind : (Instr.unknownRequestKind .b0 7 0 []).wellFormed = false := by decide
theorem test_illFormed_shadow_first : (Instr.requestShadowWrite .b0 0 [0]).wellFormed = false := by decide
theorem test_illFormed_shadow_empty : (Instr.requestShadowWrite .b0 1 []).wellFormed = false := by decide
theorem test_illFormed_shadow_end : (Instr.requestShadowWrite .b0 7 [0, 0]).wellFormed = false := by decide
theorem test_illFormed_commit_masks :
    [Instr.commitWindows 0x7E, .commitBerths 0x7D, .commitPool 0x7B, .commitJournal 0x77, .commitProtection 0x6F,
      .commitMetrology 0x5F, .commitAttention 0x3F, .commitNamingNoSection 0x81].any Instr.wellFormed = false := by
  decide
theorem test_illFormed_station_empty : (Instr.stationPageWrite 0 []).wellFormed = false := by decide
theorem test_illFormed_station_long : (Instr.stationPageWrite 0 (List.replicate 9 0)).wellFormed = false := by decide
theorem test_illFormed_station_control :
    ([216, 218, 219, 220, 221, 227, 228, 229, 253, 256].any fun n =>
      (Instr.stationPageWrite n [0]).wellFormed) = false := by decide
theorem test_illFormed_known_action : (Instr.unknownServiceAction 0 3).wellFormed = false := by decide
theorem test_wellFormed_bounds :
    [Instr.transferAccept { tag := .meter, addr := 0xFFFFFC, access := .read 1 },
      .measurementRecord .b2 65535 0 0 0 0, .requestShadowWrite .b1 7 [0], .requestShadowWrite .b1 1 (List.replicate 7 0),
      .stationPageWrite 215 [0], .stationPageWrite 252 [0], .commitAttention 0x40, .unknownRequestKind .b0 8 0 [],
      .unknownServiceAction 15 4].all Instr.wellFormed = true := by decide

/-! ## States for the tests -/

/-- A window entry. -/
def entry (k : WindowKind) (base size berth : Nat) : WindowEntry := { base := base, size := size, kind := k, berth := berth }

/-- A window table with every kind; the journal has 16 slots. -/
def table : List WindowEntry :=
  [entry .measure 0x100000 256 0, entry .measure 0x100100 256 1, entry .measure 0x100200 256 2,
    entry .berthPage 0x100300 256 0, entry .berthPage 0x100400 256 1, entry .berthPage 0x100500 256 2,
    entry .moduleCmd 0x100600 256 0, entry .moduleStat 0x100700 256 0, entry .journal 0x100800 1024 0,
    WindowEntry.none, WindowEntry.none, WindowEntry.none]

/-- The machine after reset with the window table in force. -/
def ready : State := { State.reset with bus := { Bus.reset with table := table, firstCommit := true } }

/-- Berth B0 in a state. -/
def at0 (st : BerthState) (s : State) : State := s.updSeq .b0 fun q => { q with state := st }

/-- A ship profile and its shadow. -/
def profile : ShipProfile :=
  { shipCode := 7, callNumber := 3, nominalFreq := 50000, nominalVolt := 6600, demand := 1000, reserve := 0 }
def profileWords : List Word := [7, 3, 50000, 6600, 1000, 0, 0]

/-- A berth that may be asked to connect, with modules to be had. -/
def connectable : State :=
  { ready with
    clock := { Clock.reset with timeUnset := false }
    params := ready.params.set .b0 { BerthParams.default with configured := true }
    mods := PerModule.all { Module.reset with present := true, rating := 1000, fit := true } }

/-- A module of berth B0. -/
def serving (r : RunState) (s : State) : State :=
  s.updMod .m0 fun x =>
    { x with
      present := true, rating := 1000, standing := .assigned .b0 r, fit := true
      latest := some
        { state := .running, flags := ⟨false, false, false, false⟩, current := 0, power := 0, temperature := 0, seq := 0 } }

/-- A phasor of the present instant. -/
def phasor (freq volt : Nat) : Phasor := { freq := freq, volt := volt, phase := 0, stamp := 0 }

/-- Berth B0 with fresh phasors, its oscillator tracking with a slip of 80 mHz, and the sync window holding. -/
def holding (st : BerthState) : State :=
  let s := (at0 st ready).updSeq .b0 fun q => { q with profile := some profile, volt := .nominal }
  let s := s.updMeas .b0 fun m =>
    { m with
      ship := { fresh := .fresh, latest := some (phasor 50000 6600), timer := .running 9 }
      shore := { fresh := .fresh, latest := some (phasor 50080 6600), timer := .running 9 } }
  (s.updOsc .b0 fun o =>
    { o with
      running := true, freq := 50080 * Config.freqUnit, target := 50080 * Config.freqUnit, requested := .trackSlip
      effective := .trackSlip }).updSync .b0 fun u => { u with residual := some 0, deadTime := .stopped }

/-! ## The window tests: the table is in order, and transfers are taken -/

theorem test_table_in_order : ready.TableOk := by
  delta State.TableOk WindowEntry.Ok WindowEntry.Apart
  decide +kernel

theorem test_table_after_reset : State.reset.TableOk := by
  delta State.TableOk WindowEntry.Ok WindowEntry.Apart
  decide +kernel

theorem test_ready_takes (t : Tag) : ready.Takes t := by cases t <;> exact ⟨rfl, rfl⟩

theorem test_page_open : ready.PageOpen .b0 (entry .berthPage 0x100300 256 0) :=
  ⟨test_table_in_order, by decide +kernel, test_ready_takes _⟩

theorem test_meter_open : ready.MeterOpen .b2 (entry .measure 0x100200 256 2) 15 :=
  ⟨test_table_in_order, by decide +kernel, test_ready_takes _, by decide⟩

theorem test_link_open : ready.LinkOpen (entry .moduleStat 0x100700 256 0) (List.replicate 8 0) :=
  ⟨test_table_in_order, by decide +kernel, test_ready_takes _, by decide⟩

/-! ## The step, time and resets -/

/-- The machine at the end of its trip hold. -/
def held : State := { State.reset with tripHold := .running 0 }

theorem test_hyp_idleStep :
    (State.reset.pending = [] ∧ State.reset.dueList = []) ∧ (held.pending = [] ∧ held.dueList ≠ []) ∧
      isDue held .tripHoldEnd = true ∧ .tripHoldEnd ∈ timedCommands ∧ isDue State.reset .tripHoldEnd = false := by
  decide +kernel

theorem test_idle_then_due :
    (match step held with
      | .next t => t == { held with pending := [.tripHoldEnd] }
      | _ => false) = true ∧
    (match exec .tripHoldEnd State.reset with
      | .next t => t == State.reset
      | _ => false) = true := by decide +kernel

/-- The input of berth B0's breaker closed for so long, with its view open. -/
def pressed (us : Nat) : State := ready.updSync .b0 fun u => { u with level := true, heldUs := us }

theorem test_filter_due_at_five_ms :
    isDue (pressed 5000) (.breakerViewRise .b0) = true ∧ isDue (pressed 4999) (.breakerViewRise .b0) = false ∧
      isDue (pressed 5000) (.breakerViewFall .b0) = false ∧ (pressed 5000).dueList = [.breakerViewRise .b0] := by
  decide +kernel

theorem test_filter_restarts_at_bounce :
    (((pressed 4999).driveBreaker .b0 false).sync.get .b0).heldUs = 0 ∧
      (((pressed 4999).driveBreaker .b0 true).sync.get .b0).heldUs = 4999 ∧
      ((advance (pressed 4999)).sync.get .b0).heldUs = 5000 ∧
      ((advance ((pressed 7).driveBreaker .b0 false)).sync.get .b0).heldUs = 0 := by decide +kernel

/-- Berth B0 with its setpoint at `x` mW on the way to 3 kW. -/
def ramping (d : Direction) (x : Nat) : State :=
  (at0 .parallelIn ready).updSeq .b0 fun q => { q with dir := d, setpoint := x, target := 3 }

theorem test_hyp_oscillatorAndRamps :
    (State.reset.osc.get .b0).running = false ∧ ((holding .matching).osc.get .b0).running = true ∧
      (State.reset.seq.get .b0).dir = .level ∧
      (((ramping .rising 3000000).seq.get .b0).dir = .rising ∧
        ((ramping .rising 3000000).seq.get .b0).setpoint ≤ ((ramping .rising 3000000).seq.get .b0).target * 1000000) ∧
      ((ramping .falling 0).seq.get .b0).dir = .falling ∧ (State.reset.seq.get .b0).volt = .zero ∧
      ((holding .armed).seq.get .b0).volt = .nominal := by decide +kernel

theorem test_ramp_step :
    (((advance (ramping .rising 0)).seq.get .b0).setpoint, ((advance (ramping .rising 2999999)).seq.get .b0).setpoint,
      ((advance (ramping .falling 499)).seq.get .b0).setpoint) = (500, 3000000, 0) := by decide +kernel

theorem test_oscillator_step :
    ((advance (holding .matching)).osc.get .b0).phase = 2 * (50080 * 1000000) := by decide +kernel

/-- A state whose TIMEBASE frame, of value 5, stands at a bit. -/
def frameAt (n : Nat) : State := { State.reset with tbPhase := n, tbValue := some 5 }

theorem test_hyp_timebase :
    (frameAt 998).tbPhase < 999 ∧ (frameAt 999).tbPhase = 999 ∧ (frameAt 0).tbValue = some 5 ∧
      State.reset.tbValue = none := by decide
theorem test_timebase_line :
    [0, 1, 2, 3, 4, 32, 33, 999].map (fun n => (frameAt n).timebaseLine) =
      [false, true, false, true, false, false, true, true] := by decide

theorem test_powerOn_levels :
    (PerBerth.mk true false true).get .b0 = true ∧ (PerBerth.mk true false true).get .b1 = false := by decide
theorem test_powerOn_closed_trips :
    (match exec (.powerOnReset true false false) State.reset with
      | .next t => (t.seq.get .b0).state == .tripped && (t.seq.get .b1).state == .idle && t.tripLine .b0
      | _ => false) = true := by decide +kernel

/-- RESET_N low, with or without carried sessions. -/
def low (c : Option StationTime) : State := { State.reset with resetLow := true, carried := c }

theorem test_lineReset_drives_trip :
    (match exec .lineReset (holding .closing) with
      | .next t => t.tripLine .b0 && !t.closeLine .b0 && (t.seq.get .b0).state == .idle
      | _ => false) = true := by decide +kernel
theorem test_hyp_resetRelease :
    (low none).resetLow = true ∧ (low none).carried = none ∧ (low (some ⟨0, 0⟩)).resetLow = true ∧
      (low (some ⟨0, 0⟩)).carried.isSome = true := by decide
theorem test_hyp_tripHoldEnd :
    held.tripHold = .running 0 ∧ (held.updSync .b1 fun u => { u with view := true }).tripHold = .running 0 ∧
      ((held.updSync .b1 fun u => { u with view := true }).sync.get .b1).view = true ∧
      ((held.sync.get .b0).view = false ∧ (held.sync.get .b1).view = false ∧ (held.sync.get .b2).view = false) := by
  decide

/-! ## The bus path -/

/-- A write of `n` words, and a read. -/
def wr (t : Tag) (a : BitVec 24) (n : Nat) : Transfer := { tag := t, addr := a, access := .write (List.replicate n 0) }
def rd (t : Tag) (a : BitVec 24) (n : Nat) : Transfer := { tag := t, addr := a, access := .read n }

theorem test_hyp_transferRefused :
    ((wr .unknown 0 8).wellFormed = true ∧ (wr .unknown 0 8).tag = .unknown) ∧
      ((wr .supervisor 0xFFFBFC 2).wellFormed = true ∧ ready.burstRegion 0xFFFBFC 2 = none) ∧
      ((wr .meter 0xFFFC00 1).wellFormed = true ∧ ready.burstRegion 0xFFFC00 1 = some .station) ∧
      ((wr .supervisor 0x100000 4).wellFormed = true ∧
        ready.burstRegion 0x100000 4 = some (.window 0 (entry .measure 0x100000 256 0))) ∧
      ((wr .supervisor 0x100304 8).wellFormed = true ∧
        ready.burstRegion 0x100304 8 = some (.window 3 (entry .berthPage 0x100300 256 0)) ∧
        8 < (0x100304 - 0x100300) / 4 + 8) ∧
      ((wr .meter 0x100000 5).wellFormed = true ∧
        ready.burstRegion 0x100000 5 = some (.window 0 (entry .measure 0x100000 256 0)) ∧
        ¬(5 = 4 ∧ 0x100000 % 16 = 0)) ∧
      ((wr .link 0x100704 8).wellFormed = true ∧
        ready.burstRegion 0x100704 8 = some (.window 7 (entry .moduleStat 0x100700 256 0)) ∧
        ¬(8 = 8 ∧ (0x100704 - 0x100700) % 32 = 0)) := by decide +kernel

theorem test_hyp_heldOffOrPasses :
    ((wr .meter 0 1).wellFormed = true ∧ (low none).resetLow = true) ∧ (wr .meter 2 1).wellFormed = false ∧
      (passOn (writeItem .meter 0 [0]) ready).outstanding .meter = true ∧
      (ready.burstRegion 0xFFFBE0 8 = some .plain ∧ ready.bus.firstCommit = true) ∧
      ready.burstRegion 0x100BFC 1 = some (.window 8 (entry .journal 0x100800 1024 0)) := by decide +kernel

theorem test_hyp_transferIsRow :
    ready.burstRegion 0xFFFC00 8 = some .station ∧
      (ready.burstRegion 0x1002F0 4 = some (.window 2 (entry .measure 0x100200 256 2)) ∧
        0x1002F0 % 16 = 0 ∧ (entry .measure 0x100200 256 2).berth = Berth.num .b2) ∧
      (ready.burstRegion 0x1007E0 8 = some (.window 7 (entry .moduleStat 0x100700 256 0)) ∧
        0x1007E0 - 0x100700 = 32 * ModuleId.num .m7) ∧
      (ready.burstRegion 0x10041C 1 = some (.window 4 (entry .berthPage 0x100400 256 1)) ∧
        (0x10041C - 0x100400) / 4 + 1 ≤ 8) ∧
      ready.burstRegion 0x100400 8 = some (.window 4 (entry .berthPage 0x100400 256 1)) := by decide +kernel

/-- The journal claim of a record that is being written. -/
def claiming (n : Nat) : Writing := { words := List.replicate 16 0, chain := 0, lostTaken := 0, claim := n, granted := false }

/-- The face idle, or carrying a transfer, with a journal claim that waits. -/
def waiting (f : Option FaceLoad) (l : List PassItem) (n : Nat) : State :=
  { ready with
    bus := { ready.bus with face := f, passList := l, passCount := n }
    jour := { Journal.reset with
      ring := some { length := 16, writeBack := 0 }, channel := .started, writing := some (claiming 3)
      queue := [{ berth := none, session := 0, time := ⟨0, 0⟩, body := .event .timeStep 0 [] }] } }

theorem test_hyp_arbiter :
    ((waiting (some (.pass (writeItem .meter 0 [0]))) [] 0).bus.face.isSome = true) ∧
      (ready.bus.face = none ∧ ready.bus.passList = [] ∧ waitingClaim ready = none) ∧
      ((waiting none [writeItem .link 0 [0]] 3).bus.face = none ∧
        (waiting none [writeItem .link 0 [0]] 3).bus.passCount ≠ 4) ∧
      (waitingClaim (waiting none [writeItem .link 0 [0]] 4) = some (claiming 3) ∧
        (waiting none [writeItem .link 0 [0]] 4).bus.passCount = 4) := by decide +kernel

theorem test_hyp_linkReadsZero :
    State.reset.TableOk ∧ State.reset.Takes .link ∧ State.reset.bus.firstCommit = false ∧
      (rd .link 0xFFFC00 8).wellFormed = true ∧ State.reset.burstRegion 0xFFFC00 8 = some .station ∧
      (rd .link 0xFFFFFC 2).wellFormed = true ∧ State.reset.burstRegion 0xFFFFFC 2 = none ∧
      State.reset.burstRegion 0xFFFBFC 1 = some .plain :=
  ⟨test_table_after_reset, ⟨rfl, rfl⟩, by decide +kernel⟩

theorem test_link_reads_zero :
    (match exec (.transferAccept (rd .link 0xFFFC00 2)) State.reset with
      | .next t => t.bus.resp.link == some (.done [0, 0])
      | _ => false) = true := by decide +kernel

theorem test_hyp_substitutedReads :
    (rd .link 0x1006E0 8).wellFormed = true ∧
      ready.burstRegion 0x1006E0 8 = some (.window 6 (entry .moduleCmd 0x100600 256 0)) ∧
      ready.burstRegion 0x100320 8 = some (.window 3 (entry .berthPage 0x100300 256 0)) ∧
      8 ≤ (0x100320 - 0x100300) / 4 ∧
      ready.burstRegion 0x10031C 8 = some (.window 3 (entry .berthPage 0x100300 256 0)) ∧
      (0x10031C - 0x100300) / 4 < 8 := by decide +kernel

theorem test_hyp_stationReads :
    ready.burstRegion 0xFFFF98 8 = some .station ∧
      (List.range 8).all (fun i => (ready.stationWord (230 + i)).isSome) = true ∧
      ready.burstRegion 0xFFFF94 2 = some .station ∧ ready.stationWord 229 = none ∧
      (rd .supervisor 0xFFFF98 8).wellFormed = true ∧ (0xFFFF98 - 16776192) / 4 = 230 := by decide +kernel

theorem test_station_read_spans_memory_words :
    (match exec (.transferAccept (rd .supervisor 0xFFFF64 6)) ready with
      | .next t => t.bus.face == some (.pass
          { tag := .supervisor, addr := 0xFFFF68
            load := .read ([217].map fun n => (ready.stationWord n).getD 7) [none, none, none, none]
              ([222].map fun n => (ready.stationWord n).getD 7) })
      | _ => false) = true := by decide +kernel

theorem test_read_clears_covered_refusals :
    (match exec (.transferAccept (rd .supervisor 0xFFFF9C 1)) { ready with bus := { ready.bus with
        refused := PerTag.all ⟨3, .span⟩ } } with
      | .next t => t.bus.refused.supervisor == ⟨0, .none⟩ && t.bus.refused.meter == ⟨3, .span⟩ &&
          t.bus.resp.supervisor == some (.done [0x20003])
      | _ => false) = true := by decide +kernel

/-- The face carrying a pass item, or a journal claim. -/
def carrying (f : FaceLoad) (n : Nat) : State :=
  { waiting (some f) [] 0 with jour := { (waiting none [] 0).jour with writing := some (claiming n) } }

theorem test_hyp_memoryFace :
    (carrying (.pass (writeItem .meter 0 [1, 2])) 1).bus.face = some (.pass (writeItem .meter 0 [1, 2])) ∧
      memWf (carrying (.pass (writeItem .meter 0 [1, 2])) 1).bus.mem = true ∧
      (carrying (.pass { tag := .link, addr := 0, load := .read [] [none] [3] }) 1).bus.face =
        some (.pass { tag := .link, addr := 0, load := .read [] [none] [3] }) := by decide +kernel

theorem test_face_writes_memory :
    (match exec .memoryFaceDone { ready with bus := { ready.bus with
        face := some (.pass (writeItem .meter 8 [1, 0])), mem := [(3, 9)] } } with
      | .next t => t.bus.mem == [(2, 1)]
      | _ => false) = true := by decide +kernel

theorem test_face_returns_span_and_substituted :
    (match exec .memoryFaceDone { ready with bus := { ready.bus with
        face := some (.pass { tag := .link, addr := 8, load := .read [9] [none, some 3, none] [5] })
        mem := [(2, 7)] } } with
      | .next t => t.bus.resp.link == some (.done [9, 7, 3, 0, 5])
      | _ => false) = true := by decide +kernel

theorem test_hyp_onlyFaceWrites : exec .lineReset State.reset = .next (lineReset State.reset) ∧
    Instr.lineReset ≠ .memoryFaceDone ∧ Instr.lineReset ≠ .journalClaimDone := ⟨rfl, by decide, by decide⟩

theorem test_hyp_timeAndQueue :
    (∃ t, exec (.breakerViewRise .b0) State.reset = .next t) ∧
      (∀ c0 c1 c2, Instr.breakerViewRise .b0 ≠ .powerOnReset c0 c1 c2) ∧
      Instr.breakerViewRise .b0 ≠ .lineReset ∧ Instr.breakerViewRise .b0 ≠ .lineResetRelease :=
  ⟨⟨_, rfl⟩, by intro _ _ _; simp, by decide, by decide⟩

/-! ## The journal -/

/-- A started journal with one event and nothing being written. -/
def writable : State := { waiting none [] 0 with jour := { (waiting none [] 0).jour with writing := none } }

theorem test_hyp_journalWriteStart : writable.canWrite = true ∧ writable.jour.queue ≠ [] := by decide +kernel

theorem test_canWrite_ends :
    [writable, { writable with jour := { writable.jour with produce := 14 } },
      { writable with jour := { writable.jour with produce := 15 } },
      { writable with jour := { writable.jour with produce := 3, consume := 4 } },
      { writable with jour := { writable.jour with queue := [] } },
      { writable with jour := { writable.jour with channel := .stopped } },
      { writable with bus := { writable.bus with firstCommit := false } }, waiting none [] 0].map State.canWrite =
      [true, true, false, false, false, false, false, false] ∧
    [unconsumed 16 3 4, unconsumed 16 4 4, unconsumed 16 15 0] = [15, 0, 15] := by decide +kernel

theorem test_hyp_journalClaims :
    (waiting none [] 0).jour.ring = some { length := 16, writeBack := 0 } ∧
      (claiming 1).claim = 1 ∧ (claiming 2).claim < 3 ∧ (claiming 3).claim = 3 ∧
      (carrying (.journal 0 [0] true) 1).bus.face = some (.journal 0 [0] true) ∧
      (carrying (.journal 0 [0] true) 3).jour.writing = some (claiming 3) ∧
      (carrying (.journal 0 [0] true) 3).jour.queue ≠ [] ∧
      (carrying (.journal 0 [0] false) 3).bus.face = some (.journal 0 [0] false) := by decide +kernel

/-- The ring at the end of a claim, with so many records unconsumed. -/
def ringAt (n c : Nat) : State :=
  { carrying (.journal 0 [0] true) 3 with jour := { (carrying (.journal 0 [0] true) 3).jour with produce := n, consume := c } }

theorem test_hyp_ring : (ringAt 0 0).RingOk ∧ (ringAt 14 0).RingOk ∧ (ringAt 1 3).RingOk := by
  refine ⟨?_, ?_, ?_⟩ <;>
    exact (State.ringOk_configured (g := { length := 16, writeBack := 0 }) rfl).2 (by decide +kernel)

theorem test_ring_fills :
    (match exec .journalClaimDone (ringAt 14 0), exec .journalClaimDone (ringAt 15 1) with
      | .next t, .next u => (t.jour.produce, u.jour.produce, t.canWrite, u.canWrite) == (15, 0, false, false)
      | _, _ => false) = true := by decide +kernel

theorem test_crc_of_one_word : crc32 [0] = 0x2144DF1C := by decide +kernel

/-! ## The intake -/

/-- A measurement record of berth B2 with its check in place. -/
def meas2 (kind freq : Word) : List Word :=
  let w0 := kind ||| 0x08
  [w0, 0, freq, (0x10000 - (w0 + freq)) <<< 16]

theorem test_hyp_recordIdentity :
    ((field 8 0 2 = 0) ∧ (field 0x09 2 2 = 2 ∧ field 0x09 0 2 = 1)) ∧
      ((0 : Word) - 0).toInt.natAbs ≤ (ready.params.get .b2).stalenessMs * 1000 ∧
      (ready.params.get .b2).stalenessMs * 1000 < ((200001 : Word) - 0).toInt.natAbs ∧
      ¬(ready.params.get .b2).stalenessMs * 1000 < ((200000 : Word) - 0).toInt.natAbs ∧
      ((meas2 1 45000).getD 0 0 = 0x09) := by decide +kernel

theorem test_record_check_sums :
    [(1, 45000), (2, 65000), (3, 0)].all (fun (x : Word × Word) =>
      let w := fun i => (meas2 x.1 x.2).getD i 0
      identityOk .b2 (parseMeas (w 0) (w 1) (w 2) (w 3))) = true := by decide +kernel

/-- The stream of berth B2 that expects sequence 5. -/
def expecting : State := ready.updMeas .b2 fun m => { m with baselineSet := true, expected := 5 }

theorem test_hyp_recordSequence :
    (ready.meas.get .b2).baselineSet = false ∧ (expecting.meas.get .b2).baselineSet = true ∧
      [5, 6, 132, 133, 4].map (fun q : BitVec 8 => (q - (expecting.meas.get .b2).expected).toNat) =
        [0, 1, 127, 128, 255] ∧ (applySeq .b2 133 expecting) = none := by decide +kernel

theorem test_hyp_measurementAccepted :
    let w := fun k f i => (meas2 k f).getD i 0
    (field (w 1 45000 0) 0 2 = 1 ∧ 45000 ≤ field (w 1 45000 2) 0 16 ∧ field (w 1 45000 2) 0 16 ≤ 65000) ∧
      (field (w 2 65000 0) 0 2 = 2 ∧ 45000 ≤ field (w 2 65000 2) 0 16 ∧ field (w 2 65000 2) 0 16 ≤ 65000) ∧
      field (w 1 44999 2) 0 16 < 45000 ∧ 65000 < field (w 2 65001 2) 0 16 ∧
      (field (w 3 0 0) 0 2 = 3 ∧ field (w 3 0 2) 24 8 = 0) ∧ (applySeq .b2 0 ready).isSome = true ∧
      timeOk ready.now (w 1 45000 1) (ready.stalenessUs .b2) = true ∧
      ((holding .matching).osc.get .b0).running = true := by decide +kernel

/-- Berth B0 with register baseline 5 of epoch 1, and its bridge timer. -/
def based (bridge : Timer) (stale : Bool) : State :=
  ready.updMeas .b0 fun m => { m with base := some { value := 5, epoch := 1 }, bridge := bridge, staleBetween := stale }

theorem test_hyp_readings :
    (ready.meas.get .b0).base = none ∧ ((based .stopped true).meas.get .b0).base = some ⟨5, 1⟩ ∧
      ((based (.running 0) true).meas.get .b0).bridge.isRunning = true ∧
      (field ((meas2 3 0x01000000).getD 0 0) 0 2 = 3 ∧ field ((meas2 3 0x01000000).getD 2 0) 24 8 ≠ 0) := by
  decide +kernel

theorem test_measurement_refreshes_slot :
    (match exec (.measurementRecord .b2 15 ((meas2 2 65000).getD 0 0) 0 65000 ((meas2 2 65000).getD 3 0)) ready with
      | .next t => (t.meas.get .b2).shore.fresh == .fresh && t.outstanding .meter
      | _ => false) = true := by decide +kernel

/-- The slots of berth B0 at the end of their staleness timers. -/
def stale (k : SlotKind) : State :=
  (holding .parallelIn).updMeas .b0 fun m =>
    match k with
    | .shipPhasor => { m with ship := { m.ship with timer := .running 0 } }
    | .shorePhasor => { m with shore := { m.shore with timer := .running 0 } }
    | .feederPower => { m with feeder := { m.feeder with timer := .running 0 } }

theorem test_hyp_slotGoesStale :
    ((stale .shipPhasor).meas.get .b0).slotTimer .shipPhasor = .running 0 ∧
      ((stale .shipPhasor).osc.get .b0).running = true ∧
      ((stale .shipPhasor).osc.get .b0).effective.isTracking = true ∧
      ((stale .shorePhasor).meas.get .b0).slotTimer .shorePhasor = .running 0 ∧
      ((stale .feederPower).meas.get .b0).slotTimer .feederPower = .running 0 ∧
      ((stale .feederPower).seq.get .b0).state = .parallelIn := by decide +kernel

/-- Every timer of ExpiriesThatOnlyStop at its end. -/
def ended : State :=
  let s := ready.updMod .m0 fun x => { x with retryWindow := .running 0, blankExpiry := some 0 }
  let s := s.updMeas .b0 fun m => { m with bridge := .running 0 }
  let s := s.updOsc .b0 fun o => { o with running := true, gliding := true }
  let s := s.updSync .b0 fun u => { u with closePulse := .running 0, deadTime := .running 0 }
  { s with page := { s.page with unlockTimer := .running 0 }, jour := { s.jour with coalTimer := .running 0 } }

theorem test_hyp_expiries :
    (ended.mods.get .m0).retryWindow = .running 0 ∧
      ((ended.mods.get .m0).blankExpiry = some 0 ∧ stampDiff 0 ended.now ≤ 0) ∧
      (ended.meas.get .b0).bridge = .running 0 ∧
      ((ended.osc.get .b0).running = true ∧ (ended.osc.get .b0).gliding = true ∧
        (ended.osc.get .b0).freq = (ended.osc.get .b0).target) ∧
      (ended.sync.get .b0).closePulse = .running 0 ∧ (ended.sync.get .b0).deadTime = .running 0 ∧
      ended.page.unlockTimer = .running 0 ∧ ended.jour.coalTimer = .running 0 := by decide +kernel

/-! ## Modules -/

/-- A status record of module M0, READY, with sequence 1. -/
def statusWords (flags : Word) : List Word := [0x10000 ||| flags, 0, 0, 0, 0, 0, 0, 0xFFFF - flags]

theorem test_hyp_statusRecord :
    (checkSum (List.replicate 8 1) ≠ 0 ∧ (List.replicate 8 (1 : Word)).length = 8) ∧
      checkSum (statusWords 0) = 0 ∧ (wordAt (statusWords 0) 0).extractLsb' 16 16 = 1 ∧
      (ready.mods.get .m0).latest = none ∧
      ((((ready.updMod .m0 fun x => { x with latest := some (parseStatus (statusWords 0)) }).mods.get .m0).latest.map
        (·.seq)) = some 1) := by decide +kernel

/-- Module M0 serving berth B0, its latest status seen before, and what a record does to it. -/
def reported (r : RunState) (back : Bool) (s : State) : State :=
  (serving r s).updMod .m0 fun x => { x with returning := back }

theorem test_hyp_statusServing (r : RunState) (back : Bool) :
    (reported r back (at0 .energised ready)).LinkOpen (entry .moduleStat 0x100700 256 0) (statusWords 0x802) ∧
      ((reported r back (at0 .energised ready)).mods.get .m0).standing = .assigned .b0 r := by
  refine ⟨⟨test_table_in_order, ?_, ?_, by decide⟩, ?_⟩ <;> cases r <;> cases back <;> first | rfl | exact ⟨rfl, rfl⟩

theorem test_hyp_statusFlags :
    checkSum (statusWords 0x802) = 0 ∧ (parseStatus (statusWords 0x802)).state = .running ∧
      (reached 2 (countedFlags false (parseStatus (statusWords 0x802)).flags) ⟨0, 0, 0, 1⟩).any = true ∧
      (parseStatus (statusWords 2)).flags.any = false ∧
      (reported .joining true (at0 .energised ready)).meetsWithout .b0 .m0 = true ∧
      ((reported .joining true (at0 .energised ready)).mods.get .m0).returning = true := by decide +kernel

/-- Module M0's standing after a status record. -/
def standingAfter (ws : List Word) (s : State) : Option Standing :=
  match exec (.moduleStatusRecord .m0 ws) s with
  | .next t => some (t.mods.get .m0).standing
  | _ => none

theorem test_status_moves_module :
    [standingAfter (statusWords 2) (reported .joining false (at0 .energised ready)),
      standingAfter (statusWords 2) (reported .joining true (at0 .energised ready)),
      standingAfter (statusWords 0x802) (reported .running false (at0 .energised ready)),
      standingAfter (statusWords 0x802) (reported .blockedByBerth false (at0 .energised ready))] =
      [some (.assigned .b0 .running), some .available, some (.assigned .b0 .retryWaitFast),
        some (.assigned .b0 .blockedByBerth)] := by decide +kernel

/-- A joining module whose status goes stale, with so many retries behind it. -/
def staleModule (fast slow : Nat) : State :=
  (serving .joining (at0 .energising ready)).updMod .m0 fun x =>
    { x with staleTimer := .running 0, fastCount := fast, slowCount := slow }

theorem test_hyp_staleModule :
    ((staleModule 0 0).mods.get .m0).staleTimer = .running 0 ∧
      ((staleModule 0 0).mods.get .m0).standing = .assigned .b0 .joining ∧
      ((staleModule 1 0).mods.get .m0).fastCount < (staleModule 1 0).prot.fastCount ∧
      ((staleModule 2 0).prot.fastCount ≤ ((staleModule 2 0).mods.get .m0).fastCount ∧
        ((staleModule 2 0).mods.get .m0).slowCount < (staleModule 2 0).prot.slowCount) ∧
      ((staleModule 2 1).prot.fastCount ≤ ((staleModule 2 1).mods.get .m0).fastCount ∧
        (staleModule 2 1).prot.slowCount ≤ ((staleModule 2 1).mods.get .m0).slowCount) ∧
      Standing.available.counting? = none := by decide +kernel

/-- A module at the end of its retry wait. -/
def retried (st : BerthState) : State :=
  (serving .retryWaitFast (at0 st ready)).updMod .m0 fun x => { x with retryWait := .running 0 }

theorem test_hyp_retryWait :
    ((retried .energised).mods.get .m0).retryWait = .running 0 ∧
      ((retried .energised).mods.get .m0).standing = .assigned .b0 .retryWaitFast ∧
      ((retried .energised).seq.get .b0).state.isActive = true ∧
      ((retried .tripped).seq.get .b0).state.isActive = false := by decide +kernel

theorem test_hyp_allocation :
    allocate [(.m0, 1000), (.m1, 500)] 1000 1 = some [.m0, .m1] ∧
      allocate [(.m0, 1000), (.m1, 500)] 1000 2 = none ∧ connectable.allocation 1000 0 = some [.m0] ∧
      ready.allocation 1000 0 = none ∧ ModuleId.m7.num = 7 := by decide +kernel

theorem test_hyp_shares :
    ((serving .running (at0 .parallelIn ready)).seq.get .b0).state.moduleMode = .follow ∧
      0 < (serving .running (at0 .parallelIn ready)).healthy .b0 ∧
      ((serving .running (at0 .parallelIn ready)).mods.get .m1).healthyFor .b0 = false ∧
      ((serving .running (at0 .energised ready)).seq.get .b0).state.moduleMode ≠ .follow := by decide +kernel

/-- A module of berth B0 commanded in a mode. -/
def commanded (m : CmdMode) : State := (serving .running ready).updMod .m0 fun x => { x with mode := m }

theorem test_hyp_commandRecord :
    ((commanded .off).mods.get .m0).mode = .off ∧ held.inHold = true ∧ (commanded .form).inHold = false ∧
      [CmdMode.blocked, .form, .follow].all (fun m => ((commanded m).mods.get .m0).mode == m) = true ∧
      ((commanded .form).mods.get .m0).standing = .assigned .b0 .running := by decide +kernel

theorem test_cmdWord_places :
    let s := (serving .running ready).updMod .m7 fun x => { x with standing := .assigned .b2 .running, mode := .form }
    (List.range 8).map (fun i => s.cmdWord (56 + i)) = s.commandRecord .m7 ∧ s.cmdWord 56 = 0x22 ∧
      (s.commandRecord .m7).length = 8 ∧ s.cmdWord 48 = 0 := by decide +kernel

theorem test_firstHealthy_is_lowest :
    let join (m : ModuleId) (s : State) := s.updMod m fun x =>
      { x with
        standing := .assigned .b0 .running
        latest := some { state := .running, flags := ⟨false, false, false, false⟩, current := 0, power := 0, temperature := 0, seq := 0 } }
    (join .m5 (join .m3 ready)).firstHealthy .b0 = some .m3 ∧ (join .m7 ready).firstHealthy .b0 = some .m7 ∧
      ready.firstHealthy .b0 = none ∧ (join .m3 ready).firstHealthy .b1 = none := by decide +kernel

/-! ## Timers of the sequencer and of the Synchronising Unit -/

/-- Berth B0 in a state, every timer of its sequencer and of its Synchronising Unit at its end. -/
def elapsed (st : BerthState) : State :=
  let s := (holding st).updSeq .b0 fun q =>
    { q with
      energise := .running 0, syncT := .running 0, parallel := .running 0, overload := .running 0
      reverse := .running 0, current := some { kind := .sync, tag := 1 } }
  s.updSync .b0 fun u => { u with closeConfirm := .running 0, openConfirm := .running 0, closeDue := .running 0 }

theorem test_hyp_timersOver (st : BerthState) :
    (((elapsed st).seq.get .b0).state = st ∧ ((elapsed st).seq.get .b0).energise = .running 0 ∧
      ((elapsed st).seq.get .b0).syncT = .running 0 ∧ ((elapsed st).seq.get .b0).parallel = .running 0 ∧
      ((elapsed st).seq.get .b0).overload = .running 0 ∧ ((elapsed st).seq.get .b0).reverse = .running 0) ∧
      ((elapsed st).sync.get .b0).closeConfirm = .running 0 ∧ ((elapsed st).sync.get .b0).openConfirm = .running 0 ∧
      ((elapsed st).sync.get .b0).closeDue = .running 0 := by cases st <;> decide

theorem test_hyp_judged :
    BerthState.parallelIn.judgesReverse = true ∧ BerthState.shoreOnly.judgesReverse = true := by decide

/-- Berth B0's state after a command. -/
def after (c : Instr) (s : State) : Option BerthState :=
  match exec c s with
  | .next t => some (t.seq.get .b0).state
  | _ => none

theorem test_timers_move_berth :
    [after (.syncTimerExpiry .b0) (elapsed .armed), after (.closeConfirmExpiry .b0) (elapsed .closing),
      after (.parallelTimerExpiry .b0) (elapsed .parallelIn), after (.overloadTimerExpiry .b0) (elapsed .parallelOut),
      after (.overloadTimerExpiry .b0) (elapsed .shoreOnly), after (.reversePowerTimerExpiry .b0) (elapsed .shoreOnly),
      after (.energiseTimerExpiry .b0) (elapsed .energising), after (.openConfirmExpiry .b0) (elapsed .opening),
      after (.syncTimerExpiry .b0) (elapsed .shoreOnly)] =
      [some .energised, some .energised, some .opening, some .opening, some .tripped, some .opening, some .tripped,
        some .tripped, some .shoreOnly] := by decide +kernel

/-- ENERGISING at the end of its ramp, with the shore voltage so high. -/
def rampDone (volt : Nat) : State :=
  ((holding .energising).updSeq .b0 fun q => { q with volt := .rising 5000000 }).updMeas .b0 fun m =>
    { m with shore := { m.shore with latest := some (phasor 50000 volt) } }

theorem test_hyp_energiseRamp :
    ((rampDone 6930).seq.get .b0).volt = .rising 5000000 ∧
      ((rampDone 6930).params.get .b0).energiseRampS * 1000000 ≤ 5000000 ∧
      ((rampDone 6930).seq.get .b0).state = .energising ∧ (rampDone 6930).energiseCheck .b0 = true ∧
      (rampDone 6931).energiseCheck .b0 = false ∧ (rampDone 6269).energiseCheck .b0 = false ∧
      (rampDone 6270).energiseCheck .b0 = true ∧ ((rampDone 6930).seq.get .b0).firstEnergised = false ∧
      ((rampDone 6930).seq.get .b0).profile = some profile ∧
      (((rampDone 6930).updSeq .b0 fun q => { q with firstEnergised := true }).seq.get .b0).firstEnergised = true := by
  decide +kernel

/-- WAITING_MODULES at the end of its claim timer. -/
def claimOver : State :=
  { at0 .waitingModules ready with claims := [{ berth := .b0, demand := 1000, reserve := 0, timer := .running 0 }] }

/-- DE_ENERGISING with its voltage at 0. -/
def fallen : State := (at0 .deEnergising ready).updSeq .b0 fun q => { q with volt := .falling 5000000 }

theorem test_hyp_berthReturnsToIdle :
    claimOver.claimTimer .b0 = .running 0 ∧ (claimOver.seq.get .b0).state ≠ .deEnergising ∧
      (∀ m ∈ ModuleId.list, (claimOver.mods.get m).serves .b0 = false) ∧ (fallen.seq.get .b0).volt = .falling 5000000 ∧
      (fallen.params.get .b0).energiseRampS * 1000000 ≤ 5000000 ∧ (fallen.seq.get .b0).state = .deEnergising ∧
      (∀ c ∈ fallen.claims, c.berth ≠ .b0) := by decide +kernel

theorem test_berth_returns_to_idle :
    [after (.claimTimerExpiry .b0) claimOver, after (.deEnergisingComplete .b0) fallen] = [some .idle, some .idle] := by
  decide +kernel

/-- An oscillator 10 mHz from the target of its requested mode. -/
def near : State := (holding .matching).updOsc .b0 fun o => { o with effective := .nominal, freq := o.freq - 10000000 }

theorem test_hyp_rampsAndGlides :
    (((ramping .rising 3000000).seq.get .b0).dir = .rising ∧
        ((ramping .rising 3000000).seq.get .b0).target * 1000000 ≤
          ((ramping .rising 3000000).seq.get .b0).setpoint) ∧
      (((ramping .falling 0).seq.get .b0).dir = .falling ∧ ((ramping .falling 0).seq.get .b0).setpoint = 0) ∧
      ((near.osc.get .b0).running = true ∧ (near.osc.get .b0).requested ≠ (near.osc.get .b0).effective ∧
        (near.osc.get .b0).requested ≠ .trackLock ∧
        (near.osc.get .b0).governing (near.shipFresh .b0) = (near.osc.get .b0).requested ∧
        ((near.osc.get .b0).freq - (near.osc.get .b0).target) +
          ((near.osc.get .b0).target - (near.osc.get .b0).freq) ≤ 10000000) ∧
      ((ready.updSync .b0 fun u => { u with tripPulse := .running 0 }).sync.get .b0).tripPulse = .running 0 ∧
      ((ramping .rising 1000000).seq.get .b0).kwMoved = true := by decide +kernel

theorem test_hyp_windowEvaluation :
    (State.reset.seq.get .b0).state ≠ .matching ∧ (State.reset.seq.get .b0).state ≠ .armed ∧
      ((at0 .matching ready).evalWindow .b0).holds = false ∧ ((at0 .armed ready).evalWindow .b0).holds = false ∧
      ((holding .matching).evalWindow .b0).holds = true ∧ ((holding .armed).evalWindow .b0).holds = true ∧
      ((holding .matching).osc.get .b0).requested = .trackSlip ∧
      ((holding .armed).evalWindow .b0).slip = some 80 ∧
      ((holding .armed).params.get .b0).closeTimeMs ≤ 200 := by decide +kernel

theorem test_hyp_closeDue :
    (((elapsed .armed).evalWindow .b0).holds = true ∧ ((elapsed .armed).sync.get .b0).deadTime.isRunning = false ∧
        (elapsed .armed).tripLine .b0 = false ∧ ((elapsed .armed).sync.get .b0).closeUsed = false) ∧
      ((((elapsed .armed).updSync .b0 fun u => { u with closeUsed := true }).sync.get .b0).closeUsed = true ∧
        (((elapsed .armed).updSync .b0 fun u => { u with closeUsed := true }).evalWindow .b0).slip = some 80) ∧
      (((elapsed .armed).updSync .b0 fun u => { u with residual := none }).evalWindow .b0).holds = false := by
  decide +kernel

theorem test_close_due_decides :
    [after (.closeDueExpiry .b0) (elapsed .armed),
      after (.closeDueExpiry .b0) ((elapsed .armed).updSync .b0 fun u => { u with closeUsed := true }),
      after (.closeDueExpiry .b0) ((elapsed .armed).updSync .b0 fun u => { u with residual := none })] =
      [some .closing, some .armed, some .matching] := by decide +kernel

/-- The machine with a command in front. -/
def before (c : Instr) (s : State) : State := { s with pending := [c] }

theorem test_hyp_closingRule :
    ((before (.closeDueExpiry .b0) (elapsed .armed)).closeLine .b0 = false ∧
      (match step (before (.closeDueExpiry .b0) (elapsed .armed)) with
        | .next t => t.closeLine .b0 && (t.sync.get .b0).closeUsed
        | _ => false) = true) ∧ (0 : Nat) < 80 := by decide +kernel

/-! ## Breakers -/

/-- Berth B0 in a state with its breaker view. -/
def viewed (v : Bool) (st : BerthState) : State := (holding st).updSync .b0 fun u => { u with view := v }

theorem test_hyp_breakerMovements :
    ((viewed true .closing).sync.get .b0).view = true ∧ ((viewed false .closing).sync.get .b0).view = false ∧
      (viewed false .closing).inHold = false ∧ held.inHold = true ∧ (held.sync.get .b0).view = false ∧
      ({ viewed true .opening with tripHold := .running 1 } : State).inHold = true ∧
      (viewed false .closing).shipFresh .b0 = true ∧
      ((viewed false .closing).meas.get .b0).ship.latest = some (phasor 50000 6600) ∧
      (at0 .closing ready).shipFresh .b0 = false ∧ (at0 .closing ready).inHold = false ∧
      ((at0 .closing ready).sync.get .b0).view = false ∧
      BerthState.opening.isClosed = true ∧ BerthState.shoreOnly.isClosed = true ∧
      BerthState.tripped.isClosed = false ∧ BerthState.energised.isClosed = false := by decide +kernel

theorem test_breaker_movements :
    [after (.breakerViewRise .b0) (viewed false .closing), after (.breakerViewRise .b0) (viewed false .armed),
      after (.breakerViewRise .b0) (viewed true .closing), after (.breakerViewFall .b0) (viewed true .opening),
      after (.breakerViewFall .b0) (viewed true .shoreOnly), after (.breakerViewFall .b0) (viewed true .tripped)] =
      [some .parallelIn, some .tripped, some .closing, some .energised, some .energised, some .tripped] := by
  decide +kernel

/-! ## Requests -/

/-- The berth page window of B0. -/
def pageWindow : WindowEntry := entry .berthPage 0x100300 256 0

/-- Berth B0 connectable, in a state, with its page open. -/
def asked (st : BerthState) : State := (at0 st connectable).updSeq .b0 fun q => { q with volt := .nominal }

theorem test_hyp_asked (st : BerthState) : (asked st).Asked .b0 pageWindow profileWords := by
  cases st <;> exact ⟨⟨test_table_in_order, by decide +kernel, rfl, rfl⟩, by decide, by decide, rfl⟩

theorem test_hyp_requestWords :
    (1 ≤ 1 ∧ 1 ≤ profileWords.length ∧ 1 + profileWords.length ≤ 8) ∧
      (State.reset.seq.get .b0).shadow.length = 7 ∧ profileWords.length ≤ 7 ∧
      request? (.connect .b0 1 profileWords) = some (.b0, 1, 1, profileWords) := by decide

/-- The shadow after a write that carries the profile. -/
def filled (st : BerthState) : State := writeShadow .b0 (numbered 1 profileWords) (asked st)

theorem test_hyp_requestsRefused :
    RequestKind.ofCode? 0 = none ∧ RequestKind.ofCode? 8 = none ∧ RequestKind.ofCode? 7 = some .clear ∧
      ({ asked .idle with page := { ready.page with presence := .lost } } : State).page.presence = .lost ∧
      (((elapsed .armed).seq.get .b0).current.isSome = true ∧ (elapsed .armed).page.presence ≠ .lost) ∧
      ready.clock.timeUnset = true ∧ (asked .idle).clock.timeUnset = false ∧
      billingHeld [{ berth := some .b0, session := 1, time := ⟨0, 0⟩, body := .sessionClose [] }] .b0 ≠ 0 ∧
      (ready.params.get .b0).configured = false ∧ parseProfile (List.replicate 7 0) = none ∧
      (asked .idle).poolAnswer { profile with demand := 16000 } = .unservable ∧
      ¬(((asked .tripped).seq.get .b0).state = .tripped ∧ ((asked .tripped).seq.get .b0).profile.isSome = true ∧
        ((asked .tripped).sync.get .b0).view = false ∧ (asked .tripped).tripLine .b0 = false) := by decide +kernel

theorem test_hyp_connect :
    ((asked .idle).seq.get .b0).state = .idle ∧ billingHeld (asked .idle).jour.queue .b0 = 0 ∧
      ((asked .idle).params.get .b0).configured = true ∧
      parseProfile ((filled .idle).seq.get .b0).shadow = some profile ∧
      (asked .idle).poolAnswer profile = .served [.m0] ∧
      ({ asked .idle with
          claims := [{ berth := .b1, demand := 1000, reserve := 0, timer := .stopped }] } : State).poolAnswer
        profile = .queued := by decide +kernel

theorem test_pool_answers :
    [({ asked .idle with mods := (asked .idle).mods.map fun m => { m with fit := false } } : State).poolAnswer profile,
      ({ asked .idle with mods := (asked .idle).mods.map fun m => { m with standing := .lockedOut } } : State).poolAnswer
        { profile with demand := 8000 },
      (asked .idle).poolAnswer { profile with demand := 8000 },
      (asked .idle).poolAnswer { profile with demand := 8000, reserve := 1 }, ready.poolAnswer profile] =
      [.queued, .queued, .served ModuleId.list, .unservable, .unservable] := by decide +kernel

theorem test_requests_move_berth :
    [after (.connect .b0 1 profileWords) (asked .idle), after (.connect .b0 1 []) (asked .idle),
      after (.sync .b0 1 []) (asked .energised), after (.gensOff .b0 1 []) (asked .parallelIn),
      after (.gensOn .b0 1 []) (asked .shoreOnly), after (.disconnect .b0 1 []) (asked .energised),
      after (.abort .b0 1 []) (asked .armed), after (.abort .b0 1 []) (asked .parallelIn),
      after (.sync .b0 1 []) (asked .parallelIn)] =
      [some .energising, some .idle, some .matching, some .shoreOnly, some .parallelOut, some .deEnergising,
        some .energised, some .parallelOut, some .parallelIn] := by decide +kernel

/-- ENERGISED with the conditions of the sync window, the close used before. -/
def syncable : State :=
  { asked .energised with
    meas := (holding .energised).meas, osc := (holding .energised).osc
    sync := (holding .energised).sync.set .b0 { (holding .energised).sync.get .b0 with closeUsed := true }
    seq := (holding .energised).seq }

theorem test_sync_arms_at_once :
    after (.sync .b0 1 []) syncable = some .armed ∧
      (match step (before (.sync .b0 1 []) syncable) with
        | .next t => (t.evalWindow .b0).holds && !(t.sync.get .b0).closeUsed
        | _ => false) = true ∧ (syncable.sync.get .b0).closeUsed = true ∧
      ((syncable.osc.get .b0).running = true ∧ (syncable.seq.get .b0).state = .energised) := by decide +kernel

/-- TRIPPED with a profile, its voltage at 0 and its breaker open. -/
def tripped : State :=
  (asked .tripped).updSeq .b0 fun q => { q with profile := some profile, volt := .zero }

theorem test_hyp_requestsMove :
    ((asked .energised).seq.get .b0).volt ≠ .zero ∧ (tripped.seq.get .b0).volt = .zero ∧
      (∀ c ∈ tripped.claims, c.berth ≠ .b0) ∧ (tripped.seq.get .b0).profile.isSome = true ∧
      (tripped.sync.get .b0).view = false ∧ tripped.tripLine .b0 = false ∧ (tripped.seq.get .b0).current = none ∧
      tripped.page.presence ≠ .lost := by decide +kernel

theorem test_tripped_requests :
    [after (.clear .b0 1 []) tripped, after (.disconnect .b0 1 []) tripped] = [some .energising, some .idle] := by
  decide +kernel

theorem test_hyp_abort :
    (asked .waitingModules).page.presence ≠ .lost ∧ ((asked .waitingModules).seq.get .b0).state = .waitingModules ∧
      ((asked .matching).seq.get .b0).state = .matching ∧ ((asked .parallelIn).seq.get .b0).state = .parallelIn := by
  decide +kernel

/-! ## The station page -/

theorem test_hyp_stationWords : 248 + (List.replicate 8 (0 : Word)).length ≤ 256 ∧ (215 < 216) ∧ (254 ≤ 255) := by
  decide

/-- The station in a presence state, its heartbeat timer at its end. -/
def present (p : Presence) (st : BerthState) : State :=
  { holding st with page := { ready.page with presence := p, hbTimer := .running 0 } }

theorem test_hyp_heartbeat :
    ready.page.presence = .inactive ∧ (present .awaiting .idle).page.presence = .awaiting ∧
      (present .lost .idle).page.presence = .lost ∧ (present .present .idle).page.hbTimer = .running 0 ∧
      ((present .present .matching).seq.get .b0).state = .matching ∧
      ((present .present .parallelIn).seq.get .b0).state = .parallelIn := by decide +kernel

theorem test_loss_leaves_armed : after .heartbeatTimerExpiry (present .present .armed) = some .energised := by
  decide +kernel

/-- The page with the unlock window in a state. -/
def unlocking (u : Unlock) : State := { ready with page := { ready.page with unlock := u } }

theorem test_hyp_unlock :
    (unlocking .closed).page.unlock = .closed ∧ (0 : Word) = ready.jour.nextSeq ∧
      (unlocking (.firstTaken 0)).page.unlock = .firstTaken 0 ∧ (0xFFFFFFFF : Word) = ~~~0 ∧
      (unlocking .opened).page.unlock = .opened := by decide +kernel

theorem test_unlock_opens :
    (match exec (.unlock 0xFFFFFFFF) (unlocking (.firstTaken 0)) with
      | .next t => t.page.unlock == .opened
      | _ => false) = true := by decide +kernel

/-- The channel in a state, with 3 records in the ring. -/
def channelled (c : Channel) : State :=
  { writable with jour := { writable.jour with channel := c, produce := 3 } }

theorem test_hyp_journalCommands :
    ((channelled .stopped).jour.channel = .stopped ∧ (channelled .stopped).bus.firstCommit = true ∧
        (channelled .stopped).jour.ring.isSome = true) ∧
      (channelled .stopPending).jour.channel = .stopPending ∧ (channelled .started).jour.channel = .started ∧
      State.reset.bus.firstCommit = false ∧
      ((3 : Word).toNat < (channelled .started).jour.len ∧
        unconsumed (channelled .started).jour.len 3 0 ≤ unconsumed (channelled .started).jour.len 3 0) ∧
      unconsumed (channelled .started).jour.len 3 0 < unconsumed (channelled .started).jour.len 4 0 ∧
      (channelled .started).jour.len ≤ (16 : Word).toNat := by decide +kernel

theorem test_journalCmd_other :
    [0, 4, 0x101, 0xFFFFFFFF].all (fun v : Word =>
      takeStationWord 220 v (channelled .started) == channelled .started) = true ∧
      takeStationWord 220 2 (channelled .started) ≠ channelled .started := by decide +kernel

theorem test_service_word_fields :
    takeStationWord 229 0xFFFF01F3 connectable = takeStationWord 229 (serviceWord 3 1) connectable ∧
      serviceWord 15 255 = 0xFF0F := by decide +kernel

theorem test_consume_to_produce :
    [3, 4, 16].map (fun n : Word => match exec (.journalConsume n) (channelled .started) with
      | .next t => (t.jour.consume, t.jour.refusals)
      | _ => (99, 99)) = [(3, 0), (0, 1), (0, 1)] := by decide +kernel

/-- A session of berth B0. -/
def session : Session :=
  { number := 1, shipCode := 7, callNumber := 3, demand := 1000, opened := ⟨0, 0⟩, totals := Energies.zero, peak := 0
    intervals := 0, interruptions := 0, parallels := 0, gaps := 0, trips := 0
    acc := { start := ⟨0, 0⟩, energy := Energies.zero, gap := false, timeStep := false, metrology := false } }

/-- A second has passed, to this second of the day. -/
def ticking (sec : Nat) : State :=
  { ready with now := 1000000, clock := { Clock.reset with time := ⟨0, sec⟩ }, sessions := ⟨some session, none, none⟩ }

theorem test_hyp_time :
    86400 ≤ (86400 : Word).toNat ∧ (86399 : Word).toNat < 86400 ∧
      1000000 ≤ ((ticking 898).now - (ticking 898).clock.tickInstant).toNat ∧
      (⟨0, 899⟩ : StationTime) ≠ (ticking 898).clock.nextBoundary ∧
      (⟨0, 900⟩ : StationTime) = (ticking 899).clock.nextBoundary ∧
      (ticking 899).sessions.get .b0 = some session ∧ (ticking 899).sessions.get .b1 = none ∧
      (ticking 899).carried = none := by decide +kernel

theorem test_ticks :
    [898, 899].map (fun n => match exec .stationTick (ticking n) with
      | .next t => (t.clock.time.second, (t.sessions.get .b0).map (·.intervals))
      | _ => (0, none)) = [(899, some 0), (900, some 1)] := by decide +kernel

theorem test_hyp_boundaryWhileCarried :
    ({ ticking 899 with carried := some ⟨0, 5⟩ } : State).carried.isSome = true ∧ (ticking 899).band = 0 := by
  decide +kernel

/-- A session whose present interval holds so much band 1 energy since a second of the day. -/
def metered (wh : BitVec 64) (sec : Nat) : Session :=
  { session with acc := { session.acc with start := ⟨0, sec⟩, energy := { Energies.zero with bands := ⟨0, wh, 0, 0⟩ } } }

theorem test_interval_average_demand :
    (closeInterval 15 ⟨0, 36900⟩ false false (metered 2950000 36000)).1.demand = 11800 ∧
      (closeInterval 15 ⟨0, 36900⟩ false false (metered 2950000 36000)).2.peak = 11800 ∧
      (closeInterval 15 ⟨0, 36900⟩ false false (metered 2950000 36001)).1.flags.partialInterval = true ∧
      (closeInterval 15 ⟨0, 36000⟩ false false (metered 7 36000)).1.demand = 0 := by decide +kernel

/-- SHORE_ONLY with an open session, a transfer on the face and one that waits. -/
def berthed : State :=
  { at0 .shoreOnly ready with
    sessions := ⟨some (metered 7 0), none, none⟩
    bus := { ready.bus with face := some (.pass (writeItem .meter 0 [1])), passList := [writeItem .link 4 [2]] } }

theorem test_hyp_lineReset :
    berthed.resetLow = false ∧ berthed.carried = none ∧ berthed.openSessions = 1 ∧
      berthed.bus.face = some (.pass (writeItem .meter 0 [1])) ∧ writeItem .link 4 [2] ∈ berthed.bus.passList ∧
      (∀ i ∈ berthed.bus.passList, i.tag ≠ .supervisor) ∧ (berthed.seq.get .b0).state = .shoreOnly ∧
      ({ low none with resetLow := false, bus := { ready.bus with face := some (.journal 0 [1] true) } } : State).bus.face =
        some (.journal 0 [1] true) ∧ State.reset.bus.face = none := by decide +kernel

theorem test_reset_carries_and_closes_session :
    (match exec .lineReset berthed with
      | .next t =>
        t.carried == some ⟨0, 0⟩ && (t.sessions.get .b0).map (·.interruptions) == some 1 &&
          t.bus.resp.link == some .refused &&
          (match exec .lineResetRelease t with
            | .next u => u.jour.queue.map (·.body.code) == [2, 3, 5] && u.sessions.b0 == none && u.carried == none
            | _ => false)
      | _ => false) = true := by decide +kernel

theorem test_hyp_service :
    (7#4).toNat = ModuleId.m7.num ∧ 8 ≤ (8#4).toNat ∧ (0#8 ≠ 1 ∧ 0#8 ≠ 2 ∧ 0#8 ≠ 3) ∧ (4#8 ≠ 3) ∧
      [Standing.available, .lockedOut, .outOfService].all (fun x =>
        ((ready.updMod .m7 fun r => { r with standing := x }).mods.get .m7).standing == x) = true ∧
      ((serving .running ready).mods.get .m0).standing = .assigned .b0 .running := by decide +kernel

/-! ## Commits -/

/-- A configuration that is in order: the test window table, the journal, the protection and the other sections. -/
def config : List Word :=
  ([(0x100000, 256, 1, 0), (0x100100, 256, 1, 1), (0x100200, 256, 1, 2), (0x100300, 256, 2, 0), (0x100400, 256, 2, 1),
    (0x100500, 256, 2, 2), (0x100600, 256, 3, 0), (0x100700, 256, 4, 0), (0x100800, 1024, 5, 0), (0, 0, 0, 0),
    (0, 0, 0, 0), (0, 0, 0, 0)].flatMap fun (x : Word × Word × Word × Word) => [x.1, x.2.1, x.2.2.1, x.2.2.2]) ++
    List.replicate 80 0 ++ [16, 0] ++ List.replicate 14 0 ++ [2, 100, 1000, 2, 60, 1, 1000, 2000, 300] ++
    List.replicate 15 0 ++ [15, 60] ++ List.replicate 38 0 ++ [0xFFFF, 8, 500] ++ List.replicate 5 0

/-- After reset, with the configuration and its CRC written and the unlock window open. -/
def configured : State :=
  { State.reset with
    page := { State.reset.page with shadow := config, shadowCrc := crc32 config, unlock := .opened } }

theorem test_config_length : config.length = 216 := by decide +kernel

theorem test_hyp_commitTakesEffect :
    commitMask? (.commitWindows 0x7F) = some 0x7F ∧ (0x7F : Word) ≠ 0 ∧ (0x7F : Word).toNat < 128 ∧
      (∀ x ∈ Section.list, configured.checkSection x = none ∧ configured.sectionReady x = true) ∧
      configured.checkTies 0x7F = none ∧ names 0x7F .windows = true ∧ configured.page.unlock = .opened ∧
      metrologyHeld configured.jour.queue = 0 ∧ configured.jour.queue = [] ∧
      configured.resetLow = false ∧ configured.outstanding .supervisor = false := by decide +kernel

theorem test_hyp_commit_crc : crc32 configured.page.shadow = configured.page.shadowCrc := rfl

/-- The configuration with one word changed, its CRC in order. -/
def spoilt (n : Nat) (v : Word) : State :=
  { configured with page := { configured.page with
      shadow := config.set n v, shadowCrc := crc32 (config.set n v), unlock := .closed } }

theorem test_hyp_commitsRefused :
    128 ≤ (128 : Word).toNat ∧
      (spoilt 144 5).checkSection .protection = some ⟨some .protection, 144⟩ ∧
      (spoilt 128 17).checkSection .journal = none ∧ (spoilt 128 17).checkTies 0x7F = some ⟨some .journal, 128⟩ ∧
      (configured.bus.firstCommit = false ∧ names 0x08 .windows = false ∧ configured.checkTies 0x08 = none) ∧
      (channelled .started).sectionReady .journal = false ∧ (channelled .started).sectionReady .berths = true ∧
      (spoilt 0 0x100000).page.unlock ≠ .opened ∧
      metrologyHeld [{ berth := none, session := 0, time := ⟨0, 0⟩, body := .configChange [] }] ≠ 0 := by
  decide +kernel

theorem test_sections_out_of_range :
    [(spoilt 48 1).checkSection .berths, (spoilt 96 1).checkSection .pool, (spoilt 160 1).checkSection .metrology,
      (spoilt 168 7).checkSection .metrology, (spoilt 209 65).checkSection .attention,
      (spoilt 209 64).checkSection .attention, (spoilt 37 0).checkSection .windows, (spoilt 26 0).checkSection .windows,
      (spoilt 0 0x100100).checkSection .windows, (spoilt 162 5).checkSection .metrology] =
      [some ⟨some .berths, 49⟩, some ⟨some .pool, 97⟩, some ⟨some .metrology, 160⟩, some ⟨some .metrology, 168⟩,
        some ⟨some .attention, 209⟩, none, none, some ⟨some .windows, 0⟩, some ⟨some .windows, 0⟩,
        some ⟨some .metrology, 162⟩] := by decide +kernel

/-- The configuration with the window entry of berth B2's page at a base and size. -/
def moved (base size : Word) : State :=
  { configured with page := { configured.page with shadow := (config.set 20 base).set 21 size } }

theorem test_window_bytes :
    [moved 0x100010 0, moved 0x100010 16, moved 0x0FFF00 256, moved 0x0FFF01 256, moved 0x100C00 256].map
        State.checkWindows =
      [some ⟨some .windows, 20⟩, some ⟨some .windows, 0⟩, none, some ⟨some .windows, 0⟩, none] := by decide +kernel

theorem test_spoilt_crc (n : Nat) (v : Word) : (spoilt n v).crcOk = true := beq_self_eq_true (crc32 (config.set n v))

theorem test_commit_accepted : configured.judgeCommit 0x7F = (.accepted, ⟨none, 0⟩) := by
  rw [State.judgeCommit, show configured.crcOk = true from beq_self_eq_true (crc32 config)]
  decide +kernel

theorem test_commit_refused :
    (spoilt 0 0x100000).judgeCommit 0 = (.badRange, ⟨none, 253⟩) ∧
      (spoilt 144 5).judgeCommit 0x10 = (.badRange, ⟨some .protection, 144⟩) ∧
      (spoilt 0 0x100000).judgeCommit 0x08 = (.badState, ⟨some .windows, 0⟩) ∧
      (spoilt 128 17).judgeCommit 0x7F = (.badRange, ⟨some .journal, 128⟩) ∧
      (spoilt 0 0x100000).judgeCommit 0x7F = (.locked, ⟨none, 0⟩) := by
  simp only [State.judgeCommit, test_spoilt_crc]
  decide +kernel

/-! ## Phasors and feeder power at the ends of their ranges -/

/-- A ship phasor that berth B0's oscillator leads by so many phase units at the present instant. -/
def lagging (n : Int) : Phasor := { phasor 50000 6600 with phase := ((-n) % 65536).toNat }

/-- Berth B0's oscillator asked for a mode while another is effective. -/
def switching (ask eff : OscMode) (before : Option OscMode) (lock : Bool) : State :=
  (holding .parallelIn).updOsc .b0 fun o =>
    { o with requested := ask, effective := eff, beforeHold := before, lock := lock }

/-- The oscillator's effective mode, its lock flag and its glide target in mHz, after a ship phasor. -/
def tracked (p : Phasor) (s : State) : OscMode × Bool × Nat :=
  let o := (acceptShip .b0 p s).osc.get .b0
  (o.effective, o.lock, o.target / 1000000)

theorem test_hyp_shipPhasorRules :
    [switching .trackLock .trackSlip none false, switching .trackLock .trackLock none true,
      switching .trackLock .hold (some .trackSlip) false, switching .nominal .trackSlip none false].all (fun s =>
        (s.osc.get .b0).running && decide ((s.osc.get .b0).target % 1000000 = 0)) = true ∧
      (switching .trackLock .trackSlip none false).OscOk ∧ (switching .trackLock .trackLock none true).OscOk ∧
      [364, 365, -364, 910, 911].map (fun n : Int =>
        Int.tdiv (((holding .matching).osc.get .b0).lead (lagging n) 0) 30517578125) = [364, 365, -364, 910, 911] := by
  refine ⟨by decide +kernel, ?_, ?_, by decide +kernel⟩ <;> (intro b; cases b <;> unfold Osc.Ok <;> decide +kernel)

theorem test_lock_at_two_and_five_degrees :
    [tracked (lagging 364) (switching .trackLock .trackSlip none false),
      tracked (lagging 365) (switching .trackLock .trackSlip none false),
      tracked (lagging 910) (switching .trackLock .trackLock none true),
      tracked (lagging 911) (switching .trackLock .trackLock none true),
      tracked (lagging 910) (switching .trackLock .trackLock none false),
      tracked (lagging (-364)) (switching .trackLock .hold (some .trackSlip) false)] =
      [(.trackLock, true, 49997), (.trackSlip, false, 49996), (.trackLock, true, 49991), (.trackLock, false, 49990),
        (.trackLock, false, 49991), (.trackLock, true, 50003)] := by decide +kernel

theorem test_targets_of_modes :
    [tracked (lagging 9200) (switching .trackLock .trackSlip none false),
      tracked (phasor 64950 6600) (switching .trackSlip .trackSlip none false),
      tracked (phasor 65000 6600) (switching .nominal .nominal none false)] =
      [(.trackSlip, false, 49900), (.trackSlip, false, 65000), (.nominal, false, 50000)] := by decide +kernel

/-- The oscillator of a state asked for a mode. -/
def asking (m : OscMode) (p : Option Phasor) (s : State) : OscMode × OscMode × Nat :=
  let o := (s.osc.get .b0).request { s.oscEnv .b0 with ship := p } m
  (o.requested, o.effective, o.target / 1000000)

theorem test_request_of_mode :
    [asking .trackLock (some (lagging 364)) (holding .closing), asking .trackLock (some (lagging 365)) (holding .closing),
      asking .trackLock none (holding .closing), asking .trackSlip none (switching .nominal .nominal none false),
      asking .trackSlip none (switching .trackLock .hold (some .trackLock) false),
      asking .nominal none (holding .energised)] =
      [(.trackLock, .trackLock, 49997), (.trackLock, .trackSlip, 49996), (.trackLock, .trackSlip, 50080),
        (.trackSlip, .nominal, 50000), (.trackSlip, .hold, 50080), (.nominal, .trackSlip, 50000)] := by decide +kernel

/-- ENERGISING with its voltage at nominal. -/
def atVoltage (st : BerthState) : State := (holding st).updSeq .b0 fun q => { q with volt := .nominal }

theorem test_shore_phasor_energises :
    [6269, 6270, 6930, 6931].map (fun v => ((acceptShore .b0 (phasor 50000 v) (atVoltage .energising)).seq.get .b0).state) =
      [.energising, .energised, .energised, .energising] ∧
    ((atVoltage .energising).seq.get .b0).state = .energising ∧ ((atVoltage .energising).seq.get .b0).volt = .nominal ∧
      ((atVoltage .matching).seq.get .b0).state ≠ .energising ∧ ((rampDone 6600).seq.get .b0).volt ≠ .nominal := by
  decide +kernel

/-- A feeder record of so many kW. -/
def feeder (kw : Int) : Feeder := { power := kw, epoch := 1, register := 9, stamp := 0 }

/-- Berth B0 in a state with one healthy module of 1000 kW and its protection timers held with 7 us left. -/
def loaded (st : BerthState) : State :=
  (serving .running (holding st)).updSeq .b0 fun q => { q with overload := .held 7, reverse := .held 7, staleHold := true }

/-- The two protection timers and the stale hold after a feeder record. -/
def judgedAt (kw : Int) (st : BerthState) : Timer × Timer × Bool :=
  let q := (acceptFeeder .b0 (feeder kw) (loaded st)).seq.get .b0
  (q.overload, q.reverse, q.staleHold)

theorem test_feeder_record_judges :
    (loaded .shoreOnly).healthy .b0 = 1000 ∧ (loaded .shoreOnly).prot.reverseKw = 300 ∧
    [judgedAt 1000 .shoreOnly, judgedAt 1001 .shoreOnly, judgedAt (-300) .shoreOnly, judgedAt (-301) .shoreOnly,
      judgedAt 1001 .energised, judgedAt 1001 .opening] =
      [(.stopped, .stopped, false), (.running 7, .stopped, false), (.stopped, .stopped, false),
        (.stopped, .running 7, false), (.running 7, .held 7, false), (.held 7, .held 7, false)] := by decide +kernel

theorem test_load_returned_below_release :
    ((loaded .parallelOut).params.get .b0).releaseKw = 200 ∧
    [199, 200].map (fun kw : Int => ((acceptFeeder .b0 (feeder kw) (loaded .parallelOut)).seq.get .b0).state) =
      [.opening, .parallelOut] ∧
    ((acceptFeeder .b0 (feeder 199) (loaded .parallelOut)).seq.get .b0).openCause = some .loadReturned ∧
    ((acceptFeeder .b0 (feeder 199) (loaded .parallelIn)).seq.get .b0).state = .parallelIn ∧
    ((acceptFeederFault .b0 (loaded .shoreOnly)).seq.get .b0).staleHold = false := by decide +kernel

/-- The last good power of B0 is 400 kW in reverse, its slot is of a freshness, and no protection timer runs. -/
def reversing (f : Freshness) : State :=
  (((holding .shoreOnly).updMeas .b0 fun m =>
    { m with feeder := { fresh := f, latest := some (feeder (-400)), timer := .stopped } }).updSeq .b0 fun q =>
      { q with reverse := .stopped })

theorem test_status_fault_judges_on_return_to_freshness :
    [Freshness.fresh, .stale].map (fun f => ((acceptFeederFault .b0 (reversing f)).seq.get .b0).reverse) =
      [.stopped, .running 1000000] ∧
    (acceptFeederFault .b0 (reversing .fresh)).seq = (reversing .fresh).seq ∧
    ((acceptFeederFault .b0 (reversing .fresh)).meas.get .b0).counters.meterStatus = 1 := by decide +kernel

/-- A slot of berth B0 at its end in a state, with an open session. -/
def goingStale (k : SlotKind) (st : BerthState) : State := { at0 st (stale k) with sessions := ⟨some session, none, none⟩ }

theorem test_stale_slots :
    [after (.slotStalenessExpiry .b0 .shorePhasor) (goingStale .shorePhasor .armed),
      after (.slotStalenessExpiry .b0 .shorePhasor) (goingStale .shorePhasor .matching),
      after (.slotStalenessExpiry .b0 .shipPhasor) (goingStale .shipPhasor .armed)] =
      [some .matching, some .matching, some .matching] ∧
    (match exec (.slotStalenessExpiry .b0 .feederPower) (goingStale .feederPower .parallelIn) with
      | .next t => (t.sessions.get .b0).map (fun x => (x.gaps, x.acc.gap)) == some (1, true) &&
          (t.seq.get .b0).staleHold && (t.seq.get .b0).dir == .level
      | _ => false) = true ∧ BerthState.parallelIn.isWatching = false := by decide +kernel

/-! ## Blanking, shares and the ramp's direction -/

theorem test_blanking_takes_the_later :
    [blankedUntil 5 0 (some 1), blankedUntil 5 0 none, blankedUntil 5 1 none, blankedUntil 5 1 (some 1004),
      blankedUntil 5 1 (some 1005), blankedUntil 5 1 (some 1006)] =
      [some 1, none, some 1005, some 1005, some 1005, some 1006] := by decide

/-- PARALLEL_IN with one module of 1000 kW whose share lags its setpoint by so many kW. -/
def shifted (kw : Nat) : State :=
  (serving .running (at0 .parallelIn ready)).updSeq .b0 fun q =>
    { q with setpoint := kw * 1000000, target := 900, dir := .rising }

/-- The share and the blanking expiry of module M0 after a command. -/
def drive (c : Instr) (s : State) : Option (Int × Option Word) :=
  match exec c s with
  | .next t => some ((t.mods.get .m0).share, (t.mods.get .m0).blankExpiry)
  | _ => none

theorem test_share_step_blanks :
    ((shifted 100).seq.get .b0).kwMoved = true ∧ ((shifted 900).seq.get .b0).dir = .rising ∧
    [drive (.setpointKwStep .b0) (shifted 100), drive (.setpointKwStep .b0) (shifted 101),
      drive (.rampEnd .b0) (shifted 900)] =
      [some (100, none), some (101, some 100000), some (900, some 100000)] ∧
    drive (.retryWaitExpiry .m0) ((retried .energised).updMod .m0 fun x => { x with mode := .blocked }) =
      some (0, some 100000) := by decide +kernel

theorem test_hyp_ramps :
    ((shifted 900).seq.get .b0).target * 1000000 ≤ ((shifted 900).seq.get .b0).setpoint ∧
      (shifted 100).shareOf .b0 .m0 = 100 ∧ (shifted 100).bound .b0 = 0 ∧ (shifted 100).standingCap .b0 = 1000 ∧
      ((shifted 100).seq.get .b0).wholeKw = 100 := by decide +kernel

/-- Berth B0 with its FEEDER_POWER slot fresh at 400 kW, one module of 1000 kW, and its holds. -/
def fed (stale lost : Bool) (s : State) : State :=
  ((serving .running s).updMeas .b0 fun m =>
    { m with feeder := { fresh := .fresh, latest := some (feeder 400), timer := .running 9 } }).updSeq .b0 fun q =>
    { q with profile := some profile, staleHold := stale, lostHold := lost }

/-- The ramp direction and the setpoint of berth B0 after a command. -/
def rampAfter (c : Instr) (s : State) : Option (Direction × Nat) :=
  match exec c s with
  | .next t => some ((t.seq.get .b0).dir, (t.seq.get .b0).setpoint)
  | _ => none

theorem test_ramp_direction_on_entry :
    [rampAfter (.breakerViewRise .b0) (fed false false (viewed false .closing)),
      rampAfter (.breakerViewRise .b0) (fed true false (viewed false .closing)),
      rampAfter (.breakerViewRise .b0) (viewed false .closing),
      rampAfter (.gensOn .b0 1 []) (fed false false (asked .shoreOnly)),
      rampAfter (.gensOn .b0 1 []) (fed false true (asked .shoreOnly)), rampAfter (.gensOn .b0 1 []) (asked .shoreOnly),
      rampAfter (.abort .b0 1 []) (fed false false (asked .parallelIn)),
      rampAfter (.abort .b0 1 []) (fed true false (asked .parallelIn))] =
      [some (.rising, 0), some (.level, 0), some (.level, 0), some (.falling, 400000000), some (.level, 400000000),
        some (.level, 0), some (.falling, 400000000), some (.level, 400000000)] := by decide +kernel

/-- LOST in PARALLEL_IN with a lost hold, on the way to 3 kW. -/
def heldBack (stale : Bool) (x : Nat) : State :=
  let s := (ramping .level x).updSeq .b0 fun q => { q with lostHold := true, staleHold := stale }
  { s with page := { s.page with presence := .lost } }

theorem test_restoration_resumes_ramp :
    [rampAfter (.heartbeat 0) (heldBack false 2999999), rampAfter (.heartbeat 0) (heldBack false 3000000),
      rampAfter (.heartbeat 0) (heldBack true 0)] =
      [some (.rising, 2999999), some (.level, 3000000), some (.level, 0)] ∧
    (advance (heldBack false 0)).page.lostUs = 1 ∧ (advance (ramping .level 0)).page.lostUs = 0 := by decide +kernel

/-- A second module of berth B0, of 500 kW, its status at the end of its staleness timer. -/
def joined : State :=
  ((fed false false (at0 .parallelIn ready)).updMod .m1 fun x =>
    { x with present := true, rating := 500, standing := .assigned .b0 .running, staleTimer := .running 0, fit := true
             latest := ((serving .running ready).mods.get .m0).latest }).updSeq .b0 fun q =>
    { q with setpoint := 900000000, target := 1000, profile := some { profile with demand := 1500 } }

theorem test_capacity_report_bounds :
    (match exec (.moduleStatusStale .m1) joined with
      | .next t => (t.healthy .b0, (t.seq.get .b0).target, (t.seq.get .b0).setpoint, (t.mods.get .m0).share) ==
          (1000, 1000, 900000000, 900)
      | _ => false) = true ∧ joined.healthy .b0 = 1500 ∧ (joined.mods.get .m1).serves .b0 = true ∧
    (match exec (.moduleStatusStale .m0) (joined.updMod .m0 fun x => { x with staleTimer := .running 0 }) with
      | .next t => (t.healthy .b0, (t.seq.get .b0).target, (t.seq.get .b0).setpoint, (t.mods.get .m1).share,
          (t.seq.get .b0).dir) == (500, 500, 500000000, 500, .level)
      | _ => false) = true := by decide +kernel

/-- A voltage ramp of berth B0, of 5 s to 6600 V. -/
def volted (v : VoltRamp) : State := (holding .energising).updSeq .b0 fun q => { q with volt := v }

theorem test_voltage_setpoint :
    [VoltRamp.zero, .rising 0, .rising 2500000, .rising 4999999, .rising 5000000, .rising 5000001, .nominal, .falling 0,
      .falling 4999999, .falling 5000000].map (fun v => (volted v).voltSetpoint .b0) =
      [0, 0, 3300, 6599, 6600, 6600, 6600, 6600, 0, 0] := by decide +kernel

/-- A berth in a state at the end of its trip pulse, with the second trip mark. -/
def pulsed (st : BerthState) : State :=
  (at0 st ready).updSync .b0 fun u => { u with tripPulse := .running 0, secondTrip := true }

theorem test_trip_pulse_end_clears_mark :
    [BerthState.tripped, .idle, .opening].map (fun st => match exec (.tripPulseExpiry .b0) (pulsed st) with
      | .next t => ((t.sync.get .b0).secondTrip, (t.sync.get .b0).openConfirm, t.watch .b0)
      | _ => (true, .stopped, .closeWait)) =
      [(false, .stopped, .notWatching), (false, .stopped, .notWatching), (false, .running 200000, .openWait)] ∧
    (pulsed .tripped).watch .b0 = .openWait := by decide +kernel

theorem test_hyp_modesOk : (asked .idle).ModesOk ∧ (viewed false .closing).ModesOk := by
  refine ⟨fun m => ?_, fun m => ?_⟩ <;> cases m <;> decide +kernel

/-! ## Coalescing, the journal's face and the ties of a commit -/

/-- The third claim of an event at its end, in a coalescing state, with a threshold. -/
def coalesced (c : Coalescing) (n : Nat) : State :=
  { carrying (.journal 0 [0] true) 3 with
    jour := { (carrying (.journal 0 [0] true) 3).jour with coalescing := c, threshold := n, coalTimeMs := 500 } }

theorem test_coalescing_starts_at_first_record :
    [coalesced .waitingFirst 2, coalesced .running 2, coalesced .waitingFirst 1].map (fun s =>
      match exec .journalClaimDone s with
      | .next t => (t.jour.coalescing, t.jour.coalTimer, t.summaryBit .journalReady)
      | _ => (.waitingFirst, .stopped, false)) =
      [(.running, .running 500000, false), (.running, .stopped, false), (.signalled, .stopped, true)] ∧
    Record.isUrgent { berth := none, session := 0, time := ⟨0, 0⟩, body := .event .timeStep 0 [] } = false := by decide +kernel

theorem test_journal_reset_abandons_burst :
    [some (FaceLoad.journal 0 [1] true), some (.pass (writeItem .meter 0 [1])), none].map (fun f =>
      match exec .journalCmdReset (waiting f [] 0) with
      | .next t => t.bus.face == (match f with | some (.journal a ws _) => some (.journal a ws false) | f => f)
      | _ => false) = [true, true, false] ∧
    (match exec .journalCmdReset { State.reset with bus := { State.reset.bus with firstCommit := true } } with
      | .next t => t.jour.channel == .initial
      | _ => false) = true := by decide +kernel

theorem test_ties_report_first_failing :
    [spoilt 128 17, spoilt 129 0x100BFC, spoilt 129 0x100C00, spoilt 48 1, (spoilt 128 16)].map
        (fun s => s.checkTies 0x7F) =
      [some ⟨some .journal, 128⟩, some ⟨some .journal, 129⟩, none, none, none] ∧
    (let t := config.set 2 0
     { spoilt 48 1 with page := { (spoilt 48 1).page with shadow := (t.set 48 1).set 128 17 } }).checkTies 0x7F =
      some ⟨some .berths, 48⟩ := by decide +kernel

/-- Berth B0 with a slot, a baseline, a bridge timer and a former phasor. -/
def measured : State :=
  { configured with
    meas := ((goingStale .feederPower .idle).updMeas .b0 fun m =>
      { m with base := some ⟨5, 1⟩, bridge := .running 5, staleBetween := true, baselineSet := true, expected := 6 }).meas
    sync := ((holding .idle).updSync .b0 fun u => { u with prev := some (phasor 50000 1) }).sync }

theorem test_windows_rebase :
    let t := commitWindows measured
    (t.meas.get .b0) == { Meas.reset with expected := 6 } && (t.sync.get .b0).prev == none &&
      (t.sync.get .b0).residual == none && t.bus.firstCommit := by decide +kernel

/-! ## Admission and invariants -/

/-- An EVENT, and an INTERVAL of berth B0. -/
def eventRecord : Record := { berth := none, session := 0, time := ⟨0, 0⟩, body := .event .timeStep 0 [] }
def intervalBody : IntervalBody :=
  { flags := ⟨false, false, false, false, false⟩, start := ⟨0, 0⟩, stop := ⟨0, 900⟩, bands := ⟨1, 0, 0, 0⟩, bridged := 0
    unattributed := 0, demand := 4 }
def intervalRecord : Record := { berth := some .b0, session := 1, time := ⟨0, 900⟩, body := .interval intervalBody }

theorem test_hyp_queue :
    billingHeld [intervalRecord, intervalRecord] .b0 < 3 ∧ eventsHeld (List.replicate 5 eventRecord) < 6 ∧
      6 ≤ eventsHeld (List.replicate 6 eventRecord) ∧ metrologyHeld [intervalRecord] = 0 ∧
      (∀ x ∈ [eventRecord], x.isInterval = true → x.berth ≠ some .b0) ∧
      (intervalRecord.body = .interval intervalBody ∧ intervalRecord.berth = some .b0) := by decide +kernel

theorem test_hyp_intervalBeingWritten :
    ({ (waiting none [] 0).jour with queue := [intervalRecord, eventRecord] } : Journal).writing.isSome = true ∧
      (∀ y ∈ [eventRecord], y.isInterval = true → y.berth ≠ some .b0) := by decide +kernel

theorem test_hyp_ringAndIdle : ready.RingOk ∧ ready.IdleOk ∧ (ready.seq.get .b0).state = .idle := by
  refine ⟨(State.ringOk_unconfigured rfl).2 (by decide +kernel), fun b _ m => ?_, by decide +kernel⟩
  cases m <;> cases b <;> decide +kernel

theorem test_hyp_steps :
    (∃ t, step ready = .next t) ∧ ready.MemOk ∧ ready.QueueOk ∧ ready.ArbiterOk ∧ ready.ClaimsOk ∧ ready.OscOk ∧
      ready.LinesOk := by
  refine ⟨⟨_, rfl⟩, by unfold State.MemOk; decide +kernel, ?_, ?_, ?_, ?_, ?_⟩
  · refine ⟨fun b => ?_, by decide +kernel, by decide +kernel, by decide +kernel⟩
    cases b <;> decide +kernel
  · refine ⟨fun _ => by decide +kernel, ⟨fun h => ?_, fun h => ?_⟩, by decide +kernel⟩
    · exact absurd h (by simp [ready, State.reset, Journal.reset])
    · exact absurd h (by simp [ready, State.reset, Bus.reset])
  · intro b; cases b <;> decide +kernel
  · intro b; cases b <;> unfold Osc.Ok <;> decide +kernel
  · intro b; cases b <;> decide +kernel

theorem test_hyp_stepsKeepBerths : ready.PassOk ∧ ready.ModesOk ∧ ready.RetryOk ∧ ready.SetpointsOk := by
  refine ⟨⟨by decide +kernel, by decide +kernel⟩, fun m => ?_, fun m => Or.inl ?_, fun b => ?_⟩
  · cases m <;> decide +kernel
  · cases m <;> decide +kernel
  · cases b <;> (delta State.SetpointOk; decide +kernel)

end Sys2Proof.Tests
end

section
/-! Proofs: power-on reset of the module pool (R41) and the service actions (R38 to R40). -/

namespace Sys2Proof.Machine

/-! ## The pool at power-on reset (R25, R41, R95) -/

/-- R25, R41: no claim waits, and every module is as after power-on reset. -/
structure State.PoolAtReset (s : State) : Prop where
  claims : s.claims = []
  mods : ∀ m, s.mods.get m = Module.reset

theorem State.PoolAtReset.serves {s : State} (h : s.PoolAtReset) (b : Berth) (m : ModuleId) :
    (s.mods.get m).serves b = false := by
  rw [h.mods m]; rfl

theorem powerOn_poolAtReset (c0 c1 c2 : Bool) (s : State) : (powerOn c0 c1 c2 s).PoolAtReset :=
  ⟨rfl, PerModule.get_all Module.reset⟩

/-- What belongs to a berth without modules is not the pool's. -/
theorem State.OnlyBerth.keeps_poolAtReset {b : Berth} {s t : State} (h : s.OnlyBerth b t) (hp : s.PoolAtReset) :
    t.PoolAtReset :=
  ⟨h.claims.trans hp.claims, fun m => (h.mods m (hp.serves b m)).trans (hp.mods m)⟩

theorem removeClaim_only {s : State} (b : Berth) (h : s.claims = []) : s.OnlyBerth b (removeClaim b s) := by
  have same : removeClaim b s = s := by unfold removeClaim; rw [h, List.filter_nil, ← h]
  rw [same]
  exact .refl b s

/-- R91, R102: with no claim queued an uncommanded close tries no pool, and is the berth's own. -/
theorem uncommandedClose_only {s : State} (b : Berth) (h : s.claims = []) : s.OnlyBerth b (uncommandedClose b s) := by
  have head : s.headClaim b = false := by unfold State.headClaim; rw [h]
  unfold uncommandedClose
  simp only [head, tryIf, Bool.false_eq_true, if_false]
  exact (((issueTrip_only b s).trans (updSync_only b _ _)).trans (removeClaim_only b h)).trans (enterTripped_only b _ _)

theorem tripIfClosed_same (b : Berth) (s : State) : s.SameStation (tripIfClosed b s) := by
  unfold tripIfClosed
  split
  · exact uncommandedClose_same b s
  · exact .refl s

theorem tripIfClosed_poolAtReset (b : Berth) {s : State} (h : s.PoolAtReset) : (tripIfClosed b s).PoolAtReset := by
  unfold tripIfClosed
  split
  · exact (uncommandedClose_only b h.claims).keeps_poolAtReset h
  · exact h

/-- R41, R95: the breakers that are closed at the release of power-on reset do not touch the pool. -/
theorem powerOnReset_poolAtReset (c0 c1 c2 : Bool) (s : State) : (powerOnReset c0 c1 c2 s).PoolAtReset :=
  tripIfClosed_poolAtReset .b2 (tripIfClosed_poolAtReset .b1 (tripIfClosed_poolAtReset .b0
    (powerOn_poolAtReset c0 c1 c2 s)))

theorem powerOnReset_same (c0 c1 c2 : Bool) (s : State) :
    (powerOn c0 c1 c2 s).SameStation (powerOnReset c0 c1 c2 s) := forBerths_same tripIfClosed_same _

/-- Settles O6: the trips at the release change only berths, which have no modules yet, so the pool, PROTECTION and the
result word are those of the reset. -/
theorem powerOnClearsFaultMachinery : Obligations.PowerOnClearsFaultMachinery := by
  intro c0 c1 c2 s
  have pool := powerOnReset_poolAtReset c0 c1 c2 s
  have same := powerOnReset_same c0 c1 c2 s
  have prot : (powerOnReset c0 c1 c2 s).prot = Protection.default := same.prot
  refine ⟨powerOnReset c0 c1 c2 s, rfl, fun m => ?_, ?_⟩
  · rw [pool.mods m]
    exact ⟨rfl, rfl, rfl, rfl, rfl, rfl, Standing.noConfusion, Standing.noConfusion⟩
  · rw [prot]
    exact ⟨rfl, rfl, rfl, rfl, rfl, rfl, same.service⟩

/-! ## The MODULE_SERVICE word (R38, 11.3) -/

/-- A bit of a word with one field placed. -/
theorem getElem_put (lo len v k : Nat) (h : k < 32) :
    (put lo len v)[k] = (decide (lo ≤ k) && (decide (k - lo < len) && v.testBit (k - lo))) := by
  simp [put, ← BitVec.getLsbD_eq_getElem, BitVec.getLsbD_ofNat, h]

theorem serviceWord_index (i : BitVec 4) (a : BitVec 8) : (serviceWord i a).extractLsb' 0 4 = i := by
  ext k hk
  have below : ¬ 8 ≤ k := by omega
  have inWord : k < 32 := by omega
  simp [serviceWord, getElem_put, below, inWord, hk, BitVec.testBit_toNat]

theorem serviceWord_action (i : BitVec 4) (a : BitVec 8) : (serviceWord i a).extractLsb' 8 8 = a := by
  ext k hk
  have above : ¬ 8 + k < 4 := by omega
  have inWord : 8 + k < 32 := by omega
  simp [serviceWord, getElem_put, above, inWord, hk, BitVec.testBit_toNat]

theorem ServiceAction.ofCode?_code (a : ServiceAction) : ServiceAction.ofCode? a.code.toNat = some a := by
  cases a <;> rfl

theorem ServiceAction.ofCode?_unknown {n : Nat} (h1 : n ≠ 1) (h2 : n ≠ 2) (h3 : n ≠ 3) :
    ServiceAction.ofCode? n = none := by
  unfold ServiceAction.ofCode?
  split
  · exact absurd rfl h1
  · exact absurd rfl h2
  · exact absurd rfl h3
  · rfl

/-- R38: the word of a known action asks for that action. -/
theorem serviceWrite_known (a : ServiceAction) (i : BitVec 4) (s : State) :
    serviceWrite (serviceWord i a.code) s = serviceRequest a i s := by
  unfold serviceWrite
  simp only [serviceWord_index, serviceWord_action, ServiceAction.ofCode?_code]

/-- R38: the word of an action code that is none of the three is a bad request. -/
theorem serviceWrite_unknown {a : BitVec 8} (i : BitVec 4) (s : State) (h1 : a ≠ 1) (h2 : a ≠ 2) (h3 : a ≠ 3) :
    serviceWrite (serviceWord i a) s = serviceResult i a .badRequest s := by
  have unknown : ServiceAction.ofCode? a.toNat = none :=
    ServiceAction.ofCode?_unknown (fun e => h1 (BitVec.eq_of_toNat_eq e)) (fun e => h2 (BitVec.eq_of_toNat_eq e))
      fun e => h3 (BitVec.eq_of_toNat_eq e)
  unfold serviceWrite
  simp only [serviceWord_index, serviceWord_action, unknown]
  rfl

/-! ## Service requests (R38 to R40) -/

theorem module_ofNat_none {n : Nat} (h : 8 ≤ n) : ModuleId.ofNat? n = none := by
  obtain ⟨k, rfl⟩ := Nat.exists_eq_add_of_le' h
  rfl

theorem serviceRequest_module {m : ModuleId} {i : BitVec 4} (hi : i.toNat = m.num) (a : ServiceAction) (s : State) :
    serviceRequest a i s = serviceResult i a.code (serve a m s).1 (serve a m s).2 := by
  unfold serviceRequest
  rw [hi, module_ofNat_num]

theorem serviceRequest_badIndex {i : BitVec 4} (hi : 8 ≤ i.toNat) (a : ServiceAction) (s : State) :
    serviceRequest a i s = serviceResult i a.code .badRequest s := by
  unfold serviceRequest
  rw [module_ofNat_none hi]

/-- R39, R40: the pool state in which an action is done. -/
def ServiceAction.source : ServiceAction → Standing
  | .clearLockout => .lockedOut
  | .takeOut => .available
  | .returnModule => .outOfService

/-- R39: an action on an ASSIGNED module is refused. -/
theorem serve_assigned {m : ModuleId} {s : State} {b : Berth} {r : RunState}
    (h : (s.mods.get m).standing = .assigned b r) (a : ServiceAction) : serve a m s = (.refusedAssigned, s) := by
  unfold serve
  rw [h]

/-- R39, R40: an action on a module that is neither ASSIGNED nor in the action's pool state is refused. -/
theorem serve_otherState {a : ServiceAction} {m : ModuleId} {s : State}
    (hb : (s.mods.get m).standing.berth? = none) (h : (s.mods.get m).standing ≠ a.source) :
    serve a m s = (.refusedState, s) := by
  unfold serve
  split
  next e => rw [e] at hb; cases hb
  next e => exact absurd e h
  next e => exact absurd e h
  next e => exact absurd e h
  next => rfl

theorem serve_clearLockout {m : ModuleId} {s : State} (h : (s.mods.get m).standing = .lockedOut) :
    serve .clearLockout m s = (.done, clearLockout m s) := by
  unfold serve
  rw [h]

theorem serve_takeOut {m : ModuleId} {s : State} (h : (s.mods.get m).standing = .available) :
    serve .takeOut m s = (.done, s.updMod m fun r => { r with standing := .outOfService }) := by
  unfold serve
  rw [h]

theorem serve_returnModule {m : ModuleId} {s : State} (h : (s.mods.get m).standing = .outOfService) :
    serve .returnModule m s = (.done, tryPool (s.updMod m fun r => { r with standing := .available })) := by
  unfold serve
  rw [h]

/-! ## The commands of the service actions -/

/-- The command that writes MODULE_SERVICE with one of the three actions. -/
def ServiceAction.command : ServiceAction → BitVec 4 → Instr
  | .clearLockout => .clearLockout
  | .takeOut => .takeOut
  | .returnModule => .returnModule

theorem exec_serviceCommand_write (a : ServiceAction) (i : BitVec 4) (s : State) :
    exec (a.command i) s = acceptTransfer (stationWrite 229 [serviceWord i a.code]) s := by
  cases a <;> rfl

/-- R38: a service command is a SUPERVISOR write of MODULE_SERVICE that makes the request. -/
theorem exec_serviceCommand {s : State} (ht : s.Takes .supervisor) (a : ServiceAction) (i : BitVec 4) :
    exec (a.command i) s =
      .next (passOn (stationItem 229 [serviceWord i a.code]) (serviceRequest a i s)) := by
  rw [exec_serviceCommand_write, stationWord_next s 229 _ ht (by decide), ← serviceWrite_known]
  rfl

/-- R38: what the action on module `m` comes to is what its command leaves, with the result word. -/
theorem exec_serviceCommand_of_serve {s u : State} {a : ServiceAction} {m : ModuleId} {i : BitVec 4}
    {o : ServiceOutcome} (ht : s.Takes .supervisor) (hi : i.toNat = m.num) (h : serve a m s = (o, u)) :
    exec (a.command i) s =
      .next (passOn (stationItem 229 [serviceWord i a.code]) (serviceResult i a.code o u)) := by
  rw [exec_serviceCommand ht, serviceRequest_module hi, h]

theorem exec_serviceCommand_badIndex {s : State} {i : BitVec 4} (ht : s.Takes .supervisor) (hi : 8 ≤ i.toNat)
    (a : ServiceAction) :
    exec (a.command i) s =
      .next (passOn (stationItem 229 [serviceWord i a.code]) (serviceResult i a.code .badRequest s)) := by
  rw [exec_serviceCommand ht, serviceRequest_badIndex hi]

/-- R39, R40: a service command on a module in one of the two unassigned pool states its action does not start from. -/
theorem exec_serviceCommand_otherState {s : State} {a : ServiceAction} {m : ModuleId} {i : BitVec 4} {x y : Standing}
    (ht : s.Takes .supervisor) (hi : i.toNat = m.num)
    (hs : (s.mods.get m).standing = x ∨ (s.mods.get m).standing = y)
    (hx : x.berth? = none ∧ x ≠ a.source) (hy : y.berth? = none ∧ y ≠ a.source) :
    exec (a.command i) s =
      .next (passOn (stationItem 229 [serviceWord i a.code]) (serviceResult i a.code .refusedState s)) := by
  refine exec_serviceCommand_of_serve ht hi ?_
  rcases hs with rfl | rfl
  · exact serve_otherState hx.1 hx.2
  · exact serve_otherState hy.1 hy.2

theorem exec_unknownServiceAction {s : State} {a : BitVec 8} (ht : s.Takes .supervisor) (i : BitVec 4)
    (h1 : a ≠ 1) (h2 : a ≠ 2) (h3 : a ≠ 3) :
    exec (.unknownServiceAction i a) s =
      .next (passOn (stationItem 229 [serviceWord i a]) (serviceResult i a .badRequest s)) :=
  calc exec (.unknownServiceAction i a) s
      = acceptTransfer (stationWrite 229 [serviceWord i a]) s := rfl
    _ = .next (passOn (stationItem 229 [serviceWord i a]) (serviceWrite (serviceWord i a) s)) :=
        stationWord_next s 229 _ ht (by decide)
    _ = _ := by rw [serviceWrite_unknown i s h1 h2 h3]

/-- Settles O54: each action is one case of `serve`, which decides by the module's pool state. -/
theorem serviceActionsChangePoolState : Obligations.ServiceActionsChangePoolState := by
  intro s ht result hresult
  obtain rfl : result = serviceResult := by funext i a o u; exact hresult i a o u
  refine ⟨fun m i hi => ⟨?clearDone, ?clearRefused, ?takeDone, ?takeRefused, ?returnDone, ?returnRefused, ?assigned⟩,
    ?badIndex, fun i a h1 h2 h3 => exec_unknownServiceAction ht i h1 h2 h3⟩
  case clearDone => exact fun h => exec_serviceCommand_of_serve ht hi (serve_clearLockout h)
  case takeDone => exact fun h => exec_serviceCommand_of_serve ht hi (serve_takeOut h)
  case returnDone => exact fun h => exec_serviceCommand_of_serve ht hi (serve_returnModule h)
  case clearRefused =>
    exact fun h => exec_serviceCommand_otherState (a := .clearLockout) ht hi h (by decide) (by decide)
  case takeRefused => exact fun h => exec_serviceCommand_otherState (a := .takeOut) ht hi h (by decide) (by decide)
  case returnRefused =>
    exact fun h => exec_serviceCommand_otherState (a := .returnModule) ht hi h (by decide) (by decide)
  case assigned =>
    intro b r h
    have refused := fun a => exec_serviceCommand_of_serve ht hi (serve_assigned h a)
    exact ⟨refused .clearLockout, refused .takeOut, refused .returnModule⟩
  case badIndex =>
    intro i hi
    have refused := exec_serviceCommand_badIndex ht hi
    exact ⟨refused .clearLockout, refused .takeOut, refused .returnModule⟩

end Sys2Proof.Machine
end

section
/-! Proofs: power-on reset of the Tariff Clock and the Billing Sessions (R140). -/

namespace Sys2Proof.Machine

/-! ## A berth without a session is given none by a trip (R91, R118, R135) -/

/-- R135: an interruption is noted in an open session only. -/
theorem enteredSessions_none {b : Berth} {s : State} (new : BerthState) (h : s.sessions.get b = none) :
    (enteredSessions b new s).get b = none := by
  unfold enteredSessions
  split
  · unfold noteInterruption State.updSession State.setSession
    rw [PerBerth.get_set_self, h, Option.map_none]
  · exact h

theorem enterTripped_noSession {b : Berth} {s : State} (c : TripCause) (h : s.sessions.get b = none) :
    (enterTripped b c s).sessions.get b = none := by
  by_cases tripped : (s.seq.get b).state = .tripped
  · unfold enterTripped
    rw [if_pos tripped]
    exact h
  · rw [(enterTripped_trips b c s tripped).2.2, enteredSessions_none .tripped h, Option.map_none]

/-- R91, R102: with no claim queued nothing follows an uncommanded close's trip. -/
theorem uncommandedClose_noSession {b : Berth} {s : State} (hc : s.claims = []) (h : s.sessions.get b = none) :
    (uncommandedClose b s).sessions.get b = none := by
  have head : s.headClaim b = false := by unfold State.headClaim; rw [hc]
  unfold uncommandedClose
  simp only [head, tryIf, Bool.false_eq_true, if_false]
  exact enterTripped_noSession .uncommandedClose h

/-! ## The sessions at power-on reset (R95, R140) -/

/-- R140: every session record is closed, and the session number counter is 0. -/
structure State.SessionsAtReset (s : State) : Prop where
  sessions : ∀ b, s.sessions.get b = none
  counter : s.sessionCounter = 0

theorem powerOn_sessionsAtReset (c0 c1 c2 : Bool) (s : State) : (powerOn c0 c1 c2 s).SessionsAtReset :=
  ⟨PerBerth.get_all none, rfl⟩

theorem uncommandedClose_sessionsAtReset (b : Berth) {s : State} (hc : s.claims = []) (h : s.SessionsAtReset) :
    (uncommandedClose b s).SessionsAtReset where
  sessions k := by
    by_cases own : k = b
    · rw [own]
      exact uncommandedClose_noSession hc (h.sessions b)
    · exact ((uncommandedClose_only b hc).sessions k own).trans (h.sessions k)
  counter := (uncommandedClose_only b hc).counter.trans h.counter

theorem tripIfClosed_sessionsAtReset (b : Berth) {s : State} (hc : s.claims = []) (h : s.SessionsAtReset) :
    (tripIfClosed b s).SessionsAtReset := by
  unfold tripIfClosed
  split
  · exact uncommandedClose_sessionsAtReset b hc h
  · exact h

/-- R95, R140: the breakers that are closed at the release of power-on reset open no session. -/
theorem powerOnReset_sessionsAtReset (c0 c1 c2 : Bool) (s : State) : (powerOnReset c0 c1 c2 s).SessionsAtReset := by
  have pool := powerOn_poolAtReset c0 c1 c2 s
  have pool0 := tripIfClosed_poolAtReset .b0 pool
  have pool1 := tripIfClosed_poolAtReset .b1 pool0
  have sess0 := tripIfClosed_sessionsAtReset .b0 pool.claims (powerOn_sessionsAtReset c0 c1 c2 s)
  have sess1 := tripIfClosed_sessionsAtReset .b1 pool0.claims sess0
  exact tripIfClosed_sessionsAtReset .b2 pool1.claims sess1

/-- R140: the clock reads its reset values, its tick instant being the instant of the release, which is 0. -/
theorem powerOnReset_clock (c0 c1 c2 : Bool) (s : State) : (powerOnReset c0 c1 c2 s).clock = Clock.reset :=
  (powerOnReset_same c0 c1 c2 s).clock

/-- Settles O7: the trips at the release leave the station as `powerOn` has it, clock and carried sessions with it, and
a trip opens no session. -/
theorem powerOnStartsTariffClock : Obligations.PowerOnStartsTariffClock := by
  intro c0 c1 c2 s
  have same := powerOnReset_same c0 c1 c2 s
  have sess := powerOnReset_sessionsAtReset c0 c1 c2 s
  have released : (powerOnReset c0 c1 c2 s).now = 0 := same.now
  refine ⟨powerOnReset c0 c1 c2 s, rfl, ?_, sess.sessions, sess.counter, same.carried, released⟩
  rw [powerOnReset_clock, released]
  rfl

end Sys2Proof.Machine
end

section
/-! Proofs: the refusals of transfers (R165) and the bus before the first WINDOWS commit (R168). -/

namespace Sys2Proof.Machine

/-! ## Treatment of a transfer that the master face takes (R161, R165) -/

theorem exec_transferAccept_takes {x : Transfer} {s : State} (wf : x.wellFormed = true) (ht : s.Takes x.tag) :
    exec (.transferAccept x) s = .next (acceptNow x s) :=
  calc exec (.transferAccept x) s
      = acceptTransfer x s := rfl
    _ = .next (offerTransfer x s) := if_pos wf
    _ = .next (acceptNow x s) := by rw [offerTransfer_takes x s ht]

theorem acceptNow_unknown {x : Transfer} (s : State) (hk : x.tag = .unknown) :
    acceptNow x s = refuseTransfer x.tag .badTag s := if_pos hk

theorem acceptNow_span {x : Transfer} {s : State} (hk : x.tag ≠ .unknown)
    (hr : s.burstRegion x.addr.toNat x.len = none) : acceptNow x s = refuseTransfer x.tag .span s := by
  unfold acceptNow
  rw [if_neg hk, hr]

theorem acceptNow_write {x : Transfer} {s : State} {ws : List Word} {r : Region} (hk : x.tag ≠ .unknown)
    (hw : x.access = .write ws) (hr : s.burstRegion x.addr.toNat x.len = some r) :
    acceptNow x s = acceptWrite x.tag x.addr.toNat ws r s := by
  unfold acceptNow
  rw [if_neg hk, hr, hw]

theorem acceptNow_read {x : Transfer} {s : State} {len : Nat} {r : Region} (hk : x.tag ≠ .unknown)
    (ha : x.access = .read len) (hr : s.burstRegion x.addr.toNat x.len = some r) :
    acceptNow x s = acceptRead x.tag x.addr.toNat len r s := by
  unfold acceptNow
  rw [if_neg hk, hr, ha]

/-! ## Writes whose treatment is refusal (R166) -/

theorem writeStation_denied {t : Tag} (a : Nat) (ws : List Word) (s : State) (ht : t ≠ .supervisor) :
    writeStation t a ws s = refuseTransfer t .denied s := if_neg ht

/-- R166: each of the three snooped kinds is written by its own master only, and no other kind by any. -/
theorem writeWindow_denied {t : Tag} {e : WindowEntry} (a : Nat) (ws : List Word) (s : State)
    (hm : ¬(e.kind = .measure ∧ t = .meter)) (hp : ¬(e.kind = .berthPage ∧ t = .supervisor))
    (hl : ¬(e.kind = .moduleStat ∧ t = .link)) : writeWindow t a ws e s = refuseTransfer t .denied s := by
  unfold writeWindow
  split
  case h_1 kind => exact absurd ⟨kind, rfl⟩ hm
  case h_2 kind => exact absurd ⟨kind, rfl⟩ hl
  case h_3 kind => exact absurd ⟨kind, rfl⟩ hp
  case h_4 => rfl

/-! ## Snooped writes that are refused (R165, R167) -/

theorem writeWindow_measure {e : WindowEntry} (a : Nat) (ws : List Word) (s : State) (hk : e.kind = .measure) :
    writeWindow .meter a ws e s = writeMeasure a ws e s := by
  unfold writeWindow
  rw [hk]

theorem writeWindow_moduleStat {e : WindowEntry} (a : Nat) (ws : List Word) (s : State) (hk : e.kind = .moduleStat) :
    writeWindow .link a ws e s = writeStatus a ws e s := by
  unfold writeWindow
  rw [hk]

theorem writeWindow_berthPage {e : WindowEntry} (a : Nat) (ws : List Word) (s : State) (hk : e.kind = .berthPage) :
    writeWindow .supervisor a ws e s = writeBerthPage a ws e s := by
  unfold writeWindow
  rw [hk]

/-- R165: a METER write of MEASURE is one record of four words at a 16-byte place. -/
theorem writeMeasure_badShape {a : Nat} {ws : List Word} (e : WindowEntry) (s : State)
    (shape : ¬(ws.length = 4 ∧ a % 16 = 0)) : writeMeasure a ws e s = refuseTransfer .meter .badShape s := by
  unfold writeMeasure
  split
  case h_1 place => exact absurd ⟨rfl, place⟩ shape
  case h_2 => rfl

/-- R165: a LINK write of MODULE_STAT is one record of eight words at a module's place. -/
theorem writeStatus_badShape {a : Nat} {ws : List Word} {e : WindowEntry} (s : State)
    (shape : ¬(ws.length = 8 ∧ (a - e.base) % 32 = 0)) : writeStatus a ws e s = refuseTransfer .link .badShape s := by
  unfold writeStatus
  split
  · exact if_neg shape
  · rfl

/-- R167: a SUPERVISOR write of a berth page stays within words 0 to 7. -/
theorem writeBerthPage_denied {a : Nat} {ws : List Word} {e : WindowEntry} (s : State)
    (past : 8 < (a - e.base) / 4 + ws.length) : writeBerthPage a ws e s = refuseTransfer .supervisor .denied s := by
  unfold writeBerthPage
  dsimp only
  split
  · exact if_neg (Nat.not_le.mpr past)
  · rfl

/-- Settles O12: each clause is one check of `acceptNow` or one refusing branch of the treatments of a write. -/
theorem transferRefusedRecordsCause : Obligations.TransferRefusedRecordsCause := by
  intro x s wf ht refusal hrefusal
  have refused : ∀ c, refuseTransfer x.tag c s = refusal c := fun c => (hrefusal c).symm
  rw [exec_transferAccept_takes wf ht]
  simp only [← refused]
  refine ⟨fun hk => ?badTag, fun hk hr => ?span, fun hk ws hw hr => ?station, fun hk ws n e hw hr hm hp hl => ?window,
    fun hk ws n e hw hr kind past => ?berthPage, fun hk ws n e hw hr kind shape => ?measure,
    fun hk ws n e hw hr kind shape => ?moduleStat⟩
  case badTag => rw [acceptNow_unknown s hk]
  case span => rw [acceptNow_span hk hr]
  case station =>
    have known : x.tag ≠ .unknown := by rcases hk with hk | hk <;> simp [hk]
    have other : x.tag ≠ .supervisor := by rcases hk with hk | hk <;> simp [hk]
    rw [acceptNow_write known hw hr]
    exact congrArg _ (writeStation_denied _ ws s other)
  case window =>
    rw [acceptNow_write hk hw hr]
    exact congrArg _ (writeWindow_denied _ ws s hm hp hl)
  case berthPage =>
    rw [acceptNow_write (by simp [hk]) hw hr, hk]
    exact congrArg _ ((writeWindow_berthPage _ ws s kind).trans (writeBerthPage_denied s past))
  case measure =>
    rw [acceptNow_write (by simp [hk]) hw hr, hk]
    exact congrArg _ ((writeWindow_measure _ ws s kind).trans (writeMeasure_badShape e s shape))
  case moduleStat =>
    rw [acceptNow_write (by simp [hk]) hw hr, hk]
    exact congrArg _ ((writeWindow_moduleStat _ ws s kind).trans (writeStatus_badShape s shape))

/-! ## Before the first WINDOWS commit (R168) -/

/-- R168, R174: before the first commit no window stands, so a burst within one classification that is not the station
page is PLAIN. -/
theorem burstRegion_plain_of_noCommit {s : State} {a len : Nat} {r : Region} (h : s.TableOk)
    (hc : s.bus.firstCommit = false) (hr : s.burstRegion a len = some r) (hs : r ≠ .station) : r = .plain := by
  obtain ⟨-, -, -, noWindow, -⟩ := h
  cases r with
  | plain => rfl
  | station => exact absurd rfl hs
  | window n e =>
    obtain ⟨mem, stands, -⟩ := burstRegion_mem hr
    exact absurd (noWindow hc e mem) stands

theorem acceptRead_link_noCommit {s : State} (a len : Nat) (r : Region) (hc : s.bus.firstCommit = false) :
    acceptRead .link a len r s = respond .link (.done (List.replicate len 0)) s := if_pos ⟨rfl, hc⟩

theorem acceptRead_plain {t : Tag} (a len : Nat) (s : State) (ht : t ≠ .link) :
    acceptRead t a len .plain s = passOn (memoryRead t a len) s := if_neg fun h => ht h.1

/-- Settles O15: a LINK read is answered before its region is looked at, and with no window in force every other
burst outside the station page is PLAIN and passes. -/
theorem linkReadsZeroBeforeFirstCommit : Obligations.LinkReadsZeroBeforeFirstCommit := by
  intro x s wf ht hc table
  rw [exec_transferAccept_takes wf ht]
  refine ⟨fun len r hk ha hr => ?linkRead, fun len hk _ hr => ?linkSpan, fun ws r hk hw hr hs => ?linkWrite,
    fun len r hk ha hr hs => ?otherRead⟩
  case linkRead =>
    rw [acceptNow_read (by simp [hk]) ha hr, hk, acceptRead_link_noCommit _ len r hc]
    rfl
  case linkSpan => rw [acceptNow_span (by simp [hk]) hr, hk]
  case linkWrite =>
    obtain rfl := burstRegion_plain_of_noCommit table hc hr hs
    rw [acceptNow_write (by simp [hk]) hw hr, hk]
    rfl
  case otherRead =>
    obtain rfl := burstRegion_plain_of_noCommit table hc hr hs
    have known : x.tag ≠ .unknown := by rcases hk with hk | hk <;> simp [hk]
    have other : x.tag ≠ .link := by rcases hk with hk | hk <;> simp [hk]
    rw [acceptNow_read known ha hr, acceptRead_plain _ len s other]
    rfl

end Sys2Proof.Machine
end

section
/-! Proofs: what a step does, case by case: the rule by which a relation that every treatment keeps holds over a step. -/

namespace Sys2Proof.Machine

/-! ## What the commands come to -/

/-- The effect of a time-driven command where it is due. -/
def timedEffect : Instr → State → State
  | .tripHoldEnd => endTripHold
  | .moduleStatusStale m => statusStale m
  | .retryWaitExpiry m => retryWaitEnd m
  | .retryWindowExpiry m => fun s => s.updMod m fun r => { r with fastCount := 0, slowCount := 0, retryWindow := .stopped }
  | .blankingExpiry m => fun s => s.updMod m fun r => { r with blankExpiry := none }
  | .claimTimerExpiry b => claimTimeout b
  | .slotStalenessExpiry b k => slotStale b k
  | .bridgeTimerExpiry b => fun s => s.updMeas b fun m => { m with bridge := .stopped }
  | .glideNearTarget b => fun s => evaluate b (s.updOsc b (Osc.settle (s.shipFresh b)))
  | .glideTargetReached b => fun s => s.updOsc b fun o => { o with gliding := false }
  | .energiseRampComplete b => fun s => checkEnergising b (s.updSeq b fun q => { q with volt := .nominal })
  | .energiseTimerExpiry b => fun s => enterTripped b .energiseFailed (s.updSeq b fun q => { q with energise := .stopped })
  | .deEnergisingComplete b => fun s => deEnergised b (s.updSeq b fun q => { q with volt := .zero })
  | .setpointKwStep b => recomputeShares b
  | .rampEnd b => fun s => recomputeShares b (blankBerth b (s.updSeq b fun q => { q with dir := .level }))
  | .syncTimerExpiry b => fun s => completeCurrent b .timeout (some .syncTimeout) (enterState b .energised s)
  | .parallelTimerExpiry b => controlledOpen b .handoverTimeout
  | .overloadTimerExpiry b => overloadExpired b
  | .reversePowerTimerExpiry b => controlledOpen b .reversePower
  | .closeDueExpiry b => closeDue b
  | .closePulseExpiry b => fun s => s.updSync b fun u => { u with closePulse := .stopped }
  | .tripPulseExpiry b => tripPulseEnd b
  | .closeConfirmExpiry b => closeFailed b
  | .openConfirmExpiry b => openFailed b
  | .deadTimeExpiry b => fun s => s.updSync b fun u => { u with deadTime := .stopped }
  | .stationTick => tick
  | .unlockTimerExpiry => setUnlock .closed .stopped
  | .heartbeatTimerExpiry => heartbeatLost
  | .coalescingTimerExpiry => signalReady
  | .journalWriteStart => startWrite
  | _ => id

/-- The transfer that a command other than those of a window's row is (log 5). -/
def asTransfer : Instr → Transfer
  | .transferAccept x => x
  | .refusedRecordRead k =>
    { tag := .supervisor, addr := BitVec.ofNat 24 (Config.stationPageBase + 4 * (231 + k.num)), access := .read 1 }
  | .commitWindows m => commitWrite (naming .windows m)
  | .commitBerths m => commitWrite (naming .berths m)
  | .commitPool m => commitWrite (naming .pool m)
  | .commitJournal m => commitWrite (naming .journal m)
  | .commitProtection m => commitWrite (naming .protection m)
  | .commitMetrology m => commitWrite (naming .metrology m)
  | .commitAttention m => commitWrite (naming .attention m)
  | .commitNamingNoSection m => commitWrite m
  | .heartbeat v => stationWrite 216 [v]
  | .eventAck v => stationWrite 218 [v]
  | .unlock v => stationWrite 219 [v]
  | .journalCmdStart => stationWrite 220 [1]
  | .journalCmdStop => stationWrite 220 [2]
  | .journalCmdReset => stationWrite 220 [3]
  | .journalConsume n => stationWrite 221 [n]
  | .timeSetDay d => stationWrite 227 [d]
  | .timeSetSecond v => stationWrite 228 [v]
  | .clearLockout i => stationWrite 229 [serviceWord i ServiceAction.clearLockout.code]
  | .takeOut i => stationWrite 229 [serviceWord i ServiceAction.takeOut.code]
  | .returnModule i => stationWrite 229 [serviceWord i ServiceAction.returnModule.code]
  | .unknownServiceAction i a => stationWrite 229 [serviceWord i a]
  | .stationPageWrite n ws => stationWrite n ws
  | _ => stationWrite 0 []

/-- The berth, the first word and the words of a command that writes a berth page (log 5). -/
def asBerthWrite : Instr → Berth × Nat × List Word
  | .connect b t rest => (b, 0, requestWord RequestKind.connect.code t :: rest)
  | .sync b t rest => (b, 0, requestWord RequestKind.sync.code t :: rest)
  | .gensOff b t rest => (b, 0, requestWord RequestKind.gensOff.code t :: rest)
  | .gensOn b t rest => (b, 0, requestWord RequestKind.gensOn.code t :: rest)
  | .abort b t rest => (b, 0, requestWord RequestKind.abort.code t :: rest)
  | .disconnect b t rest => (b, 0, requestWord RequestKind.disconnect.code t :: rest)
  | .clear b t rest => (b, 0, requestWord RequestKind.clear.code t :: rest)
  | .unknownRequestKind b k t rest => (b, 0, requestWord k.toNat t :: rest)
  | .requestShadowWrite b n ws => (b, n, ws)
  | _ => (.b0, 0, [])

/-- How a command can take a state to the next. -/
inductive Executes (c : Instr) (s t : State) : Prop
  | unchanged (h : t = s)
  | timed (due : isDue s c = true) (h : t = timedEffect c s)
  | transfer (x : Transfer) (h : acceptTransfer x s = .next t)
  | powerOn (c0 c1 c2 : Bool) (is : c = .powerOnReset c0 c1 c2) (h : t = powerOnReset c0 c1 c2 s)
  | lineReset (is : c = .lineReset) (high : s.resetLow = false) (h : t = lineReset s)
  | release (low : s.resetLow = true) (h : t = releaseReset s)
  | viewHeld (b : Berth) (closed : Bool) (hold : s.inHold = true) (h : t = setView b closed s)
  | rise (b : Berth) (was : (s.sync.get b).view = false) (hold : s.inHold = false) (h : t = breakerRise b (setView b true s))
  | fall (b : Berth) (was : (s.sync.get b).view = true) (hold : s.inHold = false) (h : t = breakerFall b (setView b false s))
  | faceDone (h : t = faceDone s)
  | claimDone (h : t = claimDone s)

theorem Executes.of_whenDue (c : Instr) {s t : State}
    (h : (Host.Outcome.next (whenDue c (timedEffect c) s) : Result) = .next t) : Executes c s t := by
  have ht : t = whenDue c (timedEffect c) s := (Host.Outcome.next.inj h).symm
  unfold whenDue at ht
  split at ht
  next due => exact .timed due ht
  next => exact .unchanged ht

theorem Executes.of_transfer (c : Instr) {s t : State} (h : acceptTransfer (asTransfer c) s = .next t) :
    Executes c s t := .transfer _ h

theorem Executes.of_intoWindow {c : Instr} {w : Option WindowEntry} {f : Nat → Transfer} {s t : State}
    (h : intoWindow w f s = .next t) : Executes c s t := by
  unfold intoWindow at h
  split at h
  · exact .unchanged (Host.Outcome.next.inj h).symm
  · exact .transfer _ h

theorem Executes.of_berthWrite (c : Instr) {s t : State}
    (h : berthWrite (asBerthWrite c).1 (asBerthWrite c).2.1 (asBerthWrite c).2.2 s = .next t) : Executes c s t :=
  .of_intoWindow h

/-- A breaker filter accepts a rise (R76). -/
theorem Executes.of_rise {c : Instr} {b : Berth} {s t : State} (h : execBreakerViewRise b s = .next t) :
    Executes c s t := by
  have ht := (Host.Outcome.next.inj h).symm
  split at ht
  next => exact .unchanged ht
  next stood =>
    split at ht
    next hold => exact .viewHeld b true hold ht
    next free => exact .rise b (by simpa using stood) (by simpa using free) ht

/-- A breaker filter accepts a fall (R76). -/
theorem Executes.of_fall {c : Instr} {b : Berth} {s t : State} (h : execBreakerViewFall b s = .next t) :
    Executes c s t := by
  have ht := (Host.Outcome.next.inj h).symm
  split at ht
  next => exact .unchanged ht
  next stood =>
    split at ht
    next hold => exact .viewHeld b false hold ht
    next free => exact .fall b (by simpa using stood) (by simpa using free) ht

theorem Executes.of_lineReset {s t : State} (h : execLineReset s = .next t) : Executes .lineReset s t := by
  have ht := (Host.Outcome.next.inj h).symm
  split at ht
  next => exact .unchanged ht
  next high => exact .lineReset rfl (by simpa using high) ht

theorem Executes.of_release {c : Instr} {s t : State} (h : execLineResetRelease s = .next t) : Executes c s t := by
  have ht := (Host.Outcome.next.inj h).symm
  split at ht
  next low => exact .release low ht
  next => exact .unchanged ht

/-- Every command is a reset, a breaker movement, the end of a face's transfer, a transfer, or driven by time. -/
theorem executes_of_exec {c : Instr} {s t : State} (h : exec c s = .next t) : Executes c s t := by
  match c with
  | .powerOnReset c0 c1 c2 => exact .powerOn c0 c1 c2 rfl (Host.Outcome.next.inj h).symm
  | .lineReset => exact .of_lineReset h
  | .lineResetRelease => exact .of_release h
  | .breakerViewRise _ => exact .of_rise h
  | .breakerViewFall _ => exact .of_fall h
  | .memoryFaceDone => exact .faceDone (Host.Outcome.next.inj h).symm
  | .journalClaimDone => exact .claimDone (Host.Outcome.next.inj h).symm
  | .measurementRecord b k w0 w1 w2 w3 => exact .of_intoWindow (show execMeasurementRecord b k w0 w1 w2 w3 s = _ from h)
  | .moduleStatusRecord m ws => exact .of_intoWindow (show execModuleStatusRecord m ws s = _ from h)
  | .connect b t rest => exact .of_berthWrite (.connect b t rest) h
  | .sync b t rest => exact .of_berthWrite (.sync b t rest) h
  | .gensOff b t rest => exact .of_berthWrite (.gensOff b t rest) h
  | .gensOn b t rest => exact .of_berthWrite (.gensOn b t rest) h
  | .abort b t rest => exact .of_berthWrite (.abort b t rest) h
  | .disconnect b t rest => exact .of_berthWrite (.disconnect b t rest) h
  | .clear b t rest => exact .of_berthWrite (.clear b t rest) h
  | .unknownRequestKind b k t rest => exact .of_berthWrite (.unknownRequestKind b k t rest) h
  | .requestShadowWrite b n ws => exact .of_berthWrite (.requestShadowWrite b n ws) h
  | .transferAccept x => exact .of_transfer (.transferAccept x) h
  | .refusedRecordRead k => exact .of_transfer (.refusedRecordRead k) h
  | .commitWindows m => exact .of_transfer (.commitWindows m) h
  | .commitBerths m => exact .of_transfer (.commitBerths m) h
  | .commitPool m => exact .of_transfer (.commitPool m) h
  | .commitJournal m => exact .of_transfer (.commitJournal m) h
  | .commitProtection m => exact .of_transfer (.commitProtection m) h
  | .commitMetrology m => exact .of_transfer (.commitMetrology m) h
  | .commitAttention m => exact .of_transfer (.commitAttention m) h
  | .commitNamingNoSection m => exact .of_transfer (.commitNamingNoSection m) h
  | .heartbeat v => exact .of_transfer (.heartbeat v) h
  | .eventAck v => exact .of_transfer (.eventAck v) h
  | .unlock v => exact .of_transfer (.unlock v) h
  | .journalCmdStart => exact .of_transfer (.journalCmdStart) h
  | .journalCmdStop => exact .of_transfer (.journalCmdStop) h
  | .journalCmdReset => exact .of_transfer (.journalCmdReset) h
  | .journalConsume n => exact .of_transfer (.journalConsume n) h
  | .timeSetDay d => exact .of_transfer (.timeSetDay d) h
  | .timeSetSecond v => exact .of_transfer (.timeSetSecond v) h
  | .clearLockout i => exact .of_transfer (.clearLockout i) h
  | .takeOut i => exact .of_transfer (.takeOut i) h
  | .returnModule i => exact .of_transfer (.returnModule i) h
  | .unknownServiceAction i a => exact .of_transfer (.unknownServiceAction i a) h
  | .stationPageWrite n ws => exact .of_transfer (.stationPageWrite n ws) h
  | .tripHoldEnd => exact .of_whenDue (.tripHoldEnd) h
  | .moduleStatusStale m => exact .of_whenDue (.moduleStatusStale m) h
  | .retryWaitExpiry m => exact .of_whenDue (.retryWaitExpiry m) h
  | .retryWindowExpiry m => exact .of_whenDue (.retryWindowExpiry m) h
  | .blankingExpiry m => exact .of_whenDue (.blankingExpiry m) h
  | .claimTimerExpiry b => exact .of_whenDue (.claimTimerExpiry b) h
  | .slotStalenessExpiry b k => exact .of_whenDue (.slotStalenessExpiry b k) h
  | .bridgeTimerExpiry b => exact .of_whenDue (.bridgeTimerExpiry b) h
  | .glideNearTarget b => exact .of_whenDue (.glideNearTarget b) h
  | .glideTargetReached b => exact .of_whenDue (.glideTargetReached b) h
  | .energiseRampComplete b => exact .of_whenDue (.energiseRampComplete b) h
  | .energiseTimerExpiry b => exact .of_whenDue (.energiseTimerExpiry b) h
  | .deEnergisingComplete b => exact .of_whenDue (.deEnergisingComplete b) h
  | .setpointKwStep b => exact .of_whenDue (.setpointKwStep b) h
  | .rampEnd b => exact .of_whenDue (.rampEnd b) h
  | .syncTimerExpiry b => exact .of_whenDue (.syncTimerExpiry b) h
  | .parallelTimerExpiry b => exact .of_whenDue (.parallelTimerExpiry b) h
  | .overloadTimerExpiry b => exact .of_whenDue (.overloadTimerExpiry b) h
  | .reversePowerTimerExpiry b => exact .of_whenDue (.reversePowerTimerExpiry b) h
  | .closeDueExpiry b => exact .of_whenDue (.closeDueExpiry b) h
  | .closePulseExpiry b => exact .of_whenDue (.closePulseExpiry b) h
  | .tripPulseExpiry b => exact .of_whenDue (.tripPulseExpiry b) h
  | .closeConfirmExpiry b => exact .of_whenDue (.closeConfirmExpiry b) h
  | .openConfirmExpiry b => exact .of_whenDue (.openConfirmExpiry b) h
  | .deadTimeExpiry b => exact .of_whenDue (.deadTimeExpiry b) h
  | .stationTick => exact .of_whenDue (.stationTick) h
  | .unlockTimerExpiry => exact .of_whenDue (.unlockTimerExpiry) h
  | .heartbeatTimerExpiry => exact .of_whenDue (.heartbeatTimerExpiry) h
  | .coalescingTimerExpiry => exact .of_whenDue (.coalescingTimerExpiry) h
  | .journalWriteStart => exact .of_whenDue (.journalWriteStart) h

end Sys2Proof.Machine
end

section
/-! Proofs: what the Window Unit and the Journal Writer are at work on, and what leaves it alone. -/

namespace Sys2Proof.Machine

/-! ## Transfers in the chip (R161, R172) -/

theorem State.outstanding_iff (s : State) (t : Tag) : s.outstanding t = true ↔ t ∈ s.bus.tags := by
  have waits : (s.bus.passList.any fun i => i.tag == t) = true ↔ t ∈ s.bus.passList.map (·.tag) := by
    rw [List.any_eq_true, List.mem_map]
    exact exists_congr fun i => and_congr_right fun _ => beq_iff_eq
  have carries : (match s.bus.face with
      | some (.pass i) => i.tag == t
      | _ => false) = true ↔ t ∈ (match s.bus.face with
      | some (.pass i) => [i.tag]
      | _ => []) := by
    split
    · rw [List.mem_singleton, beq_iff_eq, eq_comm]
    · exact iff_of_false Bool.false_ne_true List.not_mem_nil
  unfold State.outstanding Bus.tags
  rw [Bool.or_eq_true, List.mem_append, waits, or_comm]
  exact or_congr_left carries

/-! ## What the Window Unit and the Journal Writer are at work on -/

/-- Plant memory, the transfers in the chip, the window table, the record being written and the ring. -/
structure Work where
  mem : List (Nat × Word)
  passList : List PassItem
  face : Option FaceLoad
  passCount : Nat
  table : List WindowEntry
  firstCommit : Bool
  writing : Option Writing
  ring : Option Ring
  produce : Nat
  consume : Nat

/-- The work of a state. -/
def State.work (s : State) : Work :=
  { mem := s.bus.mem, passList := s.bus.passList, face := s.bus.face, passCount := s.bus.passCount, table := s.bus.table
    firstCommit := s.bus.firstCommit, writing := s.jour.writing, ring := s.jour.ring, produce := s.jour.produce
    consume := s.jour.consume }

theorem State.SameStation.work {s t : State} (h : s.SameStation t) : t.work = s.work := by
  unfold State.work
  rw [h.bus, h.jour]

theorem tags_of_work {s t : State} (h : t.work = s.work) : t.bus.tags = s.bus.tags := by
  have face : t.bus.face = s.bus.face := congrArg Work.face h
  have list : t.bus.passList = s.bus.passList := congrArg Work.passList h
  unfold Bus.tags
  rw [face, list]

theorem forBerths_work {f : Berth → State → State} (h : ∀ b s, (f b s).work = s.work) (s : State) :
    (forBerths f s).work = s.work := ((h .b2 _).trans (h .b1 _)).trans (h .b0 s)

theorem forBerths_same_work {f : Berth → State → State} (h : ∀ b (s : State), s.SameStation (f b s)) (s : State) :
    (forBerths f s).work = s.work := (forBerths_same h s).work

/-! ## The words of a station page write -/

theorem emitEvent_work (c : EventCode) (q : Nat) (o : Option Berth) (ws : List Word) (s : State) :
    (emitEvent c q o ws s).work = s.work := (emitEvent_only .b0 c q o ws s).toSameStation.work

theorem heartbeat_work (s : State) : (heartbeat s).work = s.work := by
  unfold heartbeat
  split
  · rfl
  · rfl
  · rfl
  · exact (emitEvent_work ..).trans (forBerths_same_work (fun b s => (supervisorRestored_only b s).toSameStation) _)

theorem heartbeatLost_work (s : State) : (heartbeatLost s).work = s.work :=
  (emitEvent_work ..).trans (forBerths_same_work (fun b s => (supervisorLost_only b s).toSameStation) _)

theorem acknowledge_work (w : Word) (s : State) : (acknowledge w s).work = s.work := by
  unfold acknowledge readyCleared
  dsimp only
  split
  · split <;> rfl
  · rfl

theorem unlockWrite_work (v : Word) (s : State) : (unlockWrite v s).work = s.work := by
  unfold unlockWrite
  split
  · split <;> rfl
  · split <;> rfl
  · rfl

theorem journalStart_work (s : State) : (journalStart s).work = s.work := by
  unfold journalStart; split <;> rfl

theorem journalStop_work (s : State) : (journalStop s).work = s.work := by
  unfold journalStop; split <;> rfl

theorem splitInterval_work (x y : StationTime) (k : Bool) (b : Berth) (s : State) :
    (splitInterval x y k b s).work = s.work := (splitInterval_only x y k b s).toSameStation.work

theorem metrologyIntoForce_work (s : State) : (metrologyIntoForce s).work = s.work := by
  unfold metrologyIntoForce
  split
  · rfl
  · dsimp only
    split
    · rfl
    · exact forBerths_same_work markMetrology_same _

theorem boundary_work (s : State) : (boundary s).work = s.work :=
  (metrologyIntoForce_work _).trans (forBerths_same_work boundaryInterval_same s)

theorem tick_work (s : State) : (tick s).work = s.work := by
  unfold tick
  dsimp only
  split
  · exact boundary_work _
  · rfl

theorem timeSet_work (v : Word) (s : State) : (timeSet v s).work = s.work := by
  unfold timeSet
  dsimp only
  split
  · rfl
  · exact (emitEvent_work ..).trans (forBerths_work (splitInterval_work _ _ true) _)

theorem tryPool_updMod_work (m : ModuleId) (f : Module → Module) (s : State) :
    (tryPool (s.updMod m f)).work = s.work := (tryPool_same (s.updMod m f)).work

theorem serve_work (a : ServiceAction) (m : ModuleId) (s : State) : (serve a m s).2.work = s.work := by
  unfold serve clearLockout
  split <;> dsimp only
  · exact tryPool_updMod_work m _ s
  · rfl
  · exact tryPool_updMod_work m _ s

theorem serviceWrite_work (v : Word) (s : State) : (serviceWrite v s).work = s.work := by
  unfold serviceWrite serviceRequest
  dsimp only
  split
  next a _ =>
    split
    next => rfl
    next m _ => exact serve_work a m s
  next => rfl

/-! ## Commits -/

theorem commitBerth_work (b : Berth) (s : State) : (commitBerth b s).work = s.work := by
  unfold commitBerth; split <;> rfl

theorem commitPool_same (s : State) : s.SameStation (commitPool s) := by
  unfold commitPool
  exact (forModules_modsOnly (fun m s => updMod_modsOnly m _ s) s).same.trans (tryPool_same _)

theorem commitPool_work (s : State) : (commitPool s).work = s.work := (commitPool_same s).work

theorem admitConfig_work (r : Record) (s : State) : (admitConfig r s).work = s.work := by
  unfold admitConfig; split <;> rfl

/-- Only WINDOWS and JOURNAL change the window table or the ring. -/
theorem applySection_work {x : Section} (hw : x ≠ .windows) (hj : x ≠ .journal) (s : State) :
    (applySection x s).work = s.work := by
  cases x with
  | windows => exact absurd rfl hw
  | journal => exact absurd rfl hj
  | berths => exact forBerths_work commitBerth_work s
  | pool => exact commitPool_work s
  | metrology => exact admitConfig_work _ s
  | protection => rfl
  | attention => rfl

theorem rebaseIntake_same (s : State) : s.SameStation (rebaseIntake s) :=
  forBerths_same (fun b s => ((updMeas_only b _ s).trans (updSync_only b _ _)).toSameStation) s

theorem commitWindows_work (s : State) :
    (commitWindows s).work = { s.work with table := s.rawTable.map RawEntry.entry, firstCommit := true } :=
  (rebaseIntake_same _).work

theorem commitJournal_work (s : State) :
    (commitJournal s).work = { s.work with ring := some { length := s.cfg 128, writeBack := s.cfg 129 } } := rfl

theorem rewindRing_work (old new : State) :
    (rewindRing old new).work = new.work ∨ (rewindRing old new).work = { new.work with produce := 0, consume := 0 } := by
  unfold rewindRing
  split
  · exact .inl rfl
  · exact .inr rfl

theorem recordCommit_work (mask : Word) (r : CommitOutcome × Offence) (s : State) :
    (recordCommit mask r s).work = s.work := rfl

end Sys2Proof.Machine
end

section
/-! Proofs: the rule for steps. A relation that holds over each treatment of a transfer, each reset, breaker movement and
expiry, and over a microsecond, holds over every step. -/

namespace Sys2Proof.Machine

/-! ## The words of a station page write leave the transfers in the chip alone -/

theorem abandonWrite_tags (s : State) : (abandonWrite s).bus.tags = s.bus.tags := by
  unfold abandonWrite Bus.tags
  cases s.bus.face with
  | none => rfl
  | some f => cases f <;> rfl

theorem applyList_tags (mask : Word) (l : List Section) (s : State) :
    (l.foldl (fun t x => if names mask x then applySection x t else t) s).bus.tags = s.bus.tags := by
  have one (x : Section) (t : State) : (applySection x t).bus.tags = t.bus.tags := by
    by_cases windows : x = .windows
    · rw [windows]
      show (rebaseIntake _).bus.tags = _
      rw [(rebaseIntake_same _).bus]
      rfl
    · by_cases journal : x = .journal
      · rw [journal]; rfl
      · exact tags_of_work (applySection_work windows journal t)
  induction l generalizing s with
  | nil => rfl
  | cons x l ih =>
    rw [List.foldl_cons, ih]
    split
    · exact one x s
    · rfl

theorem commit_tags (mask : Word) (s : State) : (commit mask s).bus.tags = s.bus.tags := by
  have rewound (old new : State) : (rewindRing old new).bus.tags = new.bus.tags := by
    unfold rewindRing; split <;> rfl
  have applied : (applySections mask s).bus.tags = s.bus.tags := (rewound s _).trans (applyList_tags mask _ s)
  unfold commit
  dsimp only
  split
  · exact applied
  · rfl

theorem journalCommand_tags (v : Word) (s : State) : (journalCommand v s).bus.tags = s.bus.tags := by
  unfold journalCommand
  split
  · exact tags_of_work (journalStart_work s)
  · exact tags_of_work (journalStop_work s)
  · exact abandonWrite_tags s
  · rfl

theorem consumeWrite_tags (v : Word) (s : State) : (consumeWrite v s).bus.tags = s.bus.tags := by
  unfold consumeWrite; split <;> rfl

theorem takeStationWord_tags (n : Nat) (v : Word) (s : State) : (takeStationWord n v s).bus.tags = s.bus.tags := by
  unfold takeStationWord
  split
  · rfl
  · split
    · exact tags_of_work (heartbeat_work s)
    · exact tags_of_work (acknowledge_work v s)
    · exact tags_of_work (unlockWrite_work v s)
    · exact journalCommand_tags v s
    · exact consumeWrite_tags v s
    · rfl
    · exact tags_of_work (timeSet_work v s)
    · exact tags_of_work (serviceWrite_work v s)
    · rfl
    · exact commit_tags v s
    · rfl

theorem takeStationWords_tags (ws : List (Nat × Word)) (s : State) :
    (takeStationWords ws s).bus.tags = s.bus.tags := by
  induction ws generalizing s with
  | nil => rfl
  | cons x ws ih => exact (ih _).trans (takeStationWord_tags x.1 x.2 s)

/-! ## A read of the refused-transfer records (R171) -/

theorem clearRecords_refused (n len : Nat) (s : State) :
    ∃ r, clearRecords n len s = { s with bus := { s.bus with refused := r } } := by
  unfold clearRecords
  generalize List.range len = l
  induction l generalizing s with
  | nil => exact ⟨s.bus.refused, rfl⟩
  | cons i l ih =>
    rw [List.foldl_cons]
    split
    · obtain ⟨r, h⟩ := ih { s with bus := { s.bus with refused := s.bus.refused.set (Tag.ofNat (n + i - 231)) ⟨0, .none⟩ } }
      exact ⟨r, h⟩
    · exact ih s

theorem clearRecords_tags (n len : Nat) (s : State) : (clearRecords n len s).bus.tags = s.bus.tags := by
  obtain ⟨r, cleared⟩ := clearRecords_refused n len s
  rw [cleared]
  rfl

/-! ## The rule for transfers -/

/-- Two relations: `K` holds over each treatment a transfer can be made of but the words of a berth page, `R` over these,
and over either with the write that is passed on after it. -/
structure TransferRule (K R : State → State → Prop) : Prop where
  refl : ∀ s, K s s
  trans : ∀ {s t u}, K s t → K t u → K s u
  weaken : ∀ {s t}, K s t → R s t
  passAfter : ∀ {s u} i, i.tag ≠ .unknown → u.outstanding i.tag = false → R s u → R s (Machine.passOn i u)
  passOn : ∀ i s, i.tag ≠ .unknown → s.outstanding i.tag = false → K s (passOn i s)
  respond : ∀ t r s, K s (respond t r s)
  refuse : ∀ t c s, K s (refuseTransfer t c s)
  clearRefused : ∀ r s, K s { s with bus := { s.bus with refused := r } }
  measurement : ∀ b w0 w1 w2 w3 s, K s (takeMeasurement b w0 w1 w2 w3 s)
  status : ∀ m ws s, K s (statusRecord m ws s)
  stationWord : ∀ n v s, K s (takeStationWord n v s)
  berthWords : ∀ b ws s, R s (takeBerthWords b ws s)

namespace TransferRule

variable {K R : State → State → Prop} (rule : TransferRule K R)
include rule

theorem passContent {t : Tag} {s u : State} (a : Nat) (ws : List Word) (known : t ≠ .unknown)
    (free : s.outstanding t = false) (tags : u.bus.tags = s.bus.tags) (h : R s u) : R s (passWrite t a ws u) := by
  have free' : u.outstanding t = false := by
    rw [Bool.eq_false_iff, Ne, State.outstanding_iff, tags, ← State.outstanding_iff, free]
    exact Bool.false_ne_true
  exact rule.passAfter _ known free' h

theorem stationWords (ws : List (Nat × Word)) (s : State) : K s (takeStationWords ws s) := by
  induction ws generalizing s with
  | nil => exact rule.refl s
  | cons x ws ih => exact rule.trans (rule.stationWord x.1 x.2 s) (ih _)

theorem clearRecords (n len : Nat) (s : State) : K s (clearRecords n len s) := by
  obtain ⟨r, cleared⟩ := clearRecords_refused n len s
  rw [cleared]
  exact rule.clearRefused r s

theorem answerRead {t : Tag} {s u : State} (a : Nat) (fill : List (Option Word)) (known : t ≠ .unknown)
    (free : s.outstanding t = false) (tags : u.bus.tags = s.bus.tags) (h : K s u) : K s (answerRead t a fill u) := by
  have free' : u.outstanding t = false := by
    rw [Bool.eq_false_iff, Ne, State.outstanding_iff, tags, ← State.outstanding_iff, free]
    exact Bool.false_ne_true
  unfold Machine.answerRead
  split
  · exact rule.trans h (rule.respond _ _ u)
  · exact rule.trans h (rule.passOn _ u known free')

theorem acceptRead {t : Tag} {s : State} (a len : Nat) (r : Region) (known : t ≠ .unknown)
    (free : s.outstanding t = false) : K s (acceptRead t a len r s) := by
  unfold Machine.acceptRead
  split
  · exact rule.respond _ _ s
  · cases r with
    | plain => exact rule.passOn _ s known free
    | station =>
      dsimp only [readStation]
      split
      · exact rule.answerRead a _ known free (clearRecords_tags _ _ s) (rule.clearRecords _ _ s)
      · exact rule.answerRead a _ known free rfl (rule.refl s)
    | window n e =>
      dsimp only [readWindow]
      split
      · exact rule.answerRead a _ known free rfl (rule.refl s)
      · exact rule.answerRead a _ known free rfl (rule.refl s)
      · exact rule.passOn _ s known free

theorem writeWindow {t : Tag} {s : State} (a : Nat) (ws : List Word) (e : WindowEntry) (known : t ≠ .unknown)
    (free : s.outstanding t = false) : R s (writeWindow t a ws e s) := by
  unfold Machine.writeWindow
  split
  · unfold writeMeasure
    split
    · exact rule.passContent a _ known free (congrArg Bus.tags (takeMeasurement_same ..).bus) (rule.weaken (rule.measurement ..))
    · exact rule.weaken (rule.refuse _ _ s)
  · unfold writeStatus
    split
    · split
      · exact rule.passContent a ws known free (congrArg Bus.tags (statusRecord_same ..).bus) (rule.weaken (rule.status ..))
      · exact rule.weaken (rule.refuse _ _ s)
    · exact rule.weaken (rule.refuse _ _ s)
  · unfold writeBerthPage
    dsimp only
    split
    · split
      · exact rule.passContent a ws known free (congrArg Bus.tags (takeBerthWords_same ..).bus) (rule.berthWords ..)
      · exact rule.weaken (rule.refuse _ _ s)
    · exact rule.weaken (rule.refuse _ _ s)
  · exact rule.weaken (rule.refuse _ _ s)

theorem acceptWrite {t : Tag} {s : State} (a : Nat) (ws : List Word) (r : Region) (known : t ≠ .unknown)
    (free : s.outstanding t = false) : R s (acceptWrite t a ws r s) := by
  cases r with
  | plain => exact rule.passContent a ws known free rfl (rule.weaken (rule.refl s))
  | station =>
    dsimp only [Machine.acceptWrite, writeStation]
    split
    · exact rule.passContent a ws known free (takeStationWords_tags _ s) (rule.weaken (rule.stationWords _ s))
    · exact rule.weaken (rule.refuse _ _ s)
  | window n e => exact rule.writeWindow a ws e known free

theorem acceptNow {x : Transfer} {s : State} (free : s.outstanding x.tag = false) : R s (acceptNow x s) := by
  unfold Machine.acceptNow
  split
  · exact rule.weaken (rule.refuse _ _ s)
  next known =>
    split
    · exact rule.weaken (rule.refuse _ _ s)
    · split
      · exact rule.weaken (rule.acceptRead _ _ _ known free)
      · exact rule.acceptWrite _ _ _ known free

theorem acceptTransfer {x : Transfer} {s t : State} (h : acceptTransfer x s = .next t) : R s t := by
  unfold Machine.acceptTransfer at h
  split at h
  next =>
    obtain rfl := Host.Outcome.next.inj h
    unfold offerTransfer
    split
    · exact rule.weaken (rule.refl s)
    next free =>
      rw [Bool.or_eq_true, not_or, Bool.not_eq_true, Bool.not_eq_true] at free
      exact rule.acceptNow free.2
  next => cases h

end TransferRule

/-! ## The rule for steps -/

/-- A relation between states that holds over every treatment a step can be made of. -/
structure StepRule (R : State → State → Prop) : Prop where
  refl : ∀ s, R s s
  trans : ∀ {s t u}, R s t → R t u → R s u
  pending : ∀ s l, R s { s with pending := l }
  advance : ∀ s, R s (advance s)
  powerOn : ∀ c0 c1 c2 s, R s (powerOnReset c0 c1 c2 s)
  lineReset : ∀ s, s.resetLow = false → R s (lineReset s)
  release : ∀ s, s.resetLow = true → R s (releaseReset s)
  viewHeld : ∀ b closed s, s.inHold = true → R s (setView b closed s)
  rise : ∀ b s, (s.sync.get b).view = false → s.inHold = false → R s (breakerRise b (setView b true s))
  fall : ∀ b s, (s.sync.get b).view = true → s.inHold = false → R s (breakerFall b (setView b false s))
  timed : ∀ c s, isDue s c = true → R s (timedEffect c s)
  faceDone : ∀ s, R s (faceDone s)
  claimDone : ∀ s, R s (claimDone s)
  passOn : ∀ i s, i.tag ≠ .unknown → s.outstanding i.tag = false → R s (passOn i s)
  respond : ∀ t r s, R s (respond t r s)
  refuse : ∀ t c s, R s (refuseTransfer t c s)
  clearRefused : ∀ r s, R s { s with bus := { s.bus with refused := r } }
  measurement : ∀ b w0 w1 w2 w3 s, R s (takeMeasurement b w0 w1 w2 w3 s)
  status : ∀ m ws s, R s (statusRecord m ws s)
  berthWords : ∀ b ws s, R s (takeBerthWords b ws s)
  stationWord : ∀ n v s, R s (takeStationWord n v s)

namespace StepRule

variable {R : State → State → Prop} (rule : StepRule R)
include rule

theorem transferRule : TransferRule R R where
  refl := rule.refl
  trans := rule.trans
  weaken := id
  passAfter i known free h := rule.trans h (rule.passOn i _ known free)
  passOn := rule.passOn
  respond := rule.respond
  refuse := rule.refuse
  clearRefused := rule.clearRefused
  measurement := rule.measurement
  status := rule.status
  stationWord := rule.stationWord
  berthWords := rule.berthWords

theorem executes {c : Instr} {s t : State} (h : Executes c s t) : R s t := by
  cases h with
  | unchanged h => rw [h]; exact rule.refl s
  | timed due h => rw [h]; exact rule.timed c s due
  | transfer x h => exact rule.transferRule.acceptTransfer h
  | powerOn c0 c1 c2 _ h => rw [h]; exact rule.powerOn c0 c1 c2 s
  | lineReset _ high h => rw [h]; exact rule.lineReset s high
  | release low h => rw [h]; exact rule.release s low
  | viewHeld b closed hold h => rw [h]; exact rule.viewHeld b closed s hold
  | rise b was hold h => rw [h]; exact rule.rise b s was hold
  | fall b was hold h => rw [h]; exact rule.fall b s was hold
  | faceDone h => rw [h]; exact rule.faceDone s
  | claimDone h => rw [h]; exact rule.claimDone s

theorem idle (s : State) : R s (idle s) := by
  unfold Machine.idle
  split
  · exact rule.advance s
  · exact rule.pending s _

/-- The rule for steps. -/
theorem step {s t : State} (h : step s = .next t) : R s t := by
  unfold Machine.step at h
  split at h
  · obtain rfl := Host.Outcome.next.inj h
    exact rule.idle s
  next c rest _ => exact rule.trans (rule.pending s rest) (rule.executes (executes_of_exec h))

end StepRule

end Sys2Proof.Machine
end

section
/-! Proofs: the rule for steps, for an invariant of the Window Unit and the Journal Writer. -/

namespace Sys2Proof.Machine

/-! ## Expiries, resets and time leave the work alone -/

theorem endTripHold_same_work (s : State) : (endTripHold s).work = s.work := by
  have dead : (forBerths startDeadTime { s with tripHold := .stopped }).work = s.work := rfl
  have trips := forBerths_same_work tripIfClosed_same (forBerths startDeadTime { s with tripHold := .stopped })
  exact trips.trans dead

/-- Of the expiries only the start of a record's write changes the work. -/
theorem timedEffect_work {c : Instr} (hc : c ≠ .journalWriteStart) (s : State) : (timedEffect c s).work = s.work := by
  unfold timedEffect
  split
  case h_1 => exact endTripHold_same_work s
  case h_2 m => exact (statusStale_same m s).work
  case h_3 m => exact (retryWaitEnd_same m s).work
  case h_6 b => exact (claimTimeout_same b s).work
  case h_7 b k => exact (slotStale_only b k s).toSameStation.work
  case h_9 b => exact (evaluate_only b _).toSameStation.work
  case h_11 b => exact (checkEnergising_same b _).work
  case h_12 b => exact (enterTripped_only b _ _).toSameStation.work
  case h_13 b => exact (deEnergised_same b _).work
  case h_14 b => exact (recomputeShares_only b s).toSameStation.work
  case h_15 b => exact ((blankBerth_only b _).trans (recomputeShares_only b _)).toSameStation.work
  case h_16 b => exact ((enterState_only b _ s).trans (completeCurrent_only b _ _ _)).toSameStation.work
  case h_17 b => exact (controlledOpen_only b _ s).toSameStation.work
  case h_18 b => exact (overloadExpired_only b s).toSameStation.work
  case h_19 b => exact (controlledOpen_only b _ s).toSameStation.work
  case h_20 b => exact (closeDue_only b s).toSameStation.work
  case h_22 b => exact (tripPulseEnd_only b s).toSameStation.work
  case h_23 b => exact (closeFailed_only b s).toSameStation.work
  case h_24 b => exact (openFailed_only b s).toSameStation.work
  case h_26 => exact tick_work s
  case h_28 => exact heartbeatLost_work s
  case h_30 => exact absurd rfl hc
  all_goals rfl

theorem releaseReset_work (s : State) : (releaseReset s).work = s.work := by
  have carried (u : State) : (closeAllCarried u).work = u.work := by
    unfold closeAllCarried
    split
    · rfl
    · exact (emitEvent_work ..).trans
        (forBerths_same_work (fun b s => (closeSession_only b 2 _ s).toSameStation) u)
  exact carried _

theorem advanceBerth_work (b : Berth) (s : State) : (advanceBerth b s).work = s.work := rfl

theorem advanceCount_work (s : State) : (advanceCount s).work = s.work := by
  unfold advanceCount; dsimp only; split <;> rfl

theorem advance_work (s : State) : (advance s).work = s.work :=
  calc (advance s).work
      = (forBerths advanceBerth (advanceCount s)).work := rfl
    _ = (advanceCount s).work := forBerths_work advanceBerth_work _
    _ = s.work := advanceCount_work s

/-! ## The rule -/

/-- An invariant of the work, and what it is to be shown to survive for every step to keep it. -/
structure WorkRule (P : State → Prop) : Prop where
  congr : ∀ {s t : State}, t.work = s.work → P s → P t
  powerOn : ∀ c0 c1 c2 s, P s → P (powerOn c0 c1 c2 s)
  lineReset : ∀ s, P s → P (lineReset s)
  startWrite : ∀ s, s.canWrite = true → P s → P (startWrite s)
  faceDone : ∀ s, P s → P (faceDone s)
  claimDone : ∀ s, P s → P (claimDone s)
  passOn : ∀ i s, i.tag ≠ .unknown → s.outstanding i.tag = false → P s → P (passOn i s)
  journalReset : ∀ s, P s → P (journalReset s)
  consume : ∀ v s, P s → P (consumeWrite v s)
  commit : ∀ mask s, P s → P (commit mask s)

namespace WorkRule

variable {P : State → Prop} (rule : WorkRule P)
include rule

theorem journalCommand (v : Word) (s : State) (h : P s) : P (journalCommand v s) := by
  unfold Machine.journalCommand
  split
  · exact rule.congr (journalStart_work s) h
  · exact rule.congr (journalStop_work s) h
  · exact rule.journalReset s h
  · exact h

theorem stationWord (n : Nat) (v : Word) (s : State) (h : P s) : P (takeStationWord n v s) := by
  unfold takeStationWord
  split
  · exact rule.congr (s := s) rfl h
  · split
    · exact rule.congr (heartbeat_work s) h
    · exact rule.congr (acknowledge_work v s) h
    · exact rule.congr (unlockWrite_work v s) h
    · exact rule.journalCommand v s h
    · exact rule.consume v s h
    · exact rule.congr (s := s) rfl h
    · exact rule.congr (timeSet_work v s) h
    · exact rule.congr (serviceWrite_work v s) h
    · exact rule.congr (s := s) rfl h
    · exact rule.commit v s h
    · exact h

theorem stepRule : StepRule fun s t => P s → P t where
  refl s h := h
  trans hst htu h := htu (hst h)
  pending s l := rule.congr rfl
  advance s := rule.congr (advance_work s)
  powerOn c0 c1 c2 s h := rule.congr (powerOnReset_same c0 c1 c2 s).work (rule.powerOn c0 c1 c2 s h)
  lineReset s _ := rule.lineReset s
  release s _ := rule.congr (releaseReset_work s)
  viewHeld b closed s _ := rule.congr rfl
  rise b s _ _ := rule.congr (breakerRise_same b (setView b true s)).work
  fall b s _ _ := rule.congr (breakerFall_only b (setView b false s)).toSameStation.work
  timed c s due := by
    by_cases start : c = .journalWriteStart
    · rw [start] at due ⊢
      exact rule.startWrite s due
    · exact rule.congr (timedEffect_work start s)
  faceDone := rule.faceDone
  claimDone := rule.claimDone
  passOn := rule.passOn
  respond t r s := rule.congr rfl
  refuse t c s := rule.congr rfl
  clearRefused r s := rule.congr rfl
  measurement b w0 w1 w2 w3 s := rule.congr (takeMeasurement_same b w0 w1 w2 w3 s).work
  status m ws s := rule.congr (statusRecord_same m ws s).work
  berthWords b ws s := rule.congr (takeBerthWords_same b ws s).work
  stationWord n v s := rule.stationWord n v s

end WorkRule

end Sys2Proof.Machine
end

section
/-! Proofs: what a commit and a line reset do to the work of the Window Unit and the Journal Writer. -/

namespace Sys2Proof.Machine

/-! ## The shadow through the sections of a commit (R181) -/

theorem shadow_of_same {s t : State} (h : s.SameStation t) : t.page.shadow = s.page.shadow := by rw [h.page]

theorem forBerths_shadow {f : Berth → State → State} (h : ∀ b s, (f b s).page.shadow = s.page.shadow) (s : State) :
    (forBerths f s).page.shadow = s.page.shadow := ((h .b2 _).trans (h .b1 _)).trans (h .b0 s)

/-- R181: no section changes the shadow that the sections are read from. -/
theorem applySection_shadow (x : Section) (s : State) : (applySection x s).page.shadow = s.page.shadow := by
  cases x with
  | windows => exact (shadow_of_same (rebaseIntake_same _) : (rebaseIntake _).page.shadow = _)
  | berths =>
    refine forBerths_shadow (fun b t => ?_) s
    unfold commitBerth
    split <;> rfl
  | pool => exact shadow_of_same (commitPool_same s)
  | metrology =>
    show (admitConfig _ s).page.shadow = _
    unfold admitConfig
    split <;> rfl
  | journal => rfl
  | protection => rfl
  | attention => rfl

/-! ## A commit's work -/

/-- One section of a commit, where the mask names it. -/
def applyNamed (mask : Word) (x : Section) (s : State) : State := if names mask x then applySection x s else s

theorem applyNamed_shadow (mask : Word) (x : Section) (s : State) :
    (applyNamed mask x s).page.shadow = s.page.shadow := by
  unfold applyNamed
  split
  · exact applySection_shadow x s
  · rfl

theorem applyNamed_work (mask : Word) {x : Section} (hw : x ≠ .windows) (hj : x ≠ .journal) (s : State) :
    (applyNamed mask x s).work = s.work := by
  unfold applyNamed
  split
  · exact applySection_work hw hj s
  · rfl

theorem applyNamed_windows (mask : Word) (s : State) :
    (applyNamed mask .windows s).work =
      { s.work with table := s.tableAfter mask, firstCommit := names mask .windows || s.bus.firstCommit } := by
  unfold applyNamed State.tableAfter
  by_cases named : names mask .windows = true
  · rw [if_pos named, if_pos named, named]
    exact commitWindows_work s
  · rw [if_neg named, if_neg named, Bool.eq_false_iff.mpr named]
    rfl

theorem applyNamed_journal (mask : Word) (s : State) :
    (applyNamed mask .journal s).work = { s.work with ring := s.ringAfter mask } := by
  unfold applyNamed State.ringAfter
  split <;> rfl

/-- The sections of a commit one after the other. -/
def namedApplied (mask : Word) (s : State) : State :=
  Section.list.foldl (fun t x => if names mask x then applySection x t else t) s

theorem ringAfter_congr {s t : State} (mask : Word) (hs : t.page.shadow = s.page.shadow)
    (hr : t.jour.ring = s.jour.ring) : t.ringAfter mask = s.ringAfter mask := by
  unfold State.ringAfter State.cfg
  rw [hs, hr]

/-- R163, R149: the window table and the ring that the named sections leave. -/
theorem namedApplied_work (mask : Word) (s : State) :
    (namedApplied mask s).work =
      { s.work with
        table := s.tableAfter mask, firstCommit := names mask .windows || s.bus.firstCommit
        ring := s.ringAfter mask } := by
  let s1 := applyNamed mask .windows s
  let s3 := applyNamed mask .pool (applyNamed mask .berths s1)
  let s4 := applyNamed mask .journal s3
  have w3 : s3.work = s1.work :=
    (applyNamed_work mask (by decide) (by decide) _).trans (applyNamed_work mask (by decide) (by decide) _)
  have shadow3 : s3.page.shadow = s.page.shadow :=
    (applyNamed_shadow ..).trans ((applyNamed_shadow ..).trans (applyNamed_shadow ..))
  have w1 := applyNamed_windows mask s
  have ring3 : s3.jour.ring = s.jour.ring := congrArg Work.ring (w3.trans w1)
  calc (namedApplied mask s).work
      = (applyNamed mask .attention (applyNamed mask .metrology (applyNamed mask .protection s4))).work := rfl
    _ = s4.work :=
        (applyNamed_work mask (by decide) (by decide) _).trans
          ((applyNamed_work mask (by decide) (by decide) _).trans (applyNamed_work mask (by decide) (by decide) _))
    _ = { s3.work with ring := s3.ringAfter mask } := applyNamed_journal mask s3
    _ = _ := by rw [ringAfter_congr mask shadow3 ring3, w3, w1]

/-- R149: P and C are zero after a commit, or they, the base and the length of the ring are as before. -/
theorem applySections_work (mask : Word) (s : State) :
    ((namedApplied mask s).jour.len = s.jour.len ∧ (applySections mask s).work = (namedApplied mask s).work) ∨
      (applySections mask s).work = { (namedApplied mask s).work with produce := 0, consume := 0 } := by
  have rewind : (applySections mask s).work = (rewindRing s (namedApplied mask s)).work := rfl
  rw [rewind]
  by_cases still : s.journalBase = (namedApplied mask s).journalBase ∧ s.jour.len = (namedApplied mask s).jour.len
  · refine .inl ⟨still.2.symm, ?_⟩
    have same : rewindRing s (namedApplied mask s) = namedApplied mask s := if_pos still
    rw [same]
  · have rewound : rewindRing s (namedApplied mask s) =
        { namedApplied mask s with jour := { (namedApplied mask s).jour with produce := 0, consume := 0 } } := if_neg still
    exact .inr (by rw [rewound]; rfl)

theorem commit_work_cases (mask : Word) (s : State) :
    (commit mask s).work = s.work ∨
      ((s.judgeCommit mask).1 = .accepted ∧ (commit mask s).work = (applySections mask s).work) := by
  unfold commit
  dsimp only
  split
  next accepted => exact .inr ⟨accepted, rfl⟩
  next => exact .inl rfl

/-- A commit changes at most the window table and the ring. -/
theorem commit_work (mask : Word) (s : State) :
    ∃ t f r p c, (commit mask s).work =
      { s.work with table := t, firstCommit := f, ring := r, produce := p, consume := c } := by
  rcases commit_work_cases mask s with same | ⟨-, applied⟩
  · exact ⟨_, _, _, _, _, same⟩
  · rcases applySections_work mask s with ⟨-, h⟩ | h
    · exact ⟨_, _, _, _, _, applied.trans (h.trans (namedApplied_work mask s))⟩
    · rw [namedApplied_work] at h
      exact ⟨_, _, _, _, _, applied.trans h⟩

/-! ## A line reset's work (R160, R174) -/

theorem lineReset_work (s : State) :
    (lineReset s).work =
      { mem := s.bus.mem, passList := [], face := (abandonWrite s).bus.face, passCount := 0
        table := Bus.reset.table, firstCommit := false, writing := none, ring := none, produce := 0, consume := 0 } := by
  have kept := (forBerths_same (f := interruptShoreOnly) (fun b s => by
    unfold interruptShoreOnly
    split
    · exact (noteInterruption_only b s).toSameStation
    · exact .refl s) s).bus
  have face : (lineReset s).bus.face = (abandonWrite s).bus.face := by
    show (abandonWrite (forBerths interruptShoreOnly s)).bus.face = _
    unfold abandonWrite
    rw [kept]
  have mem : (lineReset s).bus.mem = s.bus.mem := (congrArg Bus.mem kept : (forBerths _ s).bus.mem = _)
  calc (lineReset s).work
      = { mem := (lineReset s).bus.mem, passList := [], face := (lineReset s).bus.face, passCount := 0
          table := Bus.reset.table, firstCommit := false, writing := none, ring := none, produce := 0, consume := 0 } := rfl
    _ = _ := by rw [face, mem]

end Sys2Proof.Machine
end

section
/-! Proofs: every step keeps plant memory, the pass list and the arbiter in order. -/

namespace Sys2Proof.Machine

/-! ## Fields of the work -/

theorem mem_of_work {s t : State} (h : t.work = s.work) : t.bus.mem = s.bus.mem := congrArg Work.mem h
theorem passList_of_work {s t : State} (h : t.work = s.work) : t.bus.passList = s.bus.passList := congrArg Work.passList h
theorem face_of_work {s t : State} (h : t.work = s.work) : t.bus.face = s.bus.face := congrArg Work.face h
theorem passCount_of_work {s t : State} (h : t.work = s.work) : t.bus.passCount = s.bus.passCount := congrArg Work.passCount h
theorem writing_of_work {s t : State} (h : t.work = s.work) : t.jour.writing = s.jour.writing := congrArg Work.writing h

/-! ## Plant memory (log 4) -/

theorem grant_mem (s : State) : (grant s).bus.mem = s.bus.mem := (grant_busOnly s).core.mem

theorem State.MemOk.of_mem {s t : State} (h : t.bus.mem = s.bus.mem) (k : s.MemOk) : t.MemOk := by
  unfold State.MemOk at *
  rwa [h]

theorem claimCarried_bus (s : State) : (claimCarried s).bus = s.bus := by
  have judged (r : Record) (u : State) : (judgeReady r u).bus = u.bus := by
    unfold judgeReady
    dsimp only
    split <;> split <;> rfl
  unfold claimCarried
  split
  · rfl
  · split
    · rfl
    · unfold completeWrite
      split
      · rfl
      · exact judged _ _

theorem State.MemOk.burst {s t : State} {k : Nat} {ws : List Word} (h : t.bus.mem = memWriteBurst s.bus.mem k ws)
    (ok : s.MemOk) : t.MemOk := by
  unfold State.MemOk at *
  rw [h]
  exact memWriteBurst_wf ws _ k ok

theorem faceDone_memOk (s : State) (h : s.MemOk) : (faceDone s).MemOk := by
  unfold faceDone
  split
  next item _ =>
    refine State.MemOk.of_mem (grant_mem _) ?_
    unfold carried
    split
    · exact .of_mem (s := s) rfl h
    · exact .burst (s := s) rfl h
  next => exact h

theorem claimDone_memOk (s : State) (h : s.MemOk) : (claimDone s).MemOk := by
  unfold claimDone
  split
  next addr ws live _ =>
    refine State.MemOk.of_mem (grant_mem _) ?_
    split
    · exact .burst (s := s) (congrArg Bus.mem (claimCarried_bus _)) h
    · exact .burst (s := s) rfl h
  next => exact h

theorem startWrite_memOk (s : State) (h : s.MemOk) : (startWrite s).MemOk := by
  unfold startWrite
  split
  · exact h
  · exact .of_mem (s := s) (grant_mem _) h

theorem memOk_rule : WorkRule State.MemOk where
  congr h := .of_mem (mem_of_work h)
  powerOn _ _ _ _ := .of_mem rfl
  lineReset s := .of_mem (congrArg Work.mem (lineReset_work s))
  startWrite s _ := startWrite_memOk s
  faceDone := faceDone_memOk
  claimDone := claimDone_memOk
  passOn i s _ _ := .of_mem (passOn_busOnly i s).core.mem
  journalReset _ := .of_mem rfl
  consume v s := .of_mem (consumeWrite_core v s).mem
  commit mask s := .of_mem (commit_core mask s).mem

/-! ## At most one transfer of each master (R161, R172) -/

theorem grant_tags (s : State) : (grant s).bus.tags = s.bus.tags := by
  unfold grant
  split
  · rfl
  next free =>
    have idle : s.bus.face = none := by simpa using free
    have journal (w : Writing) : (grantJournal w s).bus.tags = s.bus.tags := by
      unfold grantJournal Bus.tags
      rw [idle]
    have pass (i : PassItem) (l : List PassItem) (h : s.bus.passList = i :: l) :
        (grantPass i l s).bus.tags = s.bus.tags := by
      unfold grantPass Bus.tags
      rw [idle, h]
      rfl
    split
    · rfl
    · exact journal _
    next i l h _ => exact pass i l h
    next i l w h _ =>
      split
      · exact journal w
      · exact pass i l h

theorem State.PassOk.of_sublist {s t : State} (h : t.bus.tags.Sublist s.bus.tags) (ok : s.PassOk) : t.PassOk :=
  ⟨ok.1.sublist h, fun mem => ok.2 (h.mem mem)⟩

theorem State.PassOk.of_tags {s t : State} (h : t.bus.tags = s.bus.tags) (ok : s.PassOk) : t.PassOk :=
  .of_sublist (h ▸ .refl _) ok

theorem waiting_sublist_tags (u : Bus) : (u.passList.map (·.tag)).Sublist u.tags := List.sublist_append_right _ _

theorem passOn_passOk (i : PassItem) (s : State) (known : i.tag ≠ .unknown) (free : s.outstanding i.tag = false)
    (h : s.PassOk) : (passOn i s).PassOk := by
  obtain ⟨once, noUnknown⟩ := h
  have absent : i.tag ∉ s.bus.tags := by rw [← State.outstanding_iff, free]; exact Bool.false_ne_true
  have tags : (passOn i s).bus.tags = s.bus.tags ++ [i.tag] := by
    refine (grant_tags _).trans ?_
    unfold Bus.tags
    rw [List.map_append, List.append_assoc]
    rfl
  refine ⟨?_, ?_⟩
  · rw [tags, List.nodup_append]
    refine ⟨once, List.nodup_singleton _, fun a ha c hc => ?_⟩
    rw [List.mem_singleton] at hc
    rintro rfl
    exact absent (hc ▸ ha)
  · rw [tags, List.mem_append, List.mem_singleton, not_or]
    exact ⟨noUnknown, fun h => known h.symm⟩

theorem freed_tags_sublist {s t : State} (hf : t.bus.face = none) (hp : t.bus.passList = s.bus.passList) :
    t.bus.tags.Sublist s.bus.tags := by
  have tags : t.bus.tags = s.bus.passList.map (·.tag) := by
    unfold Bus.tags
    rw [hf, hp]
    rfl
  rw [tags]
  exact waiting_sublist_tags s.bus

theorem faceDone_passOk (s : State) (h : s.PassOk) : (faceDone s).PassOk := by
  unfold faceDone
  split
  next item _ =>
    refine State.PassOk.of_tags (grant_tags _) (.of_sublist ?_ h)
    unfold carried
    split
    · exact freed_tags_sublist rfl rfl
    · exact freed_tags_sublist rfl rfl
  next => exact h

theorem claimDone_passOk (s : State) (h : s.PassOk) : (claimDone s).PassOk := by
  unfold claimDone
  split
  next addr ws live _ =>
    refine State.PassOk.of_tags (grant_tags _) (.of_sublist ?_ h)
    split
    · rw [claimCarried_bus]
      exact freed_tags_sublist rfl rfl
    · exact freed_tags_sublist rfl rfl
  next => exact h

theorem startWrite_tags (s : State) : (startWrite s).bus.tags = s.bus.tags := by
  unfold startWrite
  split
  · rfl
  · exact grant_tags _

theorem lineReset_tags_sublist (s : State) : (lineReset s).bus.tags.Sublist s.bus.tags := by
  have list : (lineReset s).bus.passList = [] := congrArg Work.passList (lineReset_work s)
  have face : (lineReset s).bus.face = (abandonWrite s).bus.face := congrArg Work.face (lineReset_work s)
  rw [← abandonWrite_tags s]
  unfold Bus.tags
  rw [list, face]
  exact List.Sublist.append (.refl _) (List.nil_sublist _)

theorem passOk_rule : WorkRule State.PassOk where
  congr h := .of_tags (tags_of_work h)
  powerOn _ _ _ _ := .of_sublist (List.nil_sublist _)
  lineReset s := .of_sublist (lineReset_tags_sublist s)
  startWrite s _ := .of_tags (startWrite_tags s)
  faceDone := faceDone_passOk
  claimDone := claimDone_passOk
  passOn := passOn_passOk
  journalReset s := .of_tags (abandonWrite_tags s)
  consume v s := .of_tags (consumeWrite_tags v s)
  commit mask s := .of_tags (commit_tags mask s)

/-! ## The arbiter (R173) -/

/-- A granted claim of the record being written is on the face, and the pass count goes from 0 to 4: the arbiter's order but
for the grant that may be due. -/
def State.GrantsOk (s : State) : Prop :=
  ((∃ w, s.jour.writing = some w ∧ w.granted = true) ↔ ∃ a ws, s.bus.face = some (.journal a ws true)) ∧
    s.bus.passCount ≤ 4

theorem State.ArbiterOk.grants {s : State} (h : s.ArbiterOk) : s.GrantsOk := ⟨h.2.1, h.2.2⟩

theorem waitingClaim_some {s : State} {w : Writing} (h : waitingClaim s = some w) :
    s.jour.writing = some w ∧ w.granted = false := by
  unfold waitingClaim at h
  split at h
  next x hx =>
    split at h
    · cases h
    next waits =>
      obtain rfl := Option.some.inj h
      exact ⟨hx, by simpa using waits⟩
  next => cases h

theorem waitingClaim_of_none {s : State} (h : s.jour.writing = none) : waitingClaim s = none := by
  unfold waitingClaim
  rw [h]

theorem grantJournal_arbiterOk (w : Writing) (s : State) : (grantJournal w s).ArbiterOk :=
  ⟨(nomatch ·),
    iff_of_true ⟨_, rfl, rfl⟩ ⟨(claimBurst s w).1, (claimBurst s w).2, rfl⟩, Nat.zero_le 4⟩

theorem grantPass_arbiterOk {s : State} (i : PassItem) (l : List PassItem)
    (waits : ¬∃ w, s.jour.writing = some w ∧ w.granted = true) : (grantPass i l s).ArbiterOk :=
  ⟨(nomatch ·),
    iff_of_false waits fun ⟨_, _, h⟩ => FaceLoad.noConfusion (Option.some.inj h), Nat.min_le_right _ _⟩

/-- R173: deciding a grant puts the arbiter in order. -/
theorem grant_arbiterOk {s : State} (h : s.GrantsOk) : (grant s).ArbiterOk := by
  unfold grant
  split
  next busy => exact ⟨fun idle => absurd busy (by rw [idle]; exact Bool.false_ne_true), h.1, h.2⟩
  next free =>
    have idle : s.bus.face = none := by simpa using free
    have waits : ¬∃ w, s.jour.writing = some w ∧ w.granted = true := fun granted => by
      obtain ⟨a, ws, carries⟩ := h.1.mp granted
      rw [idle] at carries
      cases carries
    split
    next empty noClaim => exact ⟨fun _ => ⟨empty, noClaim⟩, h.1, h.2⟩
    next w _ _ => exact grantJournal_arbiterOk w s
    next i l _ _ => exact grantPass_arbiterOk i l waits
    next i l w _ _ =>
      split
      · exact grantJournal_arbiterOk w s
      · exact grantPass_arbiterOk i l waits

theorem State.GrantsOk.congr {s t : State} (hw : t.jour.writing = s.jour.writing) (hf : t.bus.face = s.bus.face)
    (hc : t.bus.passCount = s.bus.passCount) (h : s.GrantsOk) : t.GrantsOk := by
  unfold State.GrantsOk at *
  rwa [hw, hf, hc]

theorem State.ArbiterOk.congr {s t : State} (hw : t.jour.writing = s.jour.writing) (hf : t.bus.face = s.bus.face)
    (hp : t.bus.passList = s.bus.passList) (hc : t.bus.passCount = s.bus.passCount) (h : s.ArbiterOk) : t.ArbiterOk := by
  unfold State.ArbiterOk waitingClaim at *
  rwa [hw, hf, hp, hc]

/-- R173: with the face free and no claim granted the grants are in order. -/
theorem grantsOk_of_free {s : State} (hf : s.bus.face = none)
    (waits : ∀ w, s.jour.writing = some w → w.granted = false) (hc : s.bus.passCount ≤ 4) : s.GrantsOk := by
  refine ⟨iff_of_false (fun ⟨w, hw, granted⟩ => ?_) fun ⟨_, _, h⟩ => ?_, hc⟩
  · rw [waits w hw] at granted
    cases granted
  · rw [hf] at h
    cases h

/-- R152, R173: a face that carries no claim of the record being written finds its claim waiting. -/
theorem State.ArbiterOk.waits {s : State} (h : s.ArbiterOk) (hf : ∀ a ws, s.bus.face ≠ some (.journal a ws true)) :
    ∀ w, s.jour.writing = some w → w.granted = false := by
  intro w hw
  rw [← Bool.not_eq_true]
  intro granted
  obtain ⟨a, ws, carries⟩ := h.2.1.mp ⟨w, hw, granted⟩
  exact hf a ws carries

theorem startWrite_arbiterOk (s : State) (due : s.canWrite = true) (h : s.ArbiterOk) : (startWrite s).ArbiterOk := by
  have none_ : s.jour.writing = none := by
    unfold State.canWrite at due
    simp only [Bool.and_eq_true, Option.isNone_iff_eq_none] at due
    exact due.1.1.1.2
  have noClaim : ¬∃ a ws, s.bus.face = some (.journal a ws true) := fun carries => by
    obtain ⟨w, hw, -⟩ := h.2.1.mpr carries
    rw [none_] at hw
    cases hw
  unfold startWrite
  split
  · exact h
  · refine grant_arbiterOk ⟨iff_of_false (fun ⟨w, hw, granted⟩ => ?_) noClaim, h.2.2⟩
    obtain rfl := Option.some.inj hw
    cases granted

theorem faceDone_arbiterOk (s : State) (h : s.ArbiterOk) : (faceDone s).ArbiterOk := by
  unfold faceDone
  split
  next item carries =>
    have waits := h.waits fun a ws => by rw [carries]; exact fun e => FaceLoad.noConfusion (Option.some.inj e)
    refine grant_arbiterOk ?_
    unfold carried
    split
    · exact grantsOk_of_free rfl waits h.2.2
    · exact grantsOk_of_free rfl waits h.2.2
  next => exact h

/-- R152: the next claim is not granted yet, and a write that completes leaves none. -/
theorem claimCarried_waits (s : State) : ∀ w, (claimCarried s).jour.writing = some w → w.granted = false := by
  have judged (r : Record) (u : State) : (judgeReady r u).jour.writing = u.jour.writing := by
    unfold judgeReady
    dsimp only
    split <;> split <;> rfl
  intro w hw
  unfold claimCarried at hw
  split at hw
  next none_ =>
    rw [none_] at hw
    cases hw
  next x _ =>
    split at hw
    · rw [← Option.some.inj hw]
    · unfold completeWrite at hw
      split at hw
      · cases hw
      · rw [judged] at hw
        cases hw

theorem claimDone_arbiterOk (s : State) (h : s.ArbiterOk) : (claimDone s).ArbiterOk := by
  unfold claimDone
  split
  next addr ws live carries =>
    refine grant_arbiterOk ?_
    cases live with
    | true =>
      rw [if_pos rfl]
      refine grantsOk_of_free (by rw [claimCarried_bus]; rfl) (claimCarried_waits _) ?_
      rw [claimCarried_bus]
      exact h.2.2
    | false =>
      refine grantsOk_of_free rfl (h.waits fun a ws' => ?_) h.2.2
      rw [carries]
      simp
  next => exact h

theorem abandonWrite_noLive (s : State) (a : Nat) (ws : List Word) :
    (abandonWrite s).bus.face ≠ some (.journal a ws true) := by
  unfold abandonWrite
  dsimp only
  split
  · simp
  next other => exact fun h => other a ws true h

theorem abandonWrite_face_none {s : State} (h : (abandonWrite s).bus.face = none) : s.bus.face = none := by
  unfold abandonWrite at h
  dsimp only at h
  split at h
  · cases h
  · exact h

/-- R155, R160: with no record being written and the face's claim abandoned, the grants are in order. -/
theorem State.ArbiterOk.abandoned {s t : State} (hw : t.jour.writing = none) (hf : t.bus.face = (abandonWrite s).bus.face)
    (hp : t.bus.passList = s.bus.passList ∨ t.bus.passList = []) (hc : t.bus.passCount ≤ 4) (h : s.ArbiterOk) :
    t.ArbiterOk := by
  refine ⟨fun free => ⟨?_, waitingClaim_of_none hw⟩, iff_of_false ?_ ?_, hc⟩
  · rcases hp with same | empty
    · rw [same]
      exact (h.1 (abandonWrite_face_none (hf ▸ free))).1
    · exact empty
  · rintro ⟨w, writes, -⟩
    rw [hw] at writes
    cases writes
  · rintro ⟨a, ws, carries⟩
    exact abandonWrite_noLive s a ws (hf ▸ carries)

theorem arbiterOk_rule : WorkRule State.ArbiterOk where
  congr h := .congr (writing_of_work h) (face_of_work h) (passList_of_work h) (passCount_of_work h)
  powerOn c0 c1 c2 s _ :=
    have grants : (powerOn c0 c1 c2 s).GrantsOk := grantsOk_of_free rfl (fun _ h => nomatch h) (Nat.zero_le 4)
    ⟨fun _ => ⟨rfl, rfl⟩, grants.1, grants.2⟩
  lineReset s := by
    have work := lineReset_work s
    have count : (lineReset s).bus.passCount = 0 := congrArg Work.passCount work
    exact .abandoned (congrArg Work.writing work) (congrArg Work.face work) (.inr (congrArg Work.passList work))
      (count ▸ Nat.zero_le 4)
  startWrite := startWrite_arbiterOk
  faceDone := faceDone_arbiterOk
  claimDone := claimDone_arbiterOk
  passOn i s _ _ h := grant_arbiterOk (.congr (s := s) rfl rfl rfl h.grants)
  journalReset s h := .abandoned (s := s) rfl rfl (.inl rfl) h.2.2 h
  consume v s := by
    unfold consumeWrite
    split <;> exact .congr rfl rfl rfl rfl
  commit mask s := by
    obtain ⟨t, f, r, p, c, work⟩ := commit_work mask s
    exact .congr (congrArg Work.writing work) (congrArg Work.face work) (congrArg Work.passList work)
      (congrArg Work.passCount work)

end Sys2Proof.Machine
end

section
/-! Proofs: every step keeps the window table and the ring in order. -/

namespace Sys2Proof.Machine

/-! ## The range checks of a commit (R179) -/

theorem firstBad_none {x : Section} {l : List (Nat × Bool)} (h : firstBad x l = none) : ∀ c ∈ l, c.2 = true := by
  unfold firstBad at h
  rw [Option.map_eq_none_iff, List.find?_eq_none] at h
  intro c mem
  simpa using h c mem

/-- R177, R179: an accepted commit has passed the range check of every section that it names. -/
theorem checkSection_of_accepted {s : State} {mask : Word} (h : (s.judgeCommit mask).1 = .accepted) {x : Section}
    (named : names mask x = true) : s.checkSection x = none := by
  have ranges : s.checkRanges mask = none := by
    unfold State.judgeCommit at h
    split at h
    · cases h
    · split at h
      · cases h
      next ranges => exact ranges
  unfold State.checkRanges at ranges
  split at ranges
  · cases ranges
  · rw [List.findSome?_eq_none_iff] at ranges
    have listed : x ∈ Section.list := by cases x <;> decide
    simpa [named] using ranges x listed

/-! ## Window entries (R164) -/

theorem RawEntry.entry_kind (e : RawEntry) : e.entry.kind = (WindowKind.ofCode? e.kind).getD .none := rfl

/-- The kind code of an entry that stands. -/
theorem RawEntry.kind_of_entry {e : RawEntry} {k : WindowKind} (h : e.entry.kind = k) (hk : k ≠ .none) :
    WindowKind.ofCode? e.kind = some k := by
  rw [RawEntry.entry_kind] at h
  cases code : WindowKind.ofCode? e.kind with
  | none =>
    rw [code] at h
    exact absurd h.symm hk
  | some c =>
    rw [code] at h
    exact congrArg some h

/-- The code of a kind (11.3). -/
def WindowKind.number : WindowKind → Nat
  | .none => 0
  | .measure => 1
  | .berthPage => 2
  | .moduleCmd => 3
  | .moduleStat => 4
  | .journal => 5

theorem WindowKind.ofCode?_eq_some {n : Nat} {k : WindowKind} : WindowKind.ofCode? n = some k ↔ n = k.number := by
  constructor
  · unfold WindowKind.ofCode?
    split <;> intro h <;> cases h <;> rfl
  · rintro rfl
    cases k <;> rfl

theorem RawEntry.number_of_entry {e : RawEntry} {k : WindowKind} (h : e.entry.kind = k) (hk : k ≠ .none) :
    e.kind = k.number := WindowKind.ofCode?_eq_some.mp (e.kind_of_entry h hk)

theorem RawEntry.entry_of_number {e : RawEntry} {k : WindowKind} (h : e.kind = k.number) : e.entry.kind = k := by
  rw [RawEntry.entry_kind, WindowKind.ofCode?_eq_some.mpr h]
  rfl

/-- R163: an entry whose code is 0 is of kind NONE. -/
theorem RawEntry.kind_ne_zero {e : RawEntry} (h : e.entry.kind ≠ .none) : e.kind ≠ 0 :=
  fun zero => h (RawEntry.entry_of_number (k := .none) zero)

/-- R164: the checks of an entry's own fields. -/
theorem RawEntry.fieldsOk_iff {e : RawEntry} (h : e.kind ≠ 0) :
    e.fieldsOk = true ↔ e.kind ≤ 5 ∧ e.base % 256 = 0 ∧ e.size % 256 = 0 ∧ (256 ≤ e.size ∧ e.size ≤ 1048576) ∧
      e.base + e.size ≤ Config.stationPageBase ∧
      (if e.kind = 1 ∨ e.kind = 2 then decide (e.berth ≤ 2) else e.berth == 0) = true ∧
      (if e.kind = 2 ∨ e.kind = 3 ∨ e.kind = 4 then e.size == 256 else true) = true := by
  unfold RawEntry.fieldsOk
  rw [if_neg h]
  simp only [Bool.and_eq_true, decide_eq_true_eq, beq_iff_eq, and_assoc]

theorem RawEntry.entry_ok {e : RawEntry} (h : e.fieldsOk = true) : e.entry.Ok := by
  by_cases none_ : e.entry.kind = .none
  · exact .inl none_
  · obtain ⟨-, base, size, ⟨least, most⟩, below, berth, fixed⟩ := (fieldsOk_iff (kind_ne_zero none_)).mp h
    refine .inr ⟨base, size, least, most, below, fun paged => ?_, fun single => ?_⟩
    · have code : e.kind = 1 ∨ e.kind = 2 :=
        paged.imp (fun k => number_of_entry k (by decide)) fun k => number_of_entry k (by decide)
      rw [if_pos code] at berth
      exact of_decide_eq_true berth
    · have code : e.kind = 2 ∨ e.kind = 3 ∨ e.kind = 4 :=
        single.imp (fun k => number_of_entry k (by decide))
          (.imp (fun k => number_of_entry k (by decide)) fun k => number_of_entry k (by decide))
      rw [if_pos code] at fixed
      exact eq_of_beq fixed

theorem RawEntry.size_pos {e : RawEntry} (h : e.fieldsOk = true) (hk : e.kind ≠ 0) : 256 ≤ e.size := by
  obtain ⟨-, -, -, ⟨least, -⟩, -⟩ := (fieldsOk_iff hk).mp h
  exact least

/-- R164: two entries in order by themselves that do not clash may stand together. -/
theorem RawEntry.entry_apart {a c : RawEntry} (ha : a.fieldsOk = true) (hc : c.fieldsOk = true)
    (h : a.clashes c = false) : a.entry.Apart c.entry := by
  by_cases noneA : a.entry.kind = .none
  · exact .inl noneA
  by_cases noneC : c.entry.kind = .none
  · exact .inr (.inl noneC)
  have codeA := kind_ne_zero noneA
  have codeC := kind_ne_zero noneC
  have sizeA := size_pos ha codeA
  have sizeC := size_pos hc codeC
  unfold RawEntry.clashes RawEntry.overlaps at h
  simp only [Bool.or_eq_false_iff, Bool.and_eq_false_iff, bne_eq_false_iff_eq, codeA, codeC, false_or,
    decide_eq_false_iff_not, Nat.not_lt, Nat.not_le, beq_eq_false_iff_ne, ne_eq] at h
  obtain ⟨disjoint, kinds⟩ := h
  refine .inr (.inr ⟨?_, fun sameKind => ?_⟩)
  · show a.base + a.size ≤ c.base ∨ c.base + c.size ≤ a.base
    omega
  · have numA := number_of_entry rfl noneA
    have numC := number_of_entry rfl noneC
    have same : a.kind = c.kind := by rw [numA, numC, sameKind]
    obtain ⟨low, berths⟩ := kinds.resolve_left (fun differ => differ same)
    refine ⟨?_, berths⟩
    rw [numA] at low
    revert low noneA
    cases a.entry.kind <;> simp [WindowKind.number]

/-! ## The WINDOWS section (R164) -/

theorem rawTable_length (s : State) : s.rawTable.length = 12 := by
  unfold State.rawTable
  rw [List.length_map, List.length_range]

/-- R164: a WINDOWS section that passes its check. -/
theorem checkWindows_none {s : State} (h : s.checkWindows = none) :
    (∀ n < 12, entryOk s.rawTable n = true) ∧ singlesPresent s.rawTable = true := by
  unfold State.checkWindows at h
  dsimp only at h
  split at h
  · cases h
  next entries =>
    split at h
    next singles =>
      refine ⟨fun n hn => ?_, singles⟩
      exact firstBad_none entries _ (List.mem_map_of_mem (List.mem_range.mpr hn))
    next => cases h

theorem entryOk_iff {t : List RawEntry} {n : Nat} (hn : n < t.length) :
    entryOk t n = true ↔ t[n].fieldsOk = true ∧ ∀ k (hk : k < t.length), k ≠ n → t[n].clashes t[k] = false := by
  unfold entryOk
  rw [List.getElem?_eq_getElem hn]
  simp only [Bool.and_eq_true, List.all_eq_true, List.mem_range, Bool.or_eq_true, beq_iff_eq]
  refine and_congr_right fun _ => forall_congr' fun k => ⟨fun h hk other => ?_, fun h hk => ?_⟩
  · have clear := (h hk).resolve_left other
    rw [List.getElem?_eq_getElem hk] at clear
    simpa using clear
  · by_cases same : k = n
    · exact .inl same
    · rw [List.getElem?_eq_getElem hk]
      exact .inr (by simpa using h hk same)

/-- R163, R164: the table of an accepted WINDOWS commit is in order. -/
theorem tableOk_of_checked {s t : State} (h : s.checkWindows = none)
    (table : t.bus.table = s.rawTable.map RawEntry.entry) (committed : t.bus.firstCommit = true) : t.TableOk := by
  obtain ⟨entries, singles⟩ := checkWindows_none h
  have len := rawTable_length s
  have each (n : Nat) (hn : n < s.rawTable.length) := (entryOk_iff hn).mp (entries n (len ▸ hn))
  rw [State.TableOk, table, committed]
  refine ⟨by rw [List.length_map, len], fun e mem => ?_, ?_, Bool.noConfusion, fun _ k single => ?_⟩
  · obtain ⟨r, memR, rfl⟩ := List.mem_map.mp mem
    obtain ⟨n, hn, rfl⟩ := List.getElem_of_mem memR
    exact RawEntry.entry_ok (each n hn).1
  · rw [List.pairwise_map, List.pairwise_iff_getElem]
    intro i j hi hj lt
    exact RawEntry.entry_apart (each i hi).1 (each j hj).1 ((each i hi).2 j hj (Nat.ne_of_gt lt))
  · have number : k.number ∈ [3, 4, 5] := by
      simp only [List.mem_cons, List.not_mem_nil, or_false] at single
      rcases single with rfl | rfl | rfl <;> decide
    unfold singlesPresent at singles
    obtain ⟨r, memR, code⟩ := List.any_eq_true.mp (List.all_eq_true.mp singles _ number)
    exact ⟨r.entry, List.mem_map_of_mem memR, RawEntry.entry_of_number (eq_of_beq code)⟩

/-! ## Every step keeps the window table in order (R163, R164, R174) -/

theorem State.TableOk.congr {s t : State} (ht : t.bus.table = s.bus.table) (hf : t.bus.firstCommit = s.bus.firstCommit)
    (h : s.TableOk) : t.TableOk := by
  unfold State.TableOk at *
  rwa [ht, hf]

theorem tableOk_of_reset {t : State} (ht : t.bus.table = Bus.reset.table) (hf : t.bus.firstCommit = false) :
    t.TableOk := by
  have noEntry : ∀ e ∈ Bus.reset.table, e = WindowEntry.none := fun e mem => List.eq_of_mem_replicate mem
  have noKind : ∀ e ∈ Bus.reset.table, e.kind = .none := fun e mem => by rw [noEntry e mem]; rfl
  rw [State.TableOk, ht, hf]
  refine ⟨rfl, fun e mem => .inl (noKind e mem), ?_, fun _ => noKind, Bool.noConfusion⟩
  exact List.pairwise_replicate.mpr (.inr (.inl rfl))

theorem table_of_work {s t : State} (h : t.work = s.work) : t.bus.table = s.bus.table := congrArg Work.table h

theorem firstCommit_of_work {s t : State} (h : t.work = s.work) : t.bus.firstCommit = s.bus.firstCommit :=
  congrArg Work.firstCommit h

theorem commit_tableOk (mask : Word) (s : State) (h : s.TableOk) : (commit mask s).TableOk := by
  rcases commit_work_cases mask s with same | ⟨accepted, applied⟩
  · exact h.congr (table_of_work same) (firstCommit_of_work same)
  · have named := namedApplied_work mask s
    have tables : (commit mask s).bus.table = s.tableAfter mask ∧
        (commit mask s).bus.firstCommit = (names mask .windows || s.bus.firstCommit) := by
      rcases applySections_work mask s with ⟨-, work⟩ | work
      · have all := applied.trans (work.trans named)
        exact ⟨congrArg Work.table all, congrArg Work.firstCommit all⟩
      · rw [named] at work
        exact ⟨congrArg Work.table (applied.trans work), congrArg Work.firstCommit (applied.trans work)⟩
    obtain ⟨table, committed⟩ := tables
    unfold State.tableAfter at table
    by_cases windows : names mask .windows = true
    · rw [if_pos windows] at table
      rw [windows, Bool.true_or] at committed
      exact tableOk_of_checked (checkSection_of_accepted accepted windows) table committed
    · rw [if_neg windows] at table
      rw [Bool.eq_false_iff.mpr windows, Bool.false_or] at committed
      exact h.congr table committed

theorem grant_table (s : State) : (grant s).bus.table = s.bus.table ∧ (grant s).bus.firstCommit = s.bus.firstCommit := by
  rw [grant_busOnly s]
  exact ⟨rfl, rfl⟩

theorem State.TableOk.granted {s : State} (h : s.TableOk) : (grant s).TableOk := h.congr (grant_table s).1 (grant_table s).2

theorem faceDone_tableOk (s : State) (h : s.TableOk) : (faceDone s).TableOk := by
  unfold faceDone
  split
  next item _ =>
    refine State.TableOk.granted ?_
    unfold carried
    split <;> exact h.congr rfl rfl
  next => exact h

theorem claimDone_tableOk (s : State) (h : s.TableOk) : (claimDone s).TableOk := by
  unfold claimDone
  split
  next addr ws live _ =>
    refine State.TableOk.granted ?_
    split
    · exact h.congr (congrArg Bus.table (claimCarried_bus _)) (congrArg Bus.firstCommit (claimCarried_bus _))
    · exact h.congr rfl rfl
  next => exact h

theorem startWrite_tableOk (s : State) (h : s.TableOk) : (startWrite s).TableOk := by
  unfold startWrite
  split
  · exact h
  · exact State.TableOk.granted (h.congr rfl rfl)

theorem tableOk_rule : WorkRule State.TableOk where
  congr h := .congr (table_of_work h) (firstCommit_of_work h)
  powerOn _ _ _ _ _ := tableOk_of_reset rfl rfl
  lineReset s _ := tableOk_of_reset (congrArg Work.table (lineReset_work s)) (congrArg Work.firstCommit (lineReset_work s))
  startWrite s _ := startWrite_tableOk s
  faceDone := faceDone_tableOk
  claimDone := claimDone_tableOk
  passOn i s _ _ h := State.TableOk.granted (h.congr (t := { s with
    bus := { s.bus with passList := s.bus.passList ++ [i], resp := s.bus.resp.set i.tag none } }) rfl rfl)
  journalReset s := .congr rfl rfl
  consume v s := by
    unfold consumeWrite
    split <;> exact .congr rfl rfl
  commit := commit_tableOk

/-! ## The ring (R149, R152, R156, R160) -/

/-- The length of a ring, 0 where there is none. -/
def ringLength : Option Ring → Nat
  | some g => g.length
  | none => 0

theorem len_eq_ringLength (j : Journal) : j.len = ringLength j.ring := rfl

/-- The numbers of a ring: its length, P, C and whether a record is being written. -/
def RingNumbersOk (ring : Option Ring) (p c : Nat) (writing : Bool) : Prop :=
  match ring with
  | none => p = 0 ∧ c = 0 ∧ writing = false
  | some g => 16 ≤ g.length ∧ g.length ≤ 2048 ∧ p < g.length ∧ c < g.length ∧ unconsumed g.length p c + 1 ≤ g.length ∧
      (writing = true → unconsumed g.length p c + 1 < g.length)

theorem State.ringOk_iff (s : State) :
    s.RingOk ↔ RingNumbersOk s.jour.ring s.jour.produce s.jour.consume s.jour.writing.isSome := by
  cases h : s.jour.ring with
  | none =>
    rw [State.ringOk_unconfigured h]
    unfold RingNumbersOk
    rw [Option.isSome_eq_false_iff, Option.isNone_iff_eq_none]
  | some g => exact State.ringOk_configured h

theorem unconsumed_zero (l : Nat) : unconsumed l 0 0 = 0 := by
  unfold unconsumed
  rw [Nat.zero_add, Nat.sub_zero, Nat.mod_self]

/-- The unconsumed count of P and C below the length. -/
theorem unconsumed_eq {l p c : Nat} (hp : p < l) (hc : c < l) :
    unconsumed l p c = if c ≤ p then p - c else p + l - c := by
  unfold unconsumed
  split
  next le =>
    rw [show p + l - c = p - c + l by omega, Nat.add_mod_right]
    exact Nat.mod_eq_of_lt (by omega)
  next lt => exact Nat.mod_eq_of_lt (by omega)

theorem unconsumed_lt {l p c : Nat} (hl : 0 < l) : unconsumed l p c < l := Nat.mod_lt _ hl

/-- R152: a record more. -/
theorem unconsumed_succ {l p c : Nat} (hp : p < l) (hc : c < l) (room : unconsumed l p c + 1 < l) :
    unconsumed l ((p + 1) % l) c = unconsumed l p c + 1 := by
  have pos : 0 < l := Nat.lt_of_le_of_lt (Nat.zero_le p) hp
  rw [unconsumed_eq hp hc] at *
  rw [unconsumed_eq (Nat.mod_lt _ pos) hc]
  rcases Nat.lt_or_ge (p + 1) l with low | top
  · rw [Nat.mod_eq_of_lt low]
    split at room <;> split <;> omega
  · obtain rfl : l = p + 1 := by omega
    rw [Nat.mod_self]
    split at room <;> split <;> omega

/-- R156: a C moved up to a place among the unconsumed records leaves no more of them. -/
theorem unconsumed_le_of_consumed {l p c n : Nat} (hp : p < l) (hc : c < l) (hn : n < l)
    (fewer : unconsumed l n c ≤ unconsumed l p c) : unconsumed l p n ≤ unconsumed l p c := by
  rw [unconsumed_eq hp hc] at *
  rw [unconsumed_eq hn hc] at fewer
  rw [unconsumed_eq hp hn]
  split at fewer <;> split at fewer <;> split <;> omega

theorem RingNumbersOk.rewound {ring : Option Ring} {w : Bool} (range : ∀ g, ring = some g → 16 ≤ g.length ∧ g.length ≤ 2048)
    (hw : ring = none → w = false) : RingNumbersOk ring 0 0 w := by
  cases ring with
  | none => exact ⟨rfl, rfl, hw rfl⟩
  | some g =>
    obtain ⟨least, most⟩ := range g rfl
    unfold RingNumbersOk
    dsimp only
    rw [unconsumed_zero]
    exact ⟨least, most, by omega, by omega, by omega, fun _ => by omega⟩

theorem RingNumbersOk.range {ring : Option Ring} {p c : Nat} {w : Bool} (h : RingNumbersOk ring p c w) :
    ∀ g, ring = some g → 16 ≤ g.length ∧ g.length ≤ 2048 := by
  rintro g rfl
  exact ⟨h.1, h.2.1⟩

theorem RingNumbersOk.unwritten {ring : Option Ring} {p c : Nat} {w : Bool} (h : RingNumbersOk ring p c w) :
    RingNumbersOk ring p c false := by
  cases ring with
  | none => exact ⟨h.1, h.2.1, rfl⟩
  | some g =>
    obtain ⟨least, most, hp, hc, room, -⟩ := h
    exact ⟨least, most, hp, hc, room, Bool.noConfusion⟩

theorem RingNumbersOk.configured {ring : Option Ring} {p c : Nat} (h : RingNumbersOk ring p c true) : ring.isSome = true := by
  cases ring with
  | none => exact absurd h.2.2 (by decide)
  | some g => rfl

/-- R149: another ring of the same length. -/
theorem RingNumbersOk.of_length {ring new : Option Ring} {p c : Nat} {w : Bool} (h : RingNumbersOk ring p c w)
    (range : ∀ g, new = some g → 16 ≤ g.length ∧ g.length ≤ 2048) (unset : new = none → ring = none)
    (len : ∀ g, new = some g → ringLength ring = g.length) : RingNumbersOk new p c w := by
  cases new with
  | none =>
    rw [unset rfl] at h
    exact h
  | some g =>
    have same := len g rfl
    cases ring with
    | none =>
      have least := (range g rfl).1
      rw [← same] at least
      exact absurd least (by decide)
    | some k =>
      have same : k.length = g.length := same
      unfold RingNumbersOk at *
      dsimp only at *
      rwa [← same]

theorem State.RingOk.congr {s t : State} (hr : t.jour.ring = s.jour.ring) (hp : t.jour.produce = s.jour.produce)
    (hc : t.jour.consume = s.jour.consume) (hw : t.jour.writing.isSome = s.jour.writing.isSome) (h : s.RingOk) :
    t.RingOk := by
  rw [State.ringOk_iff] at *
  rwa [hr, hp, hc, hw]

theorem State.RingOk.of_work {s t : State} (h : t.work = s.work) : s.RingOk → t.RingOk :=
  .congr (congrArg Work.ring h) (congrArg Work.produce h) (congrArg Work.consume h)
    (congrArg Option.isSome (writing_of_work h))

/-- R173: a grant does not begin or end the writing of a record. -/
theorem State.RingOk.granted {s : State} (h : s.RingOk) : (grant s).RingOk := by
  have writing : (grant s).jour.writing.isSome = s.jour.writing.isSome := by
    have journal (w : Writing) (hw : waitingClaim s = some w) :
        (grantJournal w s).jour.writing.isSome = s.jour.writing.isSome := by
      rw [(waitingClaim_some hw).1]
      rfl
    unfold grant
    split
    · rfl
    · split
      · rfl
      next w _ hw => exact journal w hw
      · rfl
      next i l w _ hw =>
        split
        · exact journal w hw
        · rfl
  refine State.RingOk.congr ?_ ?_ ?_ writing h
  all_goals rw [grant_busOnly s]

theorem len_of_ring {s : State} {g : Ring} (h : s.jour.ring = some g) : s.jour.len = g.length := by
  unfold Journal.len
  rw [h]

theorem startWrite_ringOk (s : State) (due : s.canWrite = true) (h : s.RingOk) : (startWrite s).RingOk := by
  unfold State.canWrite State.ringConfigured at due
  simp only [Bool.and_eq_true, bne_iff_ne, ne_eq] at due
  obtain ⟨⟨-, -, configured⟩, notFull⟩ := due
  obtain ⟨g, ring⟩ := Option.isSome_iff_exists.mp configured
  rw [len_of_ring ring] at notFull
  obtain ⟨least, most, hp, hc, room, -⟩ := (State.ringOk_configured ring).mp h
  have begun : RingNumbersOk (some g) s.jour.produce s.jour.consume true :=
    ⟨least, most, hp, hc, room, fun _ => Nat.lt_of_le_of_ne room notFull⟩
  unfold startWrite
  split
  · exact h
  · exact State.RingOk.granted ((State.ringOk_iff _).mpr (ring ▸ begun))

theorem judgeReady_work (r : Record) (s : State) : (judgeReady r s).work = s.work := by
  unfold judgeReady
  dsimp only
  split <;> split <;> rfl

/-- R152: a write that completes puts one record more in the ring. -/
theorem completeWrite_ringOk {s : State} (w : Writing) (writes : s.jour.writing.isSome = true) (h : s.RingOk) :
    (completeWrite w s).RingOk := by
  obtain ⟨g, ring⟩ : ∃ g, s.jour.ring = some g := by
    rw [State.ringOk_iff, writes] at h
    exact Option.isSome_iff_exists.mp h.configured
  obtain ⟨least, most, hp, hc, room, strict⟩ := (State.ringOk_configured ring).mp h
  have pos : 0 < g.length := by omega
  have more : RingNumbersOk (some g) ((s.jour.produce + 1) % s.jour.len) s.jour.consume false := by
    unfold RingNumbersOk
    dsimp only
    rw [len_of_ring ring, unconsumed_succ hp hc (strict writes)]
    exact ⟨least, most, Nat.mod_lt _ pos, hc, strict writes, Bool.noConfusion⟩
  have ended : RingNumbersOk (some g) s.jour.produce s.jour.consume false :=
    ⟨least, most, hp, hc, room, Bool.noConfusion⟩
  unfold completeWrite
  split
  · exact (State.ringOk_iff _).mpr (ring ▸ ended)
  · exact .of_work (judgeReady_work _ _) ((State.ringOk_iff _).mpr (ring ▸ more))

theorem claimCarried_ringOk (s : State) (h : s.RingOk) : (claimCarried s).RingOk := by
  unfold claimCarried
  split
  · exact h
  next w writes =>
    split
    · exact .congr (s := s) rfl rfl rfl (congrArg Option.isSome writes).symm h
    · exact completeWrite_ringOk w (by rw [writes]; rfl) h

theorem claimDone_ringOk (s : State) (h : s.RingOk) : (claimDone s).RingOk := by
  unfold claimDone
  split
  next addr ws live _ =>
    refine State.RingOk.granted ?_
    split
    · exact claimCarried_ringOk _ h
    · exact h
  next => exact h

theorem faceDone_ringOk (s : State) (h : s.RingOk) : (faceDone s).RingOk := by
  unfold faceDone
  split
  next item _ =>
    refine State.RingOk.granted ?_
    unfold carried
    split <;> exact h
  next => exact h

theorem journalReset_ringOk (s : State) (h : s.RingOk) : (journalReset s).RingOk := by
  rw [State.ringOk_iff] at *
  exact RingNumbersOk.rewound h.range fun _ => rfl

/-- R156: a consume value that is taken leaves no more unconsumed. -/
theorem consumeWrite_ringOk (v : Word) (s : State) (h : s.RingOk) : (consumeWrite v s).RingOk := by
  unfold consumeWrite
  split
  next taken =>
    unfold Journal.takesConsume at taken
    simp only [Bool.and_eq_true, decide_eq_true_eq] at taken
    obtain ⟨below, fewer⟩ := taken
    cases ring : s.jour.ring with
    | none =>
      unfold Journal.len at below
      rw [ring] at below
      exact absurd below (Nat.not_lt_zero _)
    | some g =>
      rw [len_of_ring ring] at below fewer
      obtain ⟨least, most, hp, hc, room, strict⟩ := (State.ringOk_configured ring).mp h
      have less := unconsumed_le_of_consumed hp hc below fewer
      have consumed : RingNumbersOk (some g) s.jour.produce v.toNat s.jour.writing.isSome :=
        ⟨least, most, hp, below, Nat.le_trans (Nat.succ_le_succ less) room,
          fun writes => Nat.lt_of_le_of_lt (Nat.succ_le_succ less) (strict writes)⟩
      exact (State.ringOk_iff _).mpr (ring ▸ consumed)
  next => exact h

/-- R149: the length of a ring that a commit brings into force is in range. -/
theorem ringAfter_range {s : State} {mask : Word} (accepted : (s.judgeCommit mask).1 = .accepted) (h : s.RingOk) :
    ∀ g, s.ringAfter mask = some g → 16 ≤ g.length ∧ g.length ≤ 2048 := by
  intro g ring
  unfold State.ringAfter at ring
  split at ring
  next named =>
    obtain rfl := Option.some.inj ring
    have checked : s.checkJournal = none := checkSection_of_accepted accepted named
    have range := firstBad_none checked (s.within 128 16 2048) List.mem_cons_self
    exact of_decide_eq_true range
  next =>
    rw [State.ringOk_iff] at h
    exact h.range g ring

theorem commit_ringOk (mask : Word) (s : State) (h : s.RingOk) : (commit mask s).RingOk := by
  rcases commit_work_cases mask s with same | ⟨accepted, applied⟩
  · exact h.of_work same
  · have named := namedApplied_work mask s
    have range := ringAfter_range accepted h
    have keepsRing : s.ringAfter mask = none → s.jour.ring = none := by
      unfold State.ringAfter
      split
      · exact (nomatch ·)
      · exact id
    rw [State.ringOk_iff] at h ⊢
    rcases applySections_work mask s with ⟨len, work⟩ | work
    · have all := applied.trans (work.trans named)
      have ring : (commit mask s).jour.ring = s.ringAfter mask := congrArg Work.ring all
      have produce : (commit mask s).jour.produce = s.jour.produce := congrArg Work.produce all
      have consume : (commit mask s).jour.consume = s.jour.consume := congrArg Work.consume all
      have writing : (commit mask s).jour.writing = s.jour.writing := congrArg Work.writing all
      have namedRing : (namedApplied mask s).jour.ring = s.ringAfter mask := congrArg Work.ring named
      rw [ring, produce, consume, writing]
      refine h.of_length range keepsRing fun g after => ?_
      rw [← len_eq_ringLength, ← len, len_of_ring (namedRing.trans after)]
    · rw [named] at work
      have all := applied.trans work
      have ring : (commit mask s).jour.ring = s.ringAfter mask := congrArg Work.ring all
      have produce : (commit mask s).jour.produce = 0 := congrArg Work.produce all
      have consume : (commit mask s).jour.consume = 0 := congrArg Work.consume all
      have writing : (commit mask s).jour.writing = s.jour.writing := congrArg Work.writing all
      rw [ring, produce, consume, writing]
      refine RingNumbersOk.rewound range fun unset => ?_
      rw [keepsRing unset] at h
      exact h.2.2

theorem ringOk_of_reset {t : State} (hr : t.jour.ring = none) (hp : t.jour.produce = 0) (hc : t.jour.consume = 0)
    (hw : t.jour.writing = none) : t.RingOk := (State.ringOk_unconfigured hr).mpr ⟨hp, hc, hw⟩

theorem ringOk_rule : WorkRule State.RingOk where
  congr := .of_work
  powerOn _ _ _ _ _ := ringOk_of_reset rfl rfl rfl rfl
  lineReset s _ := ringOk_of_reset (congrArg Work.ring (lineReset_work s)) (congrArg Work.produce (lineReset_work s))
    (congrArg Work.consume (lineReset_work s)) (congrArg Work.writing (lineReset_work s))
  startWrite := startWrite_ringOk
  faceDone := faceDone_ringOk
  claimDone := claimDone_ringOk
  passOn i s _ _ h := State.RingOk.granted (h.congr (t := { s with
    bus := { s.bus with passList := s.bus.passList ++ [i], resp := s.bus.resp.set i.tag none } }) rfl rfl rfl rfl)
  journalReset := journalReset_ringOk
  consume := consumeWrite_ringOk
  commit := commit_ringOk

end Sys2Proof.Machine
end

section
/-! Proofs: every step keeps the slots of the holding queue (R145). -/

namespace Sys2Proof.Machine

/-! ## The classes of a record (R144) -/

/-- R145: what fits the slots of the holding queue. -/
def QueueFits (q : List Record) : Prop :=
  (∀ b, billingHeld q b ≤ 3) ∧ metrologyHeld q ≤ 1 ∧ eventsHeld q ≤ 6 ∧ q.all Record.classified = true

theorem State.queueOk_iff (s : State) : s.QueueOk ↔ QueueFits s.jour.queue := Iff.rfl

theorem isBilling_other {b c : Berth} {r : Record} (h : r.isBilling b = true) (hc : c ≠ b) : r.isBilling c = false := by
  unfold Record.isBilling at *
  simp only [Bool.and_eq_true, beq_iff_eq] at h
  rw [h.1, Bool.and_eq_false_iff]
  exact .inl (by simpa using hc.symm)

theorem isBilling_class {b : Berth} {r : Record} (h : r.isBilling b = true) :
    r.isMetrology = false ∧ r.isEvent = false := by
  unfold Record.isBilling at h
  rw [Bool.and_eq_true] at h
  unfold Record.isMetrology Record.isEvent
  cases body : r.body <;> simp [body] at h ⊢

theorem isEvent_class {r : Record} (h : r.isEvent = true) : (∀ b, r.isBilling b = false) ∧ r.isMetrology = false := by
  unfold Record.isEvent at h
  unfold Record.isBilling Record.isMetrology
  cases body : r.body <;> simp [body] at h ⊢

theorem isMetrology_class {r : Record} (h : r.isMetrology = true) : (∀ b, r.isBilling b = false) ∧ r.isEvent = false := by
  unfold Record.isMetrology at h
  unfold Record.isBilling Record.isEvent
  cases body : r.body <;> simp [body] at h ⊢

theorem classified_iff (r : Record) :
    r.classified = true ↔ (∃ b, r.isBilling b = true) ∨ r.isMetrology = true ∨ r.isEvent = true := by
  have listed (b : Berth) : b ∈ Berth.list := by cases b <;> decide
  unfold Record.classified
  rw [Bool.or_eq_true, Bool.or_eq_true, List.any_eq_true, or_assoc]
  exact or_congr_left (exists_congr fun b => and_iff_right (listed b))

/-! ## Admission (R145 to R148) -/

theorem countP_append_one (p : Record → Bool) (q : List Record) (r : Record) :
    (q ++ [r]).countP p = q.countP p + if p r then 1 else 0 := by
  rw [List.countP_append, List.countP_singleton]

theorem QueueFits.append {q : List Record} {r : Record} (h : QueueFits q) (cls : r.classified = true)
    (billing : ∀ b, r.isBilling b = true → billingHeld q b < 3) (metrology : r.isMetrology = true → metrologyHeld q < 1)
    (event : r.isEvent = true → eventsHeld q < 6) : QueueFits (q ++ [r]) := by
  obtain ⟨hb, hm, he, all⟩ := h
  refine ⟨fun b => ?_, ?_, ?_, ?_⟩
  · unfold billingHeld at *
    rw [countP_append_one]
    split
    next new => exact billing b new
    next => exact hb b
  · unfold metrologyHeld at *
    rw [countP_append_one]
    split
    next new => exact metrology new
    next => exact hm
  · unfold eventsHeld at *
    rw [countP_append_one]
    split
    next new => exact event new
    next => exact he
  · rw [List.all_append, all, Bool.true_and, List.all_cons, cls]
    rfl

theorem admitBilling_queueOk {b : Berth} {r : Record} (hr : r.isBilling b = true) (s : State) (h : s.QueueOk) :
    (admitBilling b r s).QueueOk := by
  unfold admitBilling
  split
  next room =>
    obtain ⟨noMetrology, noEvent⟩ := isBilling_class hr
    refine QueueFits.append h ((classified_iff r).mpr (.inl ⟨b, hr⟩)) (fun c hc => ?_) (fun m => ?_) fun e => ?_
    · by_cases own : c = b
      · rw [own]
        exact room
      · rw [isBilling_other hr own] at hc
        cases hc
    · rw [noMetrology] at m
      cases m
    · rw [noEvent] at e
      cases e
  next => exact h

theorem admitEvent_queueOk {r : Record} (hr : r.isEvent = true) (s : State) (h : s.QueueOk) :
    (admitEvent r s).QueueOk := by
  unfold admitEvent
  split
  next room =>
    obtain ⟨noBilling, noMetrology⟩ := isEvent_class hr
    refine QueueFits.append h ((classified_iff r).mpr (.inr (.inr hr))) (fun c hc => ?_) (fun m => ?_) fun _ => room
    · rw [noBilling c] at hc
      cases hc
    · rw [noMetrology] at m
      cases m
  next => exact h

theorem admitConfig_queueOk {r : Record} (hr : r.isMetrology = true) (s : State) (h : s.QueueOk) :
    (admitConfig r s).QueueOk := by
  unfold admitConfig
  split
  next room =>
    obtain ⟨noBilling, noEvent⟩ := isMetrology_class hr
    refine QueueFits.append h ((classified_iff r).mpr (.inr (.inl hr))) (fun c hc => ?_)
      (fun _ => by rw [room]; exact Nat.zero_lt_one) fun e => ?_
    · rw [noBilling c] at hc
      cases hc
    · rw [noEvent] at e
      cases e
  next => exact h

/-! ## Merging (R146) -/

/-- A test of a record's class: a merge into an INTERVAL does not change its answer. -/
def ByClass (p : Record → Bool) : Prop :=
  ∀ (r : Record) (t : StationTime) (old new : IntervalBody), r.body = .interval old →
    p { r with time := t, body := .interval new } = p r

theorem isBilling_byClass (b : Berth) : ByClass (Record.isBilling b) := by
  intro r t old new h
  unfold Record.isBilling
  rw [h]

theorem isMetrology_byClass : ByClass Record.isMetrology := by
  intro r t old new h
  unfold Record.isMetrology
  rw [h]

theorem isEvent_byClass : ByClass Record.isEvent := by
  intro r t old new h
  unfold Record.isEvent
  rw [h]

/-- R146: a merge changes one INTERVAL of the queue, which keeps its class. -/
theorem mergeNewest_countP {p : Record → Bool} (hp : ByClass p) {b : Berth} {t : StationTime} {new : IntervalBody}
    {q q' : List Record} (h : mergeNewest b t new q = some q') : q'.countP p = q.countP p := by
  induction q generalizing q' with
  | nil => cases h
  | cons r rest ih =>
    unfold mergeNewest at h
    split at h
    next rest' later =>
      obtain rfl := Option.some.inj h
      rw [List.countP_cons, List.countP_cons, ih later]
    next =>
      split at h
      next old body =>
        split at h
        · obtain rfl := Option.some.inj h
          rw [List.countP_cons, List.countP_cons, hp r t old _ body]
        · cases h
      next => cases h

theorem mergeInto_countP {p : Record → Bool} (hp : ByClass p) {w : Bool} {b : Berth} {t : StationTime}
    {new : IntervalBody} {q q' : List Record} (h : mergeInto w b t new q = some q') : q'.countP p = q.countP p := by
  unfold mergeInto at h
  split at h
  next r rest =>
    obtain ⟨rest', merged, rfl⟩ := Option.map_eq_some_iff.mp h
    rw [List.countP_cons, List.countP_cons, mergeNewest_countP hp merged]
  next => exact mergeNewest_countP hp h

theorem mergeNewest_length {b : Berth} {t : StationTime} {new : IntervalBody} {q q' : List Record}
    (h : mergeNewest b t new q = some q') : q'.length = q.length := by
  have all := mergeNewest_countP (p := fun _ => true) (fun _ _ _ _ _ => rfl) h
  simpa only [List.countP_true] using all

theorem mergeInto_length {w : Bool} {b : Berth} {t : StationTime} {new : IntervalBody} {q q' : List Record}
    (h : mergeInto w b t new q = some q') : q'.length = q.length := by
  have all := mergeInto_countP (p := fun _ => true) (fun _ _ _ _ _ => rfl) h
  simpa only [List.countP_true] using all

theorem classified_byClass : ByClass Record.classified := by
  intro r t old new h
  unfold Record.classified
  simp only [isBilling_byClass _ r t old new h, isMetrology_byClass r t old new h, isEvent_byClass r t old new h]

theorem QueueFits.merged {w : Bool} {b : Berth} {t : StationTime} {new : IntervalBody} {q q' : List Record}
    (h : QueueFits q) (m : mergeInto w b t new q = some q') : QueueFits q' := by
  obtain ⟨hb, hm, he, all⟩ := h
  unfold QueueFits billingHeld metrologyHeld eventsHeld at *
  rw [mergeInto_countP isMetrology_byClass m, mergeInto_countP isEvent_byClass m]
  refine ⟨fun c => (mergeInto_countP (isBilling_byClass c) m).symm ▸ hb c, hm, he, ?_⟩
  rw [List.all_eq_true, ← List.countP_eq_length] at all ⊢
  rw [mergeInto_countP classified_byClass m, mergeInto_length m, all]

theorem admitInterval_queueOk (b : Berth) {r : Record} {i : IntervalBody} (hb : r.berth = some b)
    (hr : r.body = .interval i) (s : State) (h : s.QueueOk) : (admitInterval b r i s).QueueOk := by
  unfold admitInterval
  split
  next q merged => exact QueueFits.merged h merged
  next =>
    refine admitBilling_queueOk ?_ s h
    unfold Record.isBilling
    rw [hb, hr, beq_self_eq_true]
    rfl

/-! ## Operations that produce records -/

/-- From `s` to `t` the slots of the holding queue are kept. -/
structure State.KeepsQueue (s t : State) : Prop where
  keeps : s.QueueOk → t.QueueOk

theorem State.KeepsQueue.refl (s : State) : s.KeepsQueue s := ⟨id⟩

theorem State.KeepsQueue.trans {s t u : State} (h : s.KeepsQueue t) (k : t.KeepsQueue u) : s.KeepsQueue u :=
  ⟨fun ok => k.keeps (h.keeps ok)⟩

theorem keepsQueue_of_eq {s t : State} (h : t.jour.queue = s.jour.queue) : s.KeepsQueue t := by
  refine ⟨fun ok => ?_⟩
  rw [State.queueOk_iff] at *
  rwa [h]

theorem State.Quiet.keepsQueue {s t : State} (h : s.Quiet t) : s.KeepsQueue t :=
  keepsQueue_of_eq (congrArg Journal.queue h.jour)

theorem State.ModsOnly.keepsQueue {s t : State} (h : s.ModsOnly t) : s.KeepsQueue t := h.quiet.keepsQueue

theorem forBerths_keepsQueue {f : Berth → State → State} (h : ∀ b (s : State), s.KeepsQueue (f b s)) (s : State) :
    s.KeepsQueue (forBerths f s) := ((h .b0 _).trans (h .b1 _)).trans (h .b2 _)

theorem updSeq_keepsQueue (b : Berth) (f : Seq → Seq) (s : State) : s.KeepsQueue (s.updSeq b f) := keepsQueue_of_eq rfl
theorem updSync_keepsQueue (b : Berth) (f : Sync → Sync) (s : State) : s.KeepsQueue (s.updSync b f) := keepsQueue_of_eq rfl
theorem updMeas_keepsQueue (b : Berth) (f : Meas → Meas) (s : State) : s.KeepsQueue (s.updMeas b f) := keepsQueue_of_eq rfl
theorem updOsc_keepsQueue (b : Berth) (f : Osc → Osc) (s : State) : s.KeepsQueue (s.updOsc b f) := keepsQueue_of_eq rfl
theorem updMod_keepsQueue (m : ModuleId) (f : Module → Module) (s : State) : s.KeepsQueue (s.updMod m f) :=
  keepsQueue_of_eq rfl
theorem updSession_keepsQueue (b : Berth) (f : Session → Session) (s : State) : s.KeepsQueue (s.updSession b f) :=
  keepsQueue_of_eq rfl
theorem setSession_keepsQueue (b : Berth) (x : Option Session) (s : State) : s.KeepsQueue (s.setSession b x) :=
  keepsQueue_of_eq rfl
theorem setSummary_keepsQueue (k : SummaryBit) (s : State) : s.KeepsQueue (setSummary k s) := keepsQueue_of_eq rfl
theorem withClaims_keepsQueue (l : List Claim) (s : State) : s.KeepsQueue { s with claims := l } := keepsQueue_of_eq rfl
theorem withClock_keepsQueue (c : Clock) (s : State) : s.KeepsQueue { s with clock := c } := keepsQueue_of_eq rfl
theorem withPage_keepsQueue (p : Page) (s : State) : s.KeepsQueue { s with page := p } := keepsQueue_of_eq rfl

theorem emitEvent_keepsQueue (c : EventCode) (q : Nat) (o : Option Berth) (ws : List Word) (s : State) :
    s.KeepsQueue (emitEvent c q o ws s) := ⟨admitEvent_queueOk rfl s⟩

theorem enterState_keepsQueue (b : Berth) (new : BerthState) (s : State) : s.KeepsQueue (enterState b new s) :=
  (enterState_quiet b new s).keepsQueue

theorem completeCurrent_keepsQueue (b : Berth) (o : ReqOutcome) (c : Option Cause) (s : State) :
    s.KeepsQueue (completeCurrent b o c s) := (completeCurrent_quiet b o c s).keepsQueue

/-! ## Sessions and states -/

theorem openSession_keepsQueue (b : Berth) (p : ShipProfile) (s : State) : s.KeepsQueue (openSession b p s) := by
  constructor
  intro ok
  unfold openSession
  refine admitBilling_queueOk ?_ _ ok
  unfold Record.isBilling
  rw [beq_self_eq_true]
  rfl

theorem firstEnergised_keepsQueue (b : Berth) (s : State) : s.KeepsQueue (firstEnergised b s) := by
  unfold firstEnergised
  split
  · exact .refl s
  · exact (updSeq_keepsQueue b _ s).trans ((openSession_keepsQueue b _ _).trans (emitEvent_keepsQueue ..))

theorem becomeEnergised_keepsQueue (b : Berth) (s : State) : s.KeepsQueue (becomeEnergised b s) := by
  unfold becomeEnergised
  refine (enterState_keepsQueue b .energised s).trans (.trans ?_ (completeCurrent_keepsQueue b _ _ _))
  split
  · exact .refl _
  · exact firstEnergised_keepsQueue b _

theorem checkEnergising_keepsQueue (b : Berth) (s : State) : s.KeepsQueue (checkEnergising b s) := by
  unfold checkEnergising
  split
  · exact becomeEnergised_keepsQueue b s
  · exact .refl s

theorem splitInterval_keepsQueue (x y : StationTime) (k : Bool) (b : Berth) (s : State) :
    s.KeepsQueue (splitInterval x y k b s) := by
  unfold splitInterval
  split
  · exact .refl s
  · dsimp only
    exact (setSession_keepsQueue b _ s).trans ⟨admitInterval_queueOk b (by rfl) (by rfl) _⟩

theorem closeSession_keepsQueue (b : Berth) (k : Nat) (t : StationTime) (s : State) :
    s.KeepsQueue (closeSession b k t s) := by
  have billing (x : Session) (ws : List Word) (u : State) : u.KeepsQueue (admitBilling b
      { berth := some b, session := x.number, time := u.clock.time, body := .sessionClose ws } u) := by
    refine ⟨admitBilling_queueOk ?_ u⟩
    unfold Record.isBilling
    rw [beq_self_eq_true]
    rfl
  unfold closeSession
  split
  · exact .refl s
  next x _ =>
    dsimp only
    exact .trans ⟨admitInterval_queueOk b (by rfl) (by rfl) s⟩ ((billing x _ _).trans (setSession_keepsQueue b none _))

theorem paramsIntoForce_keepsQueue (b : Berth) (s : State) : s.KeepsQueue (paramsIntoForce b s) := by
  unfold paramsIntoForce
  split <;> exact keepsQueue_of_eq rfl

theorem enterIdle_keepsQueue (b : Berth) (s : State) : s.KeepsQueue (enterIdle b s) := by
  have entered (t : State) : t.KeepsQueue (paramsIntoForce b ((enterState b .idle t).updSeq b idleContext)) :=
    (enterState_keepsQueue b .idle t).trans ((updSeq_keepsQueue b _ _).trans (paramsIntoForce_keepsQueue b _))
  have closed := closeSession_keepsQueue b 1 s.clock.time s
  unfold enterIdle
  dsimp only
  split
  · exact closed.trans ((emitEvent_keepsQueue ..).trans (entered _))
  · exact closed.trans (entered _)

theorem enterTripped_keepsQueue (b : Berth) (c : TripCause) (s : State) : s.KeepsQueue (enterTripped b c s) := by
  by_cases there : (s.seq.get b).state = .tripped
  · unfold enterTripped
    rw [if_pos there]
    exact .refl s
  · have jour := enterTripped_jour b c s there
    exact (emitEvent_keepsQueue ..).trans (keepsQueue_of_eq (congrArg Journal.queue jour))

theorem openingConfirmed_keepsQueue (b : Berth) (s : State) : s.KeepsQueue (openingConfirmed b s) :=
  (enterState_keepsQueue b .energised s).trans ((emitEvent_keepsQueue ..).trans (completeCurrent_keepsQueue b _ _ _))

theorem externalOpen_keepsQueue (b : Berth) (s : State) : s.KeepsQueue (externalOpen b s) :=
  (enterState_keepsQueue b .energised s).trans ((emitEvent_keepsQueue ..).trans (completeCurrent_keepsQueue b _ _ _))

theorem emitRough_keepsQueue (b : Berth) (r : LastClose) (s : State) : s.KeepsQueue (emitRough b r s) := by
  unfold emitRough
  split
  · exact emitEvent_keepsQueue ..
  · exact .refl s

theorem confirmClose_keepsQueue (b : Berth) (s : State) : s.KeepsQueue (confirmClose b s) :=
  ((updSync_keepsQueue b _ s).trans (emitRough_keepsQueue b _ _)).trans
    (((updSession_keepsQueue b _ _).trans (enterState_keepsQueue b .parallelIn _)).trans
      ((emitEvent_keepsQueue ..).trans (completeCurrent_keepsQueue b _ _ _)))

/-! ## Breaker movements -/

theorem uncommandedClose_keepsQueue (b : Berth) (s : State) : s.KeepsQueue (uncommandedClose b s) :=
  ((updSync_keepsQueue b _ s).trans (updSync_keepsQueue b _ _)).trans
    ((withClaims_keepsQueue _ _).trans ((enterTripped_keepsQueue b _ _).trans (tryIf_quiet _ _).keepsQueue))

theorem breakerRise_keepsQueue (b : Berth) (s : State) : s.KeepsQueue (breakerRise b s) := by
  unfold breakerRise
  split
  · exact confirmClose_keepsQueue b s
  · exact .refl s
  · exact .refl s
  · exact .refl s
  · exact .refl s
  · exact uncommandedClose_keepsQueue b s

theorem breakerFall_keepsQueue (b : Berth) (s : State) : s.KeepsQueue (breakerFall b s) := by
  have dead : s.KeepsQueue (startDeadTime b s) := updSync_keepsQueue b _ s
  unfold breakerFall
  dsimp only
  split
  · exact dead.trans ((updSync_keepsQueue b _ _).trans (openingConfirmed_keepsQueue b _))
  · exact dead.trans (externalOpen_keepsQueue b _)
  · exact dead.trans (externalOpen_keepsQueue b _)
  · exact dead.trans (externalOpen_keepsQueue b _)
  · exact dead

theorem openFailed_keepsQueue (b : Berth) (s : State) : s.KeepsQueue (openFailed b s) :=
  ((updSync_keepsQueue b _ s).trans (updSync_keepsQueue b _ _)).trans (enterTripped_keepsQueue b _ _)

theorem overloadExpired_keepsQueue (b : Berth) (s : State) : s.KeepsQueue (overloadExpired b s) := by
  unfold overloadExpired
  split
  · exact (controlledOpen_quiet b _ s).keepsQueue
  · exact (controlledOpen_quiet b _ s).keepsQueue
  · exact (updSync_keepsQueue b _ s).trans (enterTripped_keepsQueue b _ _)
  · exact enterTripped_keepsQueue b _ s

/-! ## The Synchronising Unit and the intake -/

theorem predict_keepsQueue (b : Berth) (s : State) : s.KeepsQueue (predict b s) := by
  unfold predict
  split
  · exact updSync_keepsQueue b _ s
  · exact .refl s

theorem evaluate_keepsQueue (b : Berth) (s : State) : s.KeepsQueue (evaluate b s) := by
  have seen := updSync_keepsQueue b (fun u => { u with window := s.evalWindow b }) s
  unfold evaluate
  dsimp only
  split
  · split
    · refine .trans ?_ (predict_keepsQueue b _)
      split
      · exact seen.trans (enterState_keepsQueue b .armed _)
      · exact seen
    · split
      · exact seen.trans ((updSync_keepsQueue b _ _).trans (enterState_keepsQueue b .matching _))
      · exact seen
  · exact .refl s

theorem closeDue_keepsQueue (b : Berth) (s : State) : s.KeepsQueue (closeDue b s) := by
  have seen := updSync_keepsQueue b (fun u => { u with window := s.evalWindow b }) s
  unfold closeDue
  dsimp only
  split
  · exact seen.trans ((updSync_keepsQueue b _ _).trans (enterState_keepsQueue b .matching _))
  · split
    · exact seen.trans (updSync_keepsQueue b _ _)
    · exact seen.trans ((updSync_keepsQueue b _ _).trans (enterState_keepsQueue b .closing _))

theorem compareReading_keepsQueue (b : Berth) (x : RegisterBase) (f : Feeder) (s : State) :
    s.KeepsQueue (compareReading b x f s) := by
  unfold compareReading
  split
  · exact updSession_keepsQueue b _ s
  · exact emitEvent_keepsQueue ..

theorem takeReading_keepsQueue (b : Berth) (f : Feeder) (s : State) : s.KeepsQueue (takeReading b f s) := by
  unfold takeReading
  refine .trans ?_ (updMeas_keepsQueue b _ _)
  split
  · exact .refl s
  · exact compareReading_keepsQueue b _ f s

theorem feederAccepted_keepsQueue (b : Berth) (s : State) : s.KeepsQueue (feederAccepted b s) :=
  (updSeq_keepsQueue b _ s).trans ((refreshDirection_quiet b _).trans (judge_quiet b _)).keepsQueue

theorem acceptFeeder_keepsQueue (b : Berth) (f : Feeder) (s : State) : s.KeepsQueue (acceptFeeder b f s) := by
  have released (u : State) : u.KeepsQueue (compareRelease b f.power u) := by
    unfold compareRelease
    split
    · exact (controlledOpen_quiet b _ u).keepsQueue
    · exact .refl u
  exact (updMeas_keepsQueue b _ s).trans
    ((takeReading_keepsQueue b f _).trans ((feederAccepted_keepsQueue b _).trans (released _)))

theorem countFailure_keepsQueue (b : Berth) (f : Counters → Counters) (s : State) : s.KeepsQueue (countFailure b f s) :=
  updMeas_keepsQueue b _ s

theorem acceptFeederFault_keepsQueue (b : Berth) (s : State) : s.KeepsQueue (acceptFeederFault b s) := by
  unfold acceptFeederFault
  dsimp only
  split
  · exact (countFailure_keepsQueue b _ s).trans (updMeas_keepsQueue b _ _)
  · exact (countFailure_keepsQueue b _ s).trans ((updMeas_keepsQueue b _ _).trans (feederAccepted_keepsQueue b _))

theorem takeValues_keepsQueue (b : Berth) (k : SlotKind) (r : MeasRecord) (s : State) :
    s.KeepsQueue (takeValues b k r s) := by
  unfold takeValues
  split
  · split
    · exact (updMeas_keepsQueue b _ s).trans
        ((updOsc_keepsQueue b _ _).trans ((updSync_keepsQueue b _ _).trans (evaluate_keepsQueue b _)))
    · exact countFailure_keepsQueue b _ s
  · split
    · exact (updMeas_keepsQueue b _ s).trans ((checkEnergising_keepsQueue b _).trans (evaluate_keepsQueue b _))
    · exact countFailure_keepsQueue b _ s
  · split
    · exact acceptFeeder_keepsQueue b _ s
    · exact acceptFeederFault_keepsQueue b s

theorem applySeq_keepsQueue {b : Berth} {q : BitVec 8} {s t : State} (h : applySeq b q s = some t) : s.KeepsQueue t := by
  unfold applySeq at h
  split at h
  · obtain rfl := Option.some.inj h
    exact updMeas_keepsQueue b _ s
  · obtain rfl := Option.some.inj h
    exact updMeas_keepsQueue b _ s
  · obtain rfl := Option.some.inj h
    exact (updMeas_keepsQueue b _ s).trans ((countFailure_keepsQueue b _ _).trans (updSession_keepsQueue b _ _))
  · cases h

theorem takeMeasurement_keepsQueue (b : Berth) (w0 w1 w2 w3 : Word) (s : State) :
    s.KeepsQueue (takeMeasurement b w0 w1 w2 w3 s) := by
  unfold takeMeasurement
  dsimp only
  split
  · exact countFailure_keepsQueue b _ s
  · split
    · exact countFailure_keepsQueue b _ s
    · split
      next taken _ => exact (applySeq_keepsQueue taken).trans (takeValues_keepsQueue b _ _ _)
      next => exact countFailure_keepsQueue b _ s

theorem slotStale_keepsQueue (b : Berth) (k : SlotKind) (s : State) : s.KeepsQueue (slotStale b k s) := by
  have marked (f : Meas → Meas) : s.KeepsQueue (setSummary (.measureStale b) (s.updMeas b f)) :=
    (updMeas_keepsQueue b f s).trans (setSummary_keepsQueue _ _)
  cases k with
  | shipPhasor =>
    exact (marked _).trans ((updOsc_keepsQueue b _ _).trans ((updSync_keepsQueue b _ _).trans (evaluate_keepsQueue b _)))
  | shorePhasor => exact (marked _).trans (evaluate_keepsQueue b _)
  | feederPower =>
    have held (u : State) : u.KeepsQueue (holdIfStale b u) := by
      unfold holdIfStale
      split
      · exact updSeq_keepsQueue b _ u
      · exact .refl u
    have gone (u : State) : u.KeepsQueue (feederWentStale b u) := by
      unfold feederWentStale holdTimers
      exact (held u).trans ((refreshDirection_quiet b _).keepsQueue.trans (updSeq_keepsQueue b _ _))
    exact (marked _).trans ((updSession_keepsQueue b _ _).trans (gone _))

/-! ## Modules -/

theorem lockOut_keepsQueue (b : Berth) (c : Word) (m : ModuleId) (s : State) : s.KeepsQueue (lockOut b c m s) :=
  ((leaveBerth_modsOnly .lockedOut m s).trans (updMod_modsOnly m _ _)).keepsQueue.trans
    ((emitEvent_keepsQueue ..).trans (setSummary_keepsQueue _ _))

theorem countedFault_keepsQueue (b : Berth) (c : Word) (m : ModuleId) (s : State) :
    s.KeepsQueue (countedFault b c m s) := by
  unfold countedFault
  dsimp only
  split
  · exact ((updMod_modsOnly m _ s).trans (enterRetryWait_modsOnly b _ _ m _)).keepsQueue
  · split
    · exact ((updMod_modsOnly m _ s).trans (enterRetryWait_modsOnly b _ _ m _)).keepsQueue
    · exact lockOut_keepsQueue b c m s

theorem countFlags_keepsQueue (m : ModuleId) (f : PerFlag Bool) (s : State) : s.KeepsQueue (countFlags m f s) := by
  unfold countFlags
  dsimp only
  split
  · exact updMod_keepsQueue m _ s
  · split
    · exact (updMod_keepsQueue m _ s).trans (countedFault_keepsQueue _ _ m _)
    · exact updMod_keepsQueue m _ s

theorem joinRunning_modsOnly (m : ModuleId) (x : StatusReport) (s : State) : s.ModsOnly (joinRunning m x s) := by
  unfold joinRunning
  split
  · split
    · dsimp only
      split
      · exact (updMod_modsOnly m _ s).trans ((leaveBerth_modsOnly .available m _).trans (updMod_modsOnly m _ _))
      · exact updMod_modsOnly m _ s
    · exact .refl s
  · exact .refl s

theorem tryIfNeeded_keepsQueue (b : Berth) (s : State) : s.KeepsQueue (tryIfNeeded b s) := by
  unfold tryIfNeeded
  split
  · exact (tryPool_quiet s).keepsQueue
  · exact .refl s

theorem tryAfterLockout_keepsQueue (b : Option Berth) (m : ModuleId) (s : State) :
    s.KeepsQueue (tryAfterLockout b m s) := by
  unfold tryAfterLockout
  split
  · exact tryIfNeeded_keepsQueue _ s
  · exact .refl s

theorem reportFor_keepsQueue (b : Option Berth) (old new : State) : new.KeepsQueue (reportFor b old new) := by
  unfold reportFor
  split
  · exact (reportIfChanged_quiet _ _ new).keepsQueue
  · exact .refl new

theorem acceptStatus_keepsQueue (m : ModuleId) (x : StatusReport) (s : State) : s.KeepsQueue (acceptStatus m x s) := by
  unfold acceptStatus
  dsimp only
  have counted : s.KeepsQueue (countFlags m x.flags (joinRunning m x (takeStatus m x s))) :=
    (updMod_keepsQueue m _ s).trans ((joinRunning_modsOnly m x _).keepsQueue.trans (countFlags_keepsQueue m _ _))
  have reported := counted.trans (reportFor_keepsQueue (s.mods.get m).standing.berth? s _)
  split
  · exact reported.trans (tryPool_quiet _).keepsQueue
  · exact reported.trans (tryAfterLockout_keepsQueue _ m _)

theorem statusRecord_keepsQueue (m : ModuleId) (ws : List Word) (s : State) : s.KeepsQueue (statusRecord m ws s) := by
  unfold statusRecord
  dsimp only
  split
  · exact updMod_keepsQueue m _ s
  · split
    · split
      · exact .refl s
      · exact acceptStatus_keepsQueue m _ s
    · exact acceptStatus_keepsQueue m _ s

theorem statusStale_keepsQueue (m : ModuleId) (s : State) : s.KeepsQueue (statusStale m s) := by
  unfold statusStale
  dsimp only
  split
  · exact updMod_keepsQueue m _ s
  · exact (updMod_keepsQueue m _ s).trans ((countedFault_keepsQueue _ _ m _).trans
      ((reportIfChanged_quiet _ _ _).keepsQueue.trans (tryAfterLockout_keepsQueue _ m _)))

theorem retryWaitEnd_keepsQueue (m : ModuleId) (s : State) : s.KeepsQueue (retryWaitEnd m s) := by
  unfold retryWaitEnd
  split
  · split
    · exact (restartModule_modsOnly _ m s).keepsQueue
    · exact (releaseModule_modsOnly m s).keepsQueue.trans (tryPool_quiet _).keepsQueue
  · exact updMod_keepsQueue m _ s

/-! ## Requests -/

theorem deEnergised_keepsQueue (b : Berth) (s : State) : s.KeepsQueue (deEnergised b s) :=
  (releaseModules_modsOnly b s).keepsQueue.trans ((reportIfChanged_quiet b _ _).keepsQueue.trans
    ((tryPoolBut_quiet _ _).keepsQueue.trans ((enterIdle_keepsQueue b _).trans (completeCurrent_keepsQueue b _ _ _))))

theorem claimTimeout_keepsQueue (b : Berth) (s : State) : s.KeepsQueue (claimTimeout b s) :=
  (withClaims_keepsQueue _ s).trans ((enterIdle_keepsQueue b _).trans
    ((completeCurrent_keepsQueue b _ _ _).trans (tryIf_quiet _ _).keepsQueue))

theorem writeResult_keepsQueue (b : Berth) (k : BitVec 8) (t : BitVec 16) (o : ReqOutcome) (c : Option Cause)
    (v : Option (BitVec 16)) (s : State) : s.KeepsQueue (writeResult b k t o c v s) :=
  (updSeq_keepsQueue b _ s).trans (setSummary_keepsQueue _ _)

theorem makeCurrent_keepsQueue (b : Berth) (k : RequestKind) (t : BitVec 16) (s : State) :
    s.KeepsQueue (makeCurrent b k t s) := updSeq_keepsQueue b _ s

theorem energiseWith_keepsQueue (b : Berth) (ms : List ModuleId) (s : State) : s.KeepsQueue (energiseWith b ms s) :=
  (assignAll_modsOnly b ms s).keepsQueue.trans (enterState_keepsQueue b .energising _)

theorem takeConnect_keepsQueue (b : Berth) (t : BitVec 16) (s : State) : s.KeepsQueue (takeConnect b t s) := by
  have refused (o : ReqOutcome) : s.KeepsQueue (refuse b RequestKind.connect.bits t o s) := writeResult_keepsQueue ..
  have with_ (p : ShipProfile) : s.KeepsQueue (connectWith b t p s) := by
    have accepted : s.KeepsQueue (makeCurrent b .connect t (s.updSeq b fun q =>
        { q with profile := some p, firstEnergised := false })) :=
      (updSeq_keepsQueue b _ s).trans (makeCurrent_keepsQueue b _ t _)
    unfold connectWith
    dsimp only
    split
    · exact refused _
    · exact accepted.trans (energiseWith_keepsQueue b _ _)
    · exact accepted.trans ((withClaims_keepsQueue _ _).trans (enterState_keepsQueue b .waitingModules _))
  unfold takeConnect
  dsimp only
  split
  · exact refused _
  · split
    · exact refused _
    · split
      · exact refused _
      · split
        · exact refused _
        · exact with_ _

theorem abortEffect_keepsQueue (b : Berth) (s : State) : s.KeepsQueue (abortEffect b s) := by
  unfold abortEffect
  split
  · exact (withClaims_keepsQueue _ s).trans ((enterIdle_keepsQueue b _).trans (tryIf_quiet _ _).keepsQueue)
  · exact enterState_keepsQueue b .energised s
  · exact enterState_keepsQueue b .energised s
  · exact enterState_keepsQueue b .parallelOut s
  · exact .refl s

theorem takeAccepted_keepsQueue (b : Berth) (t : BitVec 16) (k : RequestKind) (s : State) :
    s.KeepsQueue (takeAccepted b t k s) := by
  cases k with
  | connect => exact takeConnect_keepsQueue b t s
  | sync =>
    exact (makeCurrent_keepsQueue b _ t s).trans ((enterState_keepsQueue b .matching _).trans
      ((updSync_keepsQueue b _ _).trans (evaluate_keepsQueue b _)))
  | gensOff =>
    exact (enterState_keepsQueue b .shoreOnly s).trans ((emitEvent_keepsQueue ..).trans (writeResult_keepsQueue ..))
  | gensOn => exact (makeCurrent_keepsQueue b _ t s).trans (enterState_keepsQueue b .parallelOut _)
  | abort =>
    exact (completeCurrent_keepsQueue b _ _ s).trans ((abortEffect_keepsQueue b _).trans (writeResult_keepsQueue ..))
  | disconnect =>
    unfold takeAccepted takeDisconnect
    dsimp only
    have entered := (makeCurrent_keepsQueue b .disconnect t s).trans (enterState_keepsQueue b .deEnergising _)
    split
    · exact entered.trans (deEnergised_keepsQueue b _)
    · exact entered
  | clear =>
    exact ((makeCurrent_keepsQueue b _ t s).trans (updSeq_keepsQueue b _ _)).trans
      ((enterState_keepsQueue b .energising _).trans
        ((unblockModules_modsOnly b _).keepsQueue.trans (tryIfNeeded_keepsQueue b _)))

theorem takeRequest_keepsQueue (b : Berth) (k : BitVec 8) (t : BitVec 16) (s : State) :
    s.KeepsQueue (takeRequest b k t s) := by
  have refused (o : ReqOutcome) : s.KeepsQueue (refuse b k t o s) := writeResult_keepsQueue ..
  unfold takeRequest
  split
  · exact refused _
  · split
    · exact refused _
    · split
      · exact refused _
      · split
        · exact refused _
        · exact takeAccepted_keepsQueue b t _ s

theorem writeShadow_keepsQueue (b : Berth) (ws : List (Nat × Word)) (s : State) : s.KeepsQueue (writeShadow b ws s) := by
  unfold writeShadow
  induction ws generalizing s with
  | nil => exact .refl s
  | cons x ws ih =>
    refine .trans ?_ (ih _)
    unfold shadowWord
    dsimp only
    split
    · exact updSeq_keepsQueue b _ s
    · exact .refl s

theorem takeBerthWords_keepsQueue (b : Berth) (ws : List (Nat × Word)) (s : State) :
    s.KeepsQueue (takeBerthWords b ws s) := by
  have shadow := writeShadow_keepsQueue b ws s
  unfold takeBerthWords
  dsimp only
  split
  · exact shadow.trans (takeRequest_keepsQueue ..)
  · exact shadow

/-! ## The station page -/

theorem heartbeat_keepsQueue (s : State) : s.KeepsQueue (heartbeat s) := by
  have restored (b : Berth) (u : State) : u.KeepsQueue (supervisorRestored b u) :=
    (updSeq_keepsQueue b _ u).trans (refreshDirection_quiet b _).keepsQueue
  have started : s.KeepsQueue (startHeartbeat s) := keepsQueue_of_eq rfl
  unfold heartbeat
  split
  · exact .refl s
  · exact started
  · exact started
  · exact started.trans ((forBerths_keepsQueue restored _).trans (emitEvent_keepsQueue ..))

theorem heartbeatLost_keepsQueue (s : State) : s.KeepsQueue (heartbeatLost s) := by
  have lost (b : Berth) (u : State) : u.KeepsQueue (supervisorLost b u) := by
    unfold supervisorLost
    split
    · exact (enterState_keepsQueue b .energised u).trans (completeCurrent_keepsQueue b _ _ _)
    · exact (enterState_keepsQueue b .energised u).trans (completeCurrent_keepsQueue b _ _ _)
    · exact (updSeq_keepsQueue b _ u).trans (refreshDirection_quiet b _).keepsQueue
    · exact .refl u
  exact (withPage_keepsQueue _ s).trans ((setSummary_keepsQueue _ _).trans
    ((forBerths_keepsQueue lost _).trans (emitEvent_keepsQueue ..)))

theorem boundary_keepsQueue (s : State) : s.KeepsQueue (boundary s) := by
  have interval (b : Berth) (u : State) : u.KeepsQueue (boundaryInterval b u) := by
    unfold boundaryInterval
    split
    · exact .refl u
    · exact splitInterval_keepsQueue ..
  have metrology (u : State) : u.KeepsQueue (metrologyIntoForce u) := by
    unfold metrologyIntoForce
    split
    · exact .refl u
    · dsimp only
      split
      · exact withClock_keepsQueue _ u
      · exact (withClock_keepsQueue _ u).trans (forBerths_keepsQueue (fun b u => updSession_keepsQueue b _ u) _)
  exact (forBerths_keepsQueue interval s).trans ((metrology _).trans (withClock_keepsQueue _ _))

theorem tick_keepsQueue (s : State) : s.KeepsQueue (tick s) := by
  unfold tick
  dsimp only
  split
  · exact (withClock_keepsQueue _ s).trans (boundary_keepsQueue _)
  · exact withClock_keepsQueue _ s

theorem timeSet_keepsQueue (v : Word) (s : State) : s.KeepsQueue (timeSet v s) := by
  unfold timeSet
  dsimp only
  split
  · exact .refl s
  · exact ((withClock_keepsQueue _ s).trans (forBerths_keepsQueue (splitInterval_keepsQueue _ _ true) _)).trans
      ((withClock_keepsQueue _ _).trans (emitEvent_keepsQueue ..))

theorem serve_keepsQueue (a : ServiceAction) (m : ModuleId) (s : State) : s.KeepsQueue (serve a m s).2 := by
  unfold serve clearLockout
  split <;> dsimp only
  · exact .refl s
  · exact (updMod_keepsQueue m _ s).trans (tryPool_quiet _).keepsQueue
  · exact updMod_keepsQueue m _ s
  · exact (updMod_keepsQueue m _ s).trans (tryPool_quiet _).keepsQueue
  · exact .refl s

theorem serviceWrite_keepsQueue (v : Word) (s : State) : s.KeepsQueue (serviceWrite v s) := by
  have result (i : BitVec 4) (a : BitVec 8) (o : ServiceOutcome) (u : State) : u.KeepsQueue (serviceResult i a o u) :=
    keepsQueue_of_eq rfl
  unfold serviceWrite serviceRequest
  dsimp only
  split
  · split
    · exact result _ _ _ s
    · exact (serve_keepsQueue _ _ s).trans (result _ _ _ _)
  · exact result _ _ _ s

theorem applySection_keepsQueue (x : Section) (s : State) : s.KeepsQueue (applySection x s) := by
  cases x with
  | windows =>
    exact .trans (t := { s with bus := { s.bus with table := s.rawTable.map RawEntry.entry, firstCommit := true } })
      (keepsQueue_of_eq rfl)
      (forBerths_keepsQueue (fun b u => (updMeas_keepsQueue b _ u).trans (updSync_keepsQueue b _ _)) _)
  | berths =>
    refine forBerths_keepsQueue (f := commitBerth) (fun b u => ?_) s
    unfold commitBerth
    split <;> exact keepsQueue_of_eq rfl
  | pool =>
    show s.KeepsQueue (commitPool s)
    unfold commitPool
    exact (forModules_modsOnly (fun m s => updMod_modsOnly m _ s) s).keepsQueue.trans (tryPool_quiet _).keepsQueue
  | metrology =>
    exact .trans ⟨admitConfig_queueOk (by rfl) s⟩ ((withClock_keepsQueue _ _).trans (withPage_keepsQueue _ _))
  | journal => exact keepsQueue_of_eq rfl
  | protection => exact keepsQueue_of_eq rfl
  | attention => exact keepsQueue_of_eq rfl

theorem namedApplied_keepsQueue (mask : Word) (s : State) : s.KeepsQueue (namedApplied mask s) := by
  unfold namedApplied
  generalize Section.list = l
  induction l generalizing s with
  | nil => exact .refl s
  | cons x l ih =>
    refine .trans ?_ (ih _)
    dsimp only
    split
    · exact applySection_keepsQueue x s
    · exact .refl s

theorem commit_keepsQueue (mask : Word) (s : State) : s.KeepsQueue (commit mask s) := by
  have rewound (old new : State) : new.KeepsQueue (rewindRing old new) := by
    unfold rewindRing
    split <;> exact keepsQueue_of_eq rfl
  have recorded (r : CommitOutcome × Offence) (u : State) : u.KeepsQueue (recordCommit mask r u) := keepsQueue_of_eq rfl
  have applied : s.KeepsQueue (applySections mask s) :=
    (namedApplied_keepsQueue mask s).trans ((rewound s _).trans (withPage_keepsQueue _ _))
  unfold commit
  dsimp only
  refine .trans ?_ (recorded _ _)
  split
  · exact applied
  · exact .refl s

theorem takeStationWord_keepsQueue (n : Nat) (v : Word) (s : State) : s.KeepsQueue (takeStationWord n v s) := by
  have same {t : State} (h : t.jour.queue = s.jour.queue) : s.KeepsQueue t := keepsQueue_of_eq h
  unfold takeStationWord
  split
  · exact same rfl
  · split
    · exact heartbeat_keepsQueue s
    · unfold acknowledge readyCleared
      dsimp only
      split
      · split <;> exact same rfl
      · exact same rfl
    · unfold unlockWrite
      split
      · split <;> exact same rfl
      · split <;> exact same rfl
      · exact same rfl
    · unfold journalCommand journalStart journalStop
      split
      · split <;> exact same rfl
      · split <;> exact same rfl
      · exact same rfl
      · exact same rfl
    · unfold consumeWrite
      split <;> exact same rfl
    · exact same rfl
    · exact timeSet_keepsQueue v s
    · exact serviceWrite_keepsQueue v s
    · exact same rfl
    · exact commit_keepsQueue v s
    · exact same rfl

/-! ## Writing, resets and the rule -/

theorem grant_queue (s : State) : (grant s).jour.queue = s.jour.queue := by rw [grant_busOnly s]

theorem QueueFits.tail {r : Record} {q : List Record} (h : QueueFits (r :: q)) : QueueFits q := by
  have tail : q.Sublist (r :: q) := List.sublist_cons_self r q
  obtain ⟨hb, hm, he, all⟩ := h
  rw [List.all_cons, Bool.and_eq_true] at all
  exact ⟨fun b => Nat.le_trans tail.countP_le (hb b), Nat.le_trans tail.countP_le hm,
    Nat.le_trans tail.countP_le he, all.2⟩

theorem claimCarried_keepsQueue (s : State) : s.KeepsQueue (claimCarried s) := by
  have judged (r : Record) (u : State) : (judgeReady r u).jour.queue = u.jour.queue := by
    unfold judgeReady
    dsimp only
    split <;> split <;> rfl
  unfold claimCarried
  split
  · exact .refl s
  · split
    · exact keepsQueue_of_eq rfl
    · unfold completeWrite
      split
      · exact keepsQueue_of_eq rfl
      next r rest queue =>
        refine .trans ⟨fun ok => ?_⟩ (keepsQueue_of_eq (judged _ _))
        rw [State.queueOk_iff, queue] at ok
        exact QueueFits.tail ok

theorem startWrite_keepsQueue (s : State) : s.KeepsQueue (startWrite s) := by
  unfold startWrite
  split
  · exact .refl s
  · exact keepsQueue_of_eq (grant_queue _)

theorem faceDone_keepsQueue (s : State) : s.KeepsQueue (faceDone s) := by
  unfold faceDone
  split
  · refine .trans ?_ (keepsQueue_of_eq (grant_queue _))
    unfold carried
    split <;> exact keepsQueue_of_eq rfl
  · exact .refl s

theorem claimDone_keepsQueue (s : State) : s.KeepsQueue (claimDone s) := by
  unfold claimDone
  split
  next addr ws live _ =>
    refine .trans (.trans (t := freeFace { s with bus := { s.bus with mem := memWriteBurst s.bus.mem (addr / 4) ws } })
      (keepsQueue_of_eq rfl) ?_) (keepsQueue_of_eq (grant_queue _))
    split
    · exact claimCarried_keepsQueue _
    · exact .refl _
  next => exact .refl s

theorem tripIfClosed_keepsQueue (b : Berth) (s : State) : s.KeepsQueue (tripIfClosed b s) := by
  unfold tripIfClosed
  split
  · exact uncommandedClose_keepsQueue b s
  · exact .refl s

theorem powerOnReset_keepsQueue (c0 c1 c2 : Bool) (s : State) : s.KeepsQueue (powerOnReset c0 c1 c2 s) := by
  have empty : (powerOn c0 c1 c2 s).QueueOk :=
    ⟨fun _ => Nat.zero_le 3, Nat.zero_le 1, Nat.zero_le 6, rfl⟩
  exact .trans ⟨fun _ => empty⟩ (forBerths_keepsQueue tripIfClosed_keepsQueue _)

theorem lineReset_keepsQueue (s : State) : s.KeepsQueue (lineReset s) := by
  have interrupted (b : Berth) (u : State) : u.KeepsQueue (interruptShoreOnly b u) := by
    unfold interruptShoreOnly
    split
    · exact updSession_keepsQueue b _ u
    · exact .refl u
  exact (forBerths_keepsQueue interrupted s).trans (keepsQueue_of_eq rfl)

theorem releaseReset_keepsQueue (s : State) : s.KeepsQueue (releaseReset s) := by
  have closed (u : State) : u.KeepsQueue (closeAllCarried u) := by
    unfold closeAllCarried
    split
    · exact .refl u
    next t _ =>
      have carried : (forBerths (closeCarried t) u).KeepsQueue
          (setSummary .resetRecovered { forBerths (closeCarried t) u with carried := none }) := keepsQueue_of_eq rfl
      exact ((forBerths_keepsQueue (fun b u => closeSession_keepsQueue b 2 t u) u).trans carried).trans
        (emitEvent_keepsQueue ..)
  have entries := forBerths_keepsQueue (fun b (u : State) => updSeq_keepsQueue b (fun q => { q with entry := u.now }) u) s
  have high (u : State) : u.KeepsQueue { u with resetLow := false, tripHold := .running Config.tripHoldUs } :=
    keepsQueue_of_eq rfl
  exact (entries.trans (high _)).trans (closed _)

theorem advance_queue (s : State) : (advance s).jour.queue = s.jour.queue := by
  have count : (advanceCount s).jour.queue = s.jour.queue := by
    unfold advanceCount
    dsimp only
    split <;> rfl
  exact count

theorem timedEffect_keepsQueue (c : Instr) (s : State) : s.KeepsQueue (timedEffect c s) := by
  unfold timedEffect
  split
  case h_1 =>
    exact .trans (t := forBerths startDeadTime { s with tripHold := .stopped }) (keepsQueue_of_eq rfl)
      (forBerths_keepsQueue tripIfClosed_keepsQueue _)
  case h_2 m => exact statusStale_keepsQueue m s
  case h_3 m => exact retryWaitEnd_keepsQueue m s
  case h_6 b => exact claimTimeout_keepsQueue b s
  case h_7 b k => exact slotStale_keepsQueue b k s
  case h_9 b => exact (updOsc_keepsQueue b _ s).trans (evaluate_keepsQueue b _)
  case h_11 b => exact (updSeq_keepsQueue b _ s).trans (checkEnergising_keepsQueue b _)
  case h_12 b => exact (updSeq_keepsQueue b _ s).trans (enterTripped_keepsQueue b _ _)
  case h_13 b => exact (updSeq_keepsQueue b _ s).trans (deEnergised_keepsQueue b _)
  case h_14 b => exact (recomputeShares_quiet b s).keepsQueue
  case h_15 b =>
    exact (updSeq_keepsQueue b _ s).trans ((blankBerth_driveOnly b _).rest.keepsQueue.trans
      (recomputeShares_quiet b _).keepsQueue)
  case h_16 b => exact (enterState_keepsQueue b .energised s).trans (completeCurrent_keepsQueue b _ _ _)
  case h_17 b => exact (controlledOpen_quiet b _ s).keepsQueue
  case h_18 b => exact overloadExpired_keepsQueue b s
  case h_19 b => exact (controlledOpen_quiet b _ s).keepsQueue
  case h_20 b => exact closeDue_keepsQueue b s
  case h_23 b =>
    exact (updSync_keepsQueue b _ s).trans ((enterState_keepsQueue b .energised _).trans
      (completeCurrent_keepsQueue b _ _ _))
  case h_24 b => exact openFailed_keepsQueue b s
  case h_26 => exact tick_keepsQueue s
  case h_28 => exact heartbeatLost_keepsQueue s
  case h_30 => exact startWrite_keepsQueue s
  all_goals exact keepsQueue_of_eq rfl

theorem keepsQueue_rule : StepRule State.KeepsQueue where
  refl := .refl
  trans := .trans
  pending _ _ := keepsQueue_of_eq rfl
  advance s := keepsQueue_of_eq (advance_queue s)
  powerOn := powerOnReset_keepsQueue
  lineReset s _ := lineReset_keepsQueue s
  release s _ := releaseReset_keepsQueue s
  viewHeld b _ s _ := updSync_keepsQueue b _ s
  rise b s _ _ := (updSync_keepsQueue b _ s).trans (breakerRise_keepsQueue b _)
  fall b s _ _ := (updSync_keepsQueue b _ s).trans (breakerFall_keepsQueue b _)
  timed c s _ := timedEffect_keepsQueue c s
  faceDone := faceDone_keepsQueue
  claimDone := claimDone_keepsQueue
  passOn _ _ _ _ := keepsQueue_of_eq (grant_queue _)
  respond _ _ _ := keepsQueue_of_eq rfl
  refuse _ _ _ := keepsQueue_of_eq rfl
  clearRefused _ _ := keepsQueue_of_eq rfl
  measurement := takeMeasurement_keepsQueue
  status := statusRecord_keepsQueue
  berthWords := takeBerthWords_keepsQueue
  stationWord := takeStationWord_keepsQueue

/-- Settles O59: each invariant is kept over every treatment that a step can be made of. -/
theorem stepsKeepBusAndJournal : Obligations.StepsKeepBusAndJournal := by
  intro s t h
  exact ⟨memOk_rule.stepRule.step h, passOk_rule.stepRule.step h, arbiterOk_rule.stepRule.step h,
    tableOk_rule.stepRule.step h, (keepsQueue_rule.step h).keeps, ringOk_rule.stepRule.step h⟩

end Sys2Proof.Machine
end

section
/-! Proofs: the oscillators' modes (R43, R46, R50 to R54), and what the other invariants of the berths read. -/

namespace Sys2Proof.Machine

/-! ## Oscillators in order (R43) -/

namespace Osc

theorem Ok.stopped : Osc.stopped.Ok := by
  refine ⟨by decide, ?_, by decide, by decide⟩
  exact iff_of_false Bool.false_ne_true (by decide)

/-- An oscillator whose modes are those of one in order is in order. -/
theorem Ok.congr {o p : Osc} (h : o.Ok) (requested : p.requested = o.requested) (effective : p.effective = o.effective)
    (before : p.beforeHold = o.beforeHold) (lock : p.lock = o.lock) : p.Ok := by
  unfold Osc.Ok
  rw [requested, effective, before, lock]
  exact h

theorem Ok.start (n : Nat) : (Osc.start n).Ok := Ok.stopped.congr rfl rfl rfl rfl

theorem Ok.retarget {o : Osc} (e : OscEnv) (h : o.Ok) : (o.retarget e).Ok := h.congr rfl rfl rfl rfl

theorem Ok.settle {o : Osc} (fresh : Bool) (h : o.Ok) : (o.settle fresh).Ok := by
  unfold Osc.settle
  split
  · exact ⟨h.1, iff_of_false Bool.false_ne_true h.1, nofun, nofun⟩
  · exact h

theorem Ok.settleLock {o : Osc} (d : Int) (h : o.Ok) : (o.settleLock d).Ok := by
  unfold Osc.settleLock
  split
  next locks =>
    obtain ⟨requested, held, before, -⟩ := h
    refine ⟨requested, iff_of_false (fun some => locks.2.2.1 (held.mp some)) ?_, before, fun _ => rfl⟩
    exact (nomatch · : OscMode.trackLock ≠ .hold)
  next => exact h

theorem Ok.judgeLock {o : Osc} (d : Int) (h : o.Ok) : (o.judgeLock d).Ok := by
  unfold Osc.judgeLock
  split
  next tracks =>
    obtain ⟨requested, held, before, -⟩ := h
    exact ⟨requested, held, before, fun _ => tracks⟩
  next => exact h

/-- R53: a HOLD ends in the mode before it, which is not HOLD, with the lock flag clear. -/
theorem Ok.endHold {o : Osc} (fresh : Bool) (h : o.Ok) : (o.endHold fresh).Ok := by
  unfold Osc.endHold
  split
  next holds =>
    split
    next m before =>
      obtain ⟨requested, -, notHold, lock⟩ := h
      have unlocked : o.lock ≠ true := fun set => nomatch (lock set).symm.trans holds.1
      refine ⟨requested, iff_of_false Bool.false_ne_true ?_, nofun, fun set => absurd set unlocked⟩
      exact fun hold => notHold (before.trans (congrArg some hold))
    next => exact h
  next => exact h

theorem Ok.request {o : Osc} (e : OscEnv) {m : OscMode} (notHold : m ≠ .hold) (h : o.Ok) : (o.request e m).Ok := by
  have asked : ({ o with requested := m }).Ok := by
    obtain ⟨-, held, before, lock⟩ := h
    exact ⟨notHold, held, before, lock⟩
  have measured (d : Int) : ({ ({ o with requested := m }).endHold e.ship.isSome with lastError := some d }).Ok :=
    (asked.endHold _).congr rfl rfl rfl rfl
  unfold Osc.request
  split
  · exact h
  · dsimp only
    split
    · exact ((measured _).retarget e).settleLock _
    · exact ((asked.endHold _).retarget e).settle _

theorem Ok.takePhasor {o : Osc} (e : OscEnv) (p : Phasor) (h : o.Ok) : (o.takePhasor e p).Ok := by
  have measured (d : Int) : ({ o with lastError := some d }).Ok := h.congr rfl rfl rfl rfl
  unfold Osc.takePhasor
  split
  · exact h
  · exact (((((measured _).endHold true).retarget e).settle true).settleLock _).judgeLock _

theorem Ok.goStale {o : Osc} (e : OscEnv) (h : o.Ok) : (o.goStale e).Ok := by
  unfold Osc.goStale
  split
  · exact h
  · split
    next tracks =>
      refine Ok.retarget e ⟨h.1, iff_of_true rfl rfl, ?_, nofun⟩
      intro hold
      rw [Option.some.inj hold] at tracks
      cases tracks
    next => exact h.retarget e

theorem Ok.tick {o : Osc} (slew : Nat) (h : o.Ok) : (o.tick slew).Ok := by
  unfold Osc.tick
  split
  · exact h.congr rfl rfl rfl rfl
  · exact h

end Osc

theorem modeRequest_ne_hold {st : BerthState} {m : OscMode} (h : modeRequest st = some m) : m ≠ .hold := by
  cases st <;> cases h <;> decide

theorem enteredOsc_ok (b : Berth) (new : BerthState) {s : State} (h : (s.osc.get b).Ok) : (enteredOsc b new s).Ok := by
  unfold enteredOsc
  split
  · split
    · exact .stopped
    · exact h
  next m asks =>
    split
    · exact .start _
    · exact h.request _ (modeRequest_ne_hold asks)

/-! ## The part of the state that the invariants of the berths read -/

/-- The reset line and the trip hold, and all that belongs to modules and berths but measurements, parameters and
sessions. -/
structure Drive where
  resetLow : Bool
  tripHold : Timer
  mods : PerModule Module
  claims : List Claim
  osc : PerBerth Osc
  sync : PerBerth Sync
  seq : PerBerth Seq

/-- The drive of a state. -/
def State.drive (s : State) : Drive :=
  { resetLow := s.resetLow, tripHold := s.tripHold, mods := s.mods, claims := s.claims, osc := s.osc, sync := s.sync
    seq := s.seq }

theorem forBerths_drive {f : Berth → State → State} (h : ∀ b s, (f b s).drive = s.drive) (s : State) :
    (forBerths f s).drive = s.drive := ((h .b2 _).trans (h .b1 _)).trans (h .b0 s)

theorem State.BusOnly.drive {s t : State} (h : s.BusOnly t) : t.drive = s.drive := by
  unfold State.BusOnly at h
  rw [h]
  rfl

theorem emitEvent_drive (c : EventCode) (q : Nat) (o : Option Berth) (ws : List Word) (s : State) :
    (emitEvent c q o ws s).drive = s.drive := by
  obtain ⟨_, _, _, e⟩ := emitEvent_rest c q o ws s
  rw [e]
  rfl

theorem admitBilling_drive (b : Berth) (r : Record) (s : State) : (admitBilling b r s).drive = s.drive := by
  unfold admitBilling; split <;> rfl

theorem admitInterval_drive (b : Berth) (r : Record) (i : IntervalBody) (s : State) :
    (admitInterval b r i s).drive = s.drive := by
  unfold admitInterval
  split
  · rfl
  · exact admitBilling_drive b r s

theorem admitConfig_drive (r : Record) (s : State) : (admitConfig r s).drive = s.drive := by
  unfold admitConfig; split <;> rfl

theorem splitInterval_drive (x y : StationTime) (k : Bool) (b : Berth) (s : State) :
    (splitInterval x y k b s).drive = s.drive := by
  unfold splitInterval
  split
  · rfl
  · exact admitInterval_drive _ _ _ _

theorem closeSession_drive (b : Berth) (k : Nat) (t : StationTime) (s : State) :
    (closeSession b k t s).drive = s.drive := by
  unfold closeSession
  split
  · rfl
  next x _ =>
    let r := closeInterval s.clock.inForce.intervalMin t true false x
    exact (admitBilling_drive b _ (admitInterval b _ r.1 s)).trans (admitInterval_drive b _ r.1 s)

theorem openSession_drive (b : Berth) (p : ShipProfile) (s : State) : (openSession b p s).drive = s.drive :=
  admitBilling_drive b _ _

theorem paramsIntoForce_drive (b : Berth) (s : State) : (paramsIntoForce b s).drive = s.drive := by
  unfold paramsIntoForce; split <;> rfl

theorem metrologyIntoForce_drive (s : State) : (metrologyIntoForce s).drive = s.drive := by
  unfold metrologyIntoForce
  split
  · rfl
  · dsimp only
    split
    · rfl
    · exact forBerths_drive (f := markMetrology) (fun _ _ => rfl) _

theorem boundaryInterval_drive (b : Berth) (s : State) : (boundaryInterval b s).drive = s.drive := by
  unfold boundaryInterval
  split
  · rfl
  · exact splitInterval_drive ..

theorem boundary_drive (s : State) : (boundary s).drive = s.drive :=
  (metrologyIntoForce_drive _).trans (forBerths_drive boundaryInterval_drive s)

theorem tick_drive (s : State) : (tick s).drive = s.drive := by
  unfold tick
  dsimp only
  split
  · exact boundary_drive _
  · rfl

theorem timeSet_drive (v : Word) (s : State) : (timeSet v s).drive = s.drive := by
  unfold timeSet
  dsimp only
  split
  · rfl
  · exact (emitEvent_drive ..).trans (forBerths_drive (splitInterval_drive _ _ true) _)

theorem closeAllCarried_drive (s : State) : (closeAllCarried s).drive = s.drive := by
  unfold closeAllCarried
  split
  · rfl
  next t _ => exact (emitEvent_drive ..).trans (forBerths_drive (fun b => closeSession_drive b 2 t) s)

/-- R70, R71, R134: a reading reaches the session alone. -/
theorem compareReading_drive (b : Berth) (x : RegisterBase) (f : Feeder) (s : State) :
    (compareReading b x f s).drive = s.drive := by
  unfold compareReading
  split
  · rfl
  · exact emitEvent_drive ..

theorem takeReading_drive (b : Berth) (f : Feeder) (s : State) : (takeReading b f s).drive = s.drive := by
  unfold takeReading
  dsimp only
  split
  · rfl
  next base _ => exact (compareReading_drive b base f s : (compareReading b base f s).drive = s.drive)

theorem applySeq_drive {b : Berth} {q : BitVec 8} {s t : State} (h : applySeq b q s = some t) : t.drive = s.drive := by
  unfold applySeq at h
  split at h
  · rw [← Option.some.inj h]; rfl
  · rw [← Option.some.inj h]; rfl
  · rw [← Option.some.inj h]; rfl
  · cases h

theorem startWrite_drive (s : State) : (startWrite s).drive = s.drive := by
  unfold startWrite
  split
  · rfl
  · exact (grant_busOnly _).drive

end Sys2Proof.Machine
end

section
/-! Proofs: relations between the states before and after an operation that keep the invariants of the berths. -/

namespace Sys2Proof.Machine

/-! ## The relations -/

/-- Five invariants of the berths are kept: lines, oscillators, commanded modes, retry waits and setpoints. -/
structure State.KeepsDrive (s t : State) : Prop where
  lines : s.LinesOk → t.LinesOk
  osc : s.OscOk → t.OscOk
  modes : s.ModesOk → t.ModesOk
  retry : s.RetryOk → t.RetryOk
  setpoints : s.RetryOk → s.SetpointsOk → t.SetpointsOk

/-- These five are kept, and no module comes to a berth that has none. -/
structure State.Steady (s t : State) : Prop extends State.KeepsDrive s t where
  idle : s.IdleOk → t.IdleOk

/-- The claims of the queue are of the same berths, and the same berths wait for modules. -/
structure State.SameQueue (s t : State) : Prop where
  claims : t.claims.map Claim.berth = s.claims.map Claim.berth
  waits : ∀ b, (t.seq.get b).state = .waitingModules ↔ (s.seq.get b).state = .waitingModules

/-- The five invariants, idle berths and the claim queue are all as they were. -/
structure State.Calm (s t : State) : Prop extends State.Steady s t, State.SameQueue s t

/-- All seven invariants of the berths are kept. -/
structure State.KeepsBerths (s t : State) : Prop extends State.KeepsDrive s t where
  claims : s.ClaimsOk → t.ClaimsOk
  idle : s.ClaimsOk → s.IdleOk → t.IdleOk

theorem State.KeepsDrive.refl (s : State) : s.KeepsDrive s := ⟨id, id, id, id, fun _ => id⟩

theorem State.KeepsDrive.trans {s t u : State} (h : s.KeepsDrive t) (k : t.KeepsDrive u) : s.KeepsDrive u where
  lines := k.lines ∘ h.lines
  osc := k.osc ∘ h.osc
  modes := k.modes ∘ h.modes
  retry := k.retry ∘ h.retry
  setpoints waits bounds := k.setpoints (h.retry waits) (h.setpoints waits bounds)

theorem State.Steady.refl (s : State) : s.Steady s := ⟨.refl s, id⟩

theorem State.Steady.trans {s t u : State} (h : s.Steady t) (k : t.Steady u) : s.Steady u :=
  ⟨h.toKeepsDrive.trans k.toKeepsDrive, k.idle ∘ h.idle⟩

theorem State.SameQueue.refl (s : State) : s.SameQueue s := ⟨rfl, fun _ => .rfl⟩

theorem State.SameQueue.trans {s t u : State} (h : s.SameQueue t) (k : t.SameQueue u) : s.SameQueue u :=
  ⟨k.claims.trans h.claims, fun b => (k.waits b).trans (h.waits b)⟩

theorem State.Calm.refl (s : State) : s.Calm s := ⟨.refl s, .refl s⟩

theorem State.Calm.trans {s t u : State} (h : s.Calm t) (k : t.Calm u) : s.Calm u :=
  ⟨h.toSteady.trans k.toSteady, h.toSameQueue.trans k.toSameQueue⟩

theorem State.KeepsBerths.trans {s t u : State} (h : s.KeepsBerths t) (k : t.KeepsBerths u) : s.KeepsBerths u where
  toKeepsDrive := h.toKeepsDrive.trans k.toKeepsDrive
  claims := k.claims ∘ h.claims
  idle claims idle := k.idle (h.claims claims) (h.idle claims idle)

theorem countP_berth (l : List Claim) (b : Berth) :
    (l.countP fun c => c.berth == b) = (l.map Claim.berth).countP (· == b) := by
  rw [List.countP_map]
  rfl

/-- R9: claims of the same berths and the same berths waiting. -/
theorem State.SameQueue.claimsOk {s t : State} (h : s.SameQueue t) (ok : s.ClaimsOk) : t.ClaimsOk := by
  intro b
  have before := ok b
  rw [countP_berth] at before ⊢
  rw [h.claims, before]
  exact if_congr (h.waits b).symm rfl rfl

theorem State.Steady.keeps {s t : State} (h : s.Steady t) (claims : s.ClaimsOk → t.ClaimsOk) : s.KeepsBerths t :=
  ⟨h.toKeepsDrive, claims, fun _ => h.idle⟩

theorem State.Calm.keeps {s t : State} (h : s.Calm t) : s.KeepsBerths t := h.toSteady.keeps h.claimsOk

theorem forBerths_steady {f : Berth → State → State} (h : ∀ b (s : State), s.Steady (f b s)) (s : State) :
    s.Steady (forBerths f s) := ((h .b0 s).trans (h .b1 _)).trans (h .b2 _)

theorem forBerths_calm {f : Berth → State → State} (h : ∀ b (s : State), s.Calm (f b s)) (s : State) :
    s.Calm (forBerths f s) := ((h .b0 s).trans (h .b1 _)).trans (h .b2 _)

theorem forBerths_keeps {f : Berth → State → State} (h : ∀ b (s : State), s.KeepsBerths (f b s)) (s : State) :
    s.KeepsBerths (forBerths f s) := ((h .b0 s).trans (h .b1 _)).trans (h .b2 _)

/-! ## One setpoint, and the setpoints of berths whose capacity is the same -/

/-- R107, R98: the setpoint of one context within a bound, in kW. -/
structure Seq.Bounded (n : Nat) (q : Seq) : Prop where
  within : q.setpoint ≤ n * Config.powerUnit
  zero : q.state.hasSetpoint = false → q.setpoint = 0
  target : q.state = .parallelIn → q.target ≤ n
  rising : q.dir = .rising → q.state = .parallelIn

theorem State.setpointOk_iff (s : State) (b : Berth) : s.SetpointOk b ↔ (s.seq.get b).Bounded (s.bound b) :=
  ⟨fun ⟨within, zero, target, rising⟩ => ⟨within, zero, target, rising⟩,
    fun ⟨within, zero, target, rising⟩ => ⟨within, zero, target, rising⟩⟩

/-- A context that carries no setpoint is within every bound. -/
theorem Seq.Bounded.of_none {n k : Nat} {q : Seq} (h : q.Bounded n) (no : q.state.hasSetpoint = false) :
    q.Bounded k where
  within := by rw [h.zero no]; exact Nat.zero_le _
  zero := h.zero
  target := fun parallel => nomatch (parallel ▸ no : BerthState.parallelIn.hasSetpoint = false)
  rising := h.rising

/-! ## What leaves the berths on their course -/

/-- What the invariants read of a module is as it was. -/
structure Module.SameCourse (r x : Module) : Prop where
  standing : x.standing = r.standing
  mode : x.mode = r.mode
  retryWait : x.retryWait = r.retryWait
  rating : x.rating = r.rating
  latest : x.latest = r.latest

/-- What the invariants read of a context is as it was, and the ramp does not rise anew but in PARALLEL_IN. -/
structure Seq.SameCourse (q x : Seq) : Prop where
  state : x.state = q.state
  profile : x.profile = q.profile
  setpoint : x.setpoint = q.setpoint
  target : x.target = q.target
  rising : x.dir = .rising → q.dir = .rising ∨ q.state = .parallelIn

/-- No line of a breaker rises, no oscillator gets out of order, and claims, modules and contexts are as they were in what
the invariants read. -/
structure State.SameCourse (s t : State) : Prop where
  closes : ∀ b, t.closeLine b = true → s.closeLine b = true
  trips : ∀ b, t.tripLine b = true → s.tripLine b = true
  claims : t.claims.map Claim.berth = s.claims.map Claim.berth
  osc : ∀ b, (s.osc.get b).Ok → (t.osc.get b).Ok
  mods : ∀ m, (s.mods.get m).SameCourse (t.mods.get m)
  seq : ∀ b, (s.seq.get b).SameCourse (t.seq.get b)

theorem Module.SameCourse.refl (r : Module) : r.SameCourse r := ⟨rfl, rfl, rfl, rfl, rfl⟩

theorem Seq.SameCourse.refl (q : Seq) : q.SameCourse q := ⟨rfl, rfl, rfl, rfl, .inl⟩

theorem Module.SameCourse.healthyFor {r x : Module} (h : r.SameCourse x) (b : Berth) :
    x.healthyFor b = r.healthyFor b := by
  unfold Module.healthyFor
  rw [h.standing, h.latest]

theorem Module.SameCourse.serves {r x : Module} (h : r.SameCourse x) (b : Berth) : x.serves b = r.serves b := by
  unfold Module.serves
  rw [h.standing]

theorem Seq.SameCourse.bounded {q x : Seq} (h : q.SameCourse x) {n : Nat} (ok : q.Bounded n) : x.Bounded n where
  within := by rw [h.setpoint]; exact ok.within
  zero := by rw [h.state, h.setpoint]; exact ok.zero
  target := by rw [h.state, h.target]; exact ok.target
  rising rises := by rw [h.state]; exact (h.rising rises).elim ok.rising id

theorem State.demand_congr {s t : State} {b : Berth} (h : (t.seq.get b).profile = (s.seq.get b).profile) :
    t.demand b = s.demand b := by
  unfold State.demand
  rw [h]

theorem State.SameCourse.healthy {s t : State} (h : s.SameCourse t) (b : Berth) : t.healthy b = s.healthy b :=
  sumRatings_congr fun m => ⟨(h.mods m).healthyFor b, (h.mods m).rating⟩

theorem State.SameCourse.bound {s t : State} (h : s.SameCourse t) (b : Berth) : t.bound b = s.bound b := by
  unfold State.bound
  rw [h.healthy, State.demand_congr (h.seq b).profile]

theorem State.SameCourse.calm {s t : State} (h : s.SameCourse t) : s.Calm t where
  lines ok b := fun ⟨closes, trips⟩ => ok b ⟨h.closes b closes, h.trips b trips⟩
  osc ok b := h.osc b (ok b)
  modes ok m := by
    rw [(h.mods m).mode, (h.mods m).standing, commandedMode_congr fun b => (h.seq b).state]
    exact ok m
  retry ok m := by
    rw [(h.mods m).retryWait, (h.mods m).standing]
    exact ok m
  setpoints _ ok b := by
    rw [State.setpointOk_iff, h.bound]
    exact (h.seq b).bounded ((s.setpointOk_iff b).mp (ok b))
  idle ok b idles m := by
    rw [(h.seq b).state] at idles
    rw [(h.mods m).serves]
    exact ok b idles m
  claims := h.claims
  waits b := by rw [(h.seq b).state]

theorem sameCourse_of_drive {s t : State} (h : t.drive = s.drive) : s.SameCourse t := by
  have low : t.resetLow = s.resetLow := congrArg Drive.resetLow h
  have hold : t.tripHold = s.tripHold := congrArg Drive.tripHold h
  have mods : t.mods = s.mods := congrArg Drive.mods h
  have claims : t.claims = s.claims := congrArg Drive.claims h
  have osc : t.osc = s.osc := congrArg Drive.osc h
  have sync : t.sync = s.sync := congrArg Drive.sync h
  have seq : t.seq = s.seq := congrArg Drive.seq h
  constructor
  · intro b; unfold State.closeLine; rw [sync]; exact id
  · intro b; unfold State.tripLine State.inHold; rw [sync, low, hold]; exact id
  · rw [claims]
  · intro b; rw [osc]; exact id
  · intro m; rw [mods]; exact .refl _
  · intro b; rw [seq]; exact .refl _

theorem calm_of_drive {s t : State} (h : t.drive = s.drive) : s.Calm t := (sameCourse_of_drive h).calm

/-! ## Updates of one record -/

theorem PerBerth.get_set_of {α : Type} {p : PerBerth α} {b : Berth} {v : α} {P : Berth → α → Prop} (at_ : P b v)
    (else_ : ∀ c, P c (p.get c)) (c : Berth) : P c ((p.set b v).get c) := by
  by_cases same : c = b
  · rw [same, PerBerth.get_set_self]; exact at_
  · rw [PerBerth.get_set_ne _ _ _ _ same]; exact else_ c

theorem PerModule.get_set_of {α : Type} {p : PerModule α} {m : ModuleId} {v : α} {P : ModuleId → α → Prop} (at_ : P m v)
    (else_ : ∀ k, P k (p.get k)) (k : ModuleId) : P k ((p.set m v).get k) := by
  by_cases same : k = m
  · rw [same, PerModule.get_set_self]; exact at_
  · rw [PerModule.get_set_ne _ _ _ _ same]; exact else_ k

theorem updSeq_course (b : Berth) (f : Seq → Seq) (s : State) (h : (s.seq.get b).SameCourse (f (s.seq.get b))) :
    s.SameCourse (s.updSeq b f) where
  closes _ := id
  trips _ := id
  claims := rfl
  osc _ := id
  mods _ := .refl _
  seq := PerBerth.get_set_of (P := fun c q => (s.seq.get c).SameCourse q) h fun _ => .refl _

theorem updMod_course (m : ModuleId) (f : Module → Module) (s : State)
    (h : (s.mods.get m).SameCourse (f (s.mods.get m))) : s.SameCourse (s.updMod m f) where
  closes _ := id
  trips _ := id
  claims := rfl
  osc _ := id
  mods := PerModule.get_set_of (P := fun k r => (s.mods.get k).SameCourse r) h fun _ => .refl _
  seq _ := .refl _

theorem updOsc_course (b : Berth) (f : Osc → Osc) (s : State) (h : (s.osc.get b).Ok → (f (s.osc.get b)).Ok) :
    s.SameCourse (s.updOsc b f) where
  closes _ := id
  trips _ := id
  claims := rfl
  osc := PerBerth.get_set_of (P := fun c (o : Osc) => (s.osc.get c).Ok → o.Ok) h fun _ => id
  mods _ := .refl _
  seq _ := .refl _

theorem updSync_course (b : Berth) (f : Sync → Sync) (s : State)
    (closes : (f (s.sync.get b)).closePulse.isRunning = true → (s.sync.get b).closePulse.isRunning = true)
    (trips : (f (s.sync.get b)).tripPulse.isRunning = true → (s.sync.get b).tripPulse.isRunning = true) :
    s.SameCourse (s.updSync b f) where
  closes := PerBerth.get_set_of
    (P := fun c (u : Sync) => u.closePulse.isRunning = true → (s.sync.get c).closePulse.isRunning = true) closes fun _ => id
  trips c := by
    unfold State.tripLine
    rw [Bool.or_eq_true, Bool.or_eq_true]
    exact Or.imp_left (PerBerth.get_set_of
      (P := fun c (u : Sync) => u.tripPulse.isRunning = true → (s.sync.get c).tripPulse.isRunning = true) trips (fun _ => id) c)
  claims := rfl
  osc _ := id
  mods _ := .refl _
  seq _ := .refl _

theorem Module.SameButDrive.retryWait {r x : Module} (h : r.SameButDrive x) : x.retryWait = r.retryWait := by
  unfold Module.SameButDrive at h
  rw [h]

theorem Module.SameButDrive.course {r x : Module} (h : r.SameButDrive x) (mode : x.mode = r.mode) : r.SameCourse x where
  standing := h.standing
  mode := mode
  retryWait := h.retryWait
  rating := h.rating
  latest := by unfold Module.SameButDrive at h; rw [h]

/-- New shares and blanking expiries, and a context on its course. -/
theorem course_of_driven {b : Berth} {s t : State} {ms : PerModule Module} {q : Seq} (driven : Driven b s.mods ms)
    (e : t = { s with mods := ms, seq := s.seq.set b q }) (modes : s.SameModes t)
    (seq : (s.seq.get b).SameCourse q) : s.SameCourse t := by
  have mods : t.mods = ms := by rw [e]
  have moved : (s.updSeq b fun _ => q).SameCourse t := by
    refine ⟨?_, ?_, ?_, ?_, fun m => ?_, ?_⟩
    · intro c; rw [e]; exact id
    · intro c; rw [e]; exact id
    · rw [e]; rfl
    · intro c; rw [e]; exact id
    · have drive : (s.mods.get m).SameButDrive (t.mods.get m) := by rw [mods]; exact driven.1 m
      exact drive.course (modes m).2
    · intro c; rw [e]; exact .refl _
  have first := updSeq_course b (fun _ => q) s seq
  exact
    { closes := fun c => first.closes c ∘ moved.closes c
      trips := fun c => first.trips c ∘ moved.trips c
      claims := moved.claims.trans first.claims
      osc := fun c => moved.osc c ∘ first.osc c
      mods := moved.mods
      seq := fun c => by rw [e]; exact first.seq c }

theorem Seq.state_of_rising {q : Seq} (rises : q.wantDir = .rising) : q.state = .parallelIn := by
  unfold Seq.wantDir at rises
  split at rises
  · cases rises
  · split at rises
    · assumption
    · split at rises <;> cases rises
    · cases rises

theorem refreshDirection_course (b : Berth) (s : State) : s.SameCourse (refreshDirection b s) := by
  obtain ⟨ms, driven, e⟩ := refreshDirection_spec b s
  exact course_of_driven driven e (refreshDirection_modes b s)
    ⟨rfl, rfl, rfl, rfl, fun rises => .inr (Seq.state_of_rising rises)⟩

theorem recomputeShares_course (b : Berth) (s : State) : s.SameCourse (recomputeShares b s) := by
  obtain ⟨ms, driven, e⟩ := recomputeShares_spec b s
  exact course_of_driven driven e (recomputeShares_modes b s) ⟨rfl, rfl, rfl, rfl, .inl⟩

theorem judge_course (b : Berth) (s : State) : s.SameCourse (judge b s) :=
  updSeq_course b
    (Seq.judged (s.overloaded b) (s.reversed b) (s.feederFresh b) (s.prot.overloadMs * Config.msUs)) s
    ⟨rfl, rfl, rfl, rfl, .inl⟩

theorem holdIfStale_course (b : Berth) (s : State) : s.SameCourse (holdIfStale b s) := by
  rw [holdIfStale_eq]
  exact updSeq_course b (Seq.holding !s.feederFresh b) s ⟨rfl, rfl, rfl, rfl, .inl⟩

theorem holdTimers_course (b : Berth) (s : State) : s.SameCourse (holdTimers b s) :=
  updSeq_course b (fun q => { q with overload := q.overload.hold, reverse := q.reverse.hold }) s
    ⟨rfl, rfl, rfl, rfl, .inl⟩

theorem blankBerth_course (b : Berth) (s : State) : s.SameCourse (blankBerth b s) := by
  obtain ⟨ms, driven, e⟩ := (blankBerth_driveOnly b s).driven
  refine course_of_driven driven ?_ (blankBerth_modes b s) (.refl _)
  rw [PerBerth.set_get]
  exact e

theorem writeResult_calm (b : Berth) (k : BitVec 8) (t : BitVec 16) (o : ReqOutcome) (c : Option Cause)
    (v : Option (BitVec 16)) (s : State) : s.Calm (writeResult b k t o c v s) := by
  have written := updSeq_course b (fun q =>
    { q with last := { kind := k, tag := t, outcome := o, cause := c, overtaken := v }, count := q.count + 1 }) s
    ⟨rfl, rfl, rfl, rfl, .inl⟩
  exact written.calm.trans (calm_of_drive rfl)

theorem completeCurrent_calm (b : Berth) (o : ReqOutcome) (c : Option Cause) (s : State) :
    s.Calm (completeCurrent b o c s) := by
  unfold completeCurrent
  split
  · exact .refl s
  · have ended := updSeq_course b (fun q => { q with current := none }) s ⟨rfl, rfl, rfl, rfl, .inl⟩
    exact ended.calm.trans (writeResult_calm ..)

theorem emitEvent_calm (c : EventCode) (q : Nat) (o : Option Berth) (ws : List Word) (s : State) :
    s.Calm (emitEvent c q o ws s) := calm_of_drive (emitEvent_drive c q o ws s)

/-! ## A capacity report (R107) -/

theorem clampRamp_eq (n : Nat) (q : Seq) :
    clampRamp n q =
      { q with
        target := if q.state.isParallel = true then n else q.target
        setpoint := if q.state.hasSetpoint = true then min q.setpoint (n * Config.powerUnit) else q.setpoint } := by
  obtain ⟨state⟩ := q
  cases state <;> rfl

/-- R107: a report brings the setpoint within the bound, whatever it was bounded by. -/
theorem clampRamp_bounded {n k : Nat} {q : Seq} (h : q.Bounded k) : (clampRamp n q).Bounded n := by
  rw [clampRamp_eq]
  by_cases carries : q.state.hasSetpoint = true
  · exact
      { within := by dsimp only; rw [if_pos carries]; exact Nat.min_le_right _ _
        zero := fun no => nomatch carries.symm.trans no
        target := fun parallel => by dsimp only at parallel ⊢; rw [parallel]; exact Nat.le_refl n
        rising := h.rising }
  · rw [if_neg carries]
    have no : q.state.hasSetpoint = false := Bool.eq_false_iff.mpr carries
    have bounded := h.of_none (k := n) no
    exact
      { within := bounded.within
        zero := bounded.zero
        target := fun parallel => by dsimp only at parallel; rw [parallel] at no; cases no
        rising := bounded.rising }

end Sys2Proof.Machine
end

section
/-! Proofs: capacity reports and entries to a state keep the invariants of the berths (R98, R107). -/

namespace Sys2Proof.Machine

/-! ## Capacity reports (R6, R107) -/

/-- A change of one context that keeps its state is calm where the setpoints are. -/
theorem updSeq_calm {b : Berth} {f : Seq → Seq} {s : State} (state : (f (s.seq.get b)).state = (s.seq.get b).state)
    (setpoints : s.SetpointsOk → (s.updSeq b f).SetpointsOk) : s.Calm (s.updSeq b f) := by
  have states : ∀ c, ((s.updSeq b f).seq.get c).state = (s.seq.get c).state :=
    PerBerth.get_set_of (P := fun c (q : Seq) => q.state = (s.seq.get c).state) state fun _ => rfl
  refine ⟨⟨⟨id, id, fun ok m => ?_, id, fun _ => setpoints⟩, fun ok c idles => ?_⟩, rfl, fun c => by rw [states]⟩
  · rw [commandedMode_congr states]
    exact ok m
  · rw [states] at idles
    exact ok c idles

theorem updSeq_demand (b c : Berth) (f : Seq → Seq) (s : State)
    (h : (f (s.seq.get b)).profile = (s.seq.get b).profile) : (s.updSeq b f).demand c = s.demand c :=
  State.demand_congr (PerBerth.get_set_of (P := fun c (q : Seq) => q.profile = (s.seq.get c).profile) h (fun _ => rfl) c)

theorem updSeq_bounds (b c : Berth) (f : Seq → Seq) (s : State)
    (h : (f (s.seq.get b)).profile = (s.seq.get b).profile) : (s.updSeq b f).bound c = s.bound c :=
  congrArg (fun d => min d (s.healthy c)) (updSeq_demand b c f s h)

/-- R107: a report puts the setpoint of its berth in order. -/
theorem clamped_setpointsOk {b : Berth} {s : State} {k : Nat} (own : (s.seq.get b).Bounded k)
    (others : ∀ c, c ≠ b → s.SetpointOk c) : (s.updSeq b (clampRamp (s.bound b))).SetpointsOk := by
  intro c
  have profile : (clampRamp (s.bound b) (s.seq.get b)).profile = (s.seq.get b).profile := by rw [clampRamp_eq]
  rw [State.setpointOk_iff, updSeq_bounds b c _ s profile]
  by_cases same : c = b
  · rw [same, State.updSeq_self]
    exact clampRamp_bounded own
  · rw [State.updSeq_other _ _ _ _ same]
    exact (s.setpointOk_iff c).mp (others c same)

theorem settled_calm (b : Berth) (s : State) : s.Calm (judge b (recomputeShares b (refreshDirection b s))) :=
  (refreshDirection_course b s).calm.trans ((recomputeShares_course b _).calm.trans (judge_course b _).calm)

theorem capacityReport_calm (b : Berth) (s : State) : s.Calm (capacityReport b s) := by
  have clamped : s.Calm (s.updSeq b (clampRamp (s.bound b))) := by
    refine updSeq_calm (by rw [clampRamp_eq]) fun ok => ?_
    exact clamped_setpointsOk ((s.setpointOk_iff b).mp (ok b)) fun c _ => ok c
  exact clamped.trans (settled_calm b _)

theorem reportIfChanged_calm (b : Berth) (n : Nat) (s : State) : s.Calm (reportIfChanged b n s) := by
  unfold reportIfChanged
  split
  · exact (recomputeShares_course b s).calm
  · exact capacityReport_calm b s

/-! ## Entry to a state (R98) -/

theorem enteredSeq_bounded (b : Berth) (new : BerthState) (s : State) :
    (enteredSeq b new s).Bounded (s.bound b) where
  within := by
    show setpointOnEntry new (s.feederPower b) (s.bound b) (s.seq.get b).setpoint ≤ _
    cases new <;> first
      | exact Nat.zero_le _
      | exact Nat.mul_le_mul_right _ (Nat.min_le_right _ _)
      | exact Nat.min_le_right _ _
  zero no := by
    show setpointOnEntry new (s.feederPower b) (s.bound b) (s.seq.get b).setpoint = 0
    have carries : new.hasSetpoint = false := no
    cases new <;> first | rfl | cases carries
  target parallel := by
    have parallel : new = .parallelIn := parallel
    rw [parallel]
    exact Nat.le_refl _
  rising rises := Seq.state_of_rising
    (q := (enterContext (s.params.get b) s.now s.isLost (s.feederPower b) (s.bound b) new (s.seq.get b)).holding
      !s.feederFresh b) rises

theorem enteredSync_pulses (b : Berth) (new : BerthState) (s : State) :
    (enteredSync b new s).closePulse = (s.sync.get b).closePulse ∧
      (enteredSync b new s).tripPulse = (s.sync.get b).tripPulse := by
  unfold enteredSync
  split <;> exact ⟨rfl, rfl⟩

theorem enterState_modesOk (b : Berth) (new : BerthState) {s : State} (ok : s.ModesOk) :
    (enterState b new s).ModesOk := by
  intro m
  obtain ⟨standing, mode⟩ := enterState_mode b new s m
  rw [standing]
  by_cases serves : (s.mods.get m).serves b = true
  · exact mode serves
  · have other : ∀ c, (s.mods.get m).serves c = true →
        ((enterState b new s).seq.get c).state = (s.seq.get c).state := by
      intro c served
      have ne : c ≠ b := fun same => serves (same ▸ served)
      rw [enterState_seq, PerBerth.get_set_ne _ _ _ _ ne]
    have kept : (enterState b new s).mods.get m = s.mods.get m :=
      (enterState_only b new s).mods m (Bool.eq_false_iff.mpr serves)
    rw [kept, ok m]
    cases at_ : (s.mods.get m).standing with
    | assigned c r =>
      have same := other c (serves_of_assigned at_)
      cases r <;> dsimp only [State.commandedMode] <;> rw [same]
    | _ => rfl

theorem enterState_standing (b : Berth) (new : BerthState) (s : State) (m : ModuleId) :
    ((enterState b new s).mods.get m).standing = (s.mods.get m).standing := (enterState_mode b new s m).1

theorem enterState_serves (b c : Berth) (new : BerthState) (s : State) (m : ModuleId) :
    ((enterState b new s).mods.get m).serves c = (s.mods.get m).serves c := by
  unfold Module.serves
  rw [enterState_standing]

theorem enterState_state (b : Berth) (new : BerthState) (s : State) :
    ((enterState b new s).seq.get b).state = new := by rw [enterState_seq, PerBerth.get_set_self, enteredSeq_state]

theorem enterState_seq_other {b c : Berth} (h : c ≠ b) (new : BerthState) (s : State) :
    (enterState b new s).seq.get c = s.seq.get c := by rw [enterState_seq, PerBerth.get_set_ne _ _ _ _ h]

theorem enterState_profile (b c : Berth) (new : BerthState) (s : State) :
    ((enterState b new s).seq.get c).profile = (s.seq.get c).profile := by
  by_cases same : c = b
  · rw [same, enterState_seq, PerBerth.get_set_self, enteredSeq_profile]
  · rw [enterState_seq_other same]

theorem enterState_keepsDrive (b : Berth) (new : BerthState) (s : State) : s.KeepsDrive (enterState b new s) := by
  obtain ⟨ms, driven, e⟩ := enterState_spec b new s
  have pulses := updSync_course b (fun _ => enteredSync b new s) s
    (by rw [(enteredSync_pulses b new s).1]; exact id) (by rw [(enteredSync_pulses b new s).2]; exact id)
  constructor
  · intro ok
    have kept := pulses.calm.lines ok
    rw [e]
    exact kept
  · intro ok c
    rw [e]
    exact PerBerth.get_set_of (P := fun _ (o : Osc) => o.Ok) (enteredOsc_ok b new (ok b)) ok c
  · exact enterState_modesOk b new
  · intro ok m
    have drive : (s.mods.get m).SameButDrive ((enterState b new s).mods.get m) := by rw [e]; exact driven.1 m
    rw [drive.standing, drive.retryWait]
    exact ok m
  · intro _ ok c
    have healthy : (enterState b new s).healthy c = s.healthy c := by rw [e]; exact healthy_of_drive driven.1 c
    have bound : (enterState b new s).bound c = s.bound c := by
      unfold State.bound; rw [healthy, State.demand_congr (enterState_profile b c new s)]
    rw [State.setpointOk_iff, bound]
    by_cases same : c = b
    · rw [same, enterState_seq, PerBerth.get_set_self]
      exact enteredSeq_bounded b new s
    · rw [enterState_seq_other same]
      exact (s.setpointOk_iff c).mp (ok c)

/-- R98: entry to a state, but to IDLE or WAITING_MODULES from a state with modules. -/
theorem enterState_steady {b : Berth} {new : BerthState} {s : State}
    (idles : new = .idle ∨ new = .waitingModules → (s.seq.get b).state = .idle ∨ (s.seq.get b).state = .waitingModules) :
    s.Steady (enterState b new s) := by
  refine ⟨enterState_keepsDrive b new s, fun ok c idle m => ?_⟩
  rw [enterState_serves]
  refine ok c ?_ m
  by_cases same : c = b
  · rw [same, enterState_state] at idle
    rw [same]
    exact idles idle
  · rw [enterState_seq_other same] at idle
    exact idle

/-- Entry to a state in which a berth has modules and none waits for them. -/
theorem enterState_active (b : Berth) (new : BerthState) (s : State)
    (moduled : new ≠ .idle ∧ new ≠ .waitingModules := by decide) : s.Steady (enterState b new s) :=
  enterState_steady fun h => absurd h (not_or.mpr moduled)

theorem enterState_sameQueue {b : Berth} {new : BerthState} {s : State}
    (waits : new = .waitingModules ↔ (s.seq.get b).state = .waitingModules) : s.SameQueue (enterState b new s) := by
  constructor
  · rw [(enterState_only b new s).claims]
  · intro c
    by_cases same : c = b
    · rw [same, enterState_state]
      exact waits
    · rw [enterState_seq_other same]

theorem enterState_calm (new : BerthState) {b : Berth} {s : State} (old : (s.seq.get b).state ≠ .waitingModules)
    (moduled : new ≠ .idle ∧ new ≠ .waitingModules := by decide) : s.Calm (enterState b new s) :=
  ⟨enterState_active b new s moduled, enterState_sameQueue (iff_of_false moduled.2 old)⟩

end Sys2Proof.Machine
end

section
/-! Proofs: changes of modules' pool states keep the invariants of the berths (R4, R7, R13 to R15, R19, R31 to R35). -/

namespace Sys2Proof.Machine

/-! ## Changes of the pool -/

/-- Only modules change: they keep their commanded modes and retry waits in order, the healthy capacity of at most the
berth `lose` changes, and modules come to at most the berth `gain`. -/
structure State.PoolChange (lose gain : Option Berth) (s t : State) : Prop where
  rest : t.drive = { s.drive with mods := t.mods }
  modes : s.ModesOk → t.ModesOk
  retry : s.RetryOk → t.RetryOk
  healthy : s.RetryOk → ∀ c, lose ≠ some c → t.healthy c = s.healthy c
  serves : ∀ m c, (t.mods.get m).serves c = true → (s.mods.get m).serves c = true ∨ gain = some c

namespace State.PoolChange

variable {lose gain : Option Berth} {s t u : State}

theorem refl (s : State) : s.PoolChange lose gain s := ⟨rfl, id, id, fun _ _ _ => rfl, fun _ _ => .inl⟩

theorem trans (h : s.PoolChange lose gain t) (k : t.PoolChange lose gain u) : s.PoolChange lose gain u where
  rest := by rw [k.rest, h.rest]
  modes := k.modes ∘ h.modes
  retry := k.retry ∘ h.retry
  healthy waits c other := (k.healthy (h.retry waits) c other).trans (h.healthy waits c other)
  serves m c served := (k.serves m c served).elim (h.serves m c) .inr

theorem weaken (h : s.PoolChange none none t) : s.PoolChange lose gain t where
  rest := h.rest
  modes := h.modes
  retry := h.retry
  healthy waits c _ := h.healthy waits c nofun
  serves m c served := (h.serves m c served).elim .inl nofun

theorem weaken_lose (h : s.PoolChange none gain t) : s.PoolChange lose gain t where
  rest := h.rest
  modes := h.modes
  retry := h.retry
  healthy waits c _ := h.healthy waits c nofun
  serves := h.serves

theorem seq (h : s.PoolChange lose gain t) : t.seq = s.seq := congrArg Drive.seq h.rest

theorem osc (h : s.PoolChange lose gain t) : t.osc = s.osc := congrArg Drive.osc h.rest

theorem queue (h : s.PoolChange lose gain t) : t.claims = s.claims := congrArg Drive.claims h.rest

theorem sameQueue (h : s.PoolChange lose gain t) : s.SameQueue t := ⟨by rw [h.queue], fun b => by rw [h.seq]⟩

theorem lines (h : s.PoolChange lose gain t) (ok : s.LinesOk) : t.LinesOk := by
  have low : t.resetLow = s.resetLow := congrArg Drive.resetLow h.rest
  have hold : t.tripHold = s.tripHold := congrArg Drive.tripHold h.rest
  have sync : t.sync = s.sync := congrArg Drive.sync h.rest
  intro b
  have apart := ok b
  unfold State.closeLine State.tripLine State.inHold at apart ⊢
  rwa [low, hold, sync]

theorem oscOk (h : s.PoolChange lose gain t) (ok : s.OscOk) : t.OscOk := fun b => by rw [h.osc]; exact ok b

theorem bound (h : s.PoolChange lose gain t) {b : Berth} (same : t.healthy b = s.healthy b) : t.bound b = s.bound b := by
  have demand : t.demand b = s.demand b := State.demand_congr (by rw [h.seq])
  unfold State.bound
  rw [same, demand]

theorem setpointOk (h : s.PoolChange lose gain t) {b : Berth} (same : t.healthy b = s.healthy b) (ok : s.SetpointOk b) :
    t.SetpointOk b := by
  rw [State.setpointOk_iff] at ok ⊢
  rw [h.bound same, h.seq]
  exact ok

theorem idle (h : s.PoolChange lose gain t) (joins : ∀ c, gain = some c → (s.seq.get c).state.isActive = true)
    (ok : s.IdleOk) : t.IdleOk := by
  intro b idles m
  rw [h.seq] at idles
  rw [Bool.eq_false_iff]
  intro served
  rcases h.serves m b served with before | gained
  · exact Bool.eq_false_iff.mp (ok b idles m) before
  · have active := joins b gained
    rcases idles with at_ | at_ <;> rw [at_] at active <;> cases active

theorem keepsDrive (h : s.PoolChange none gain t) : s.KeepsDrive t :=
  ⟨h.lines, h.oscOk, h.modes, h.retry, fun waits ok b => h.setpointOk (h.healthy waits b nofun) (ok b)⟩

/-- A change that leaves every healthy capacity as it was. -/
theorem calm (h : s.PoolChange none gain t) (joins : ∀ c, gain = some c → (s.seq.get c).state.isActive = true) :
    s.Calm t := ⟨⟨h.keepsDrive, h.idle joins⟩, h.sameQueue⟩

/-- A change of the modules of a berth that carries no setpoint. -/
theorem calm_of_none {b : Berth} (h : s.PoolChange (some b) gain t)
    (joins : ∀ c, gain = some c → (s.seq.get c).state.isActive = true)
    (no : (s.seq.get b).state.hasSetpoint = false) : s.Calm t where
  lines := h.lines
  osc := h.oscOk
  modes := h.modes
  retry := h.retry
  idle := h.idle joins
  toSameQueue := h.sameQueue
  setpoints waits ok c := by
    by_cases same : c = b
    · rw [same]
      rw [State.setpointOk_iff, h.seq]
      exact ((s.setpointOk_iff b).mp (ok b)).of_none no
    · exact h.setpointOk (h.healthy waits c fun at_ => same (Option.some.inj at_).symm) (ok c)

/-- R6, R107: a change of one berth's modules with the report that follows it. -/
theorem reported {b : Berth} (h : s.PoolChange (some b) gain t)
    (joins : ∀ c, gain = some c → (s.seq.get c).state.isActive = true) :
    s.Calm (reportIfChanged b (s.healthy b) t) := by
  have report := reportIfChanged_calm b (s.healthy b) t
  have others (waits : s.RetryOk) (ok : s.SetpointsOk) (c : Berth) (ne : c ≠ b) : t.SetpointOk c :=
    h.setpointOk (h.healthy waits c fun at_ => ne (Option.some.inj at_).symm) (ok c)
  refine ⟨⟨⟨report.lines ∘ h.lines, report.osc ∘ h.oscOk, report.modes ∘ h.modes, report.retry ∘ h.retry, ?_⟩,
    report.idle ∘ h.idle joins⟩, h.sameQueue.trans report.toSameQueue⟩
  intro waits ok
  by_cases same : t.healthy b = s.healthy b
  · refine report.setpoints (h.retry waits) fun c => ?_
    by_cases own : c = b
    · rw [own]; exact h.setpointOk same (ok b)
    · exact others waits ok c own
  · have clamped : (t.updSeq b (clampRamp (t.bound b))).SetpointsOk := by
      refine clamped_setpointsOk (k := s.bound b) ?_ (others waits ok)
      rw [h.seq]
      exact (s.setpointOk_iff b).mp (ok b)
    have reports : reportIfChanged b (s.healthy b) t = capacityReport b t := if_neg same
    rw [reports]
    exact (settled_calm b _).setpoints (h.retry waits) clamped

end State.PoolChange

/-! ## One module -/

/-- R31, R32: a retry wait of one module runs only in a retry wait state. -/
def Module.RetryOk (r : Module) : Prop := r.retryWait = .stopped ∨
  ∃ b, r.standing = .assigned b .retryWaitFast ∨ r.standing = .assigned b .retryWaitSlow

/-- A module in no retry wait state has no retry wait. -/
theorem Module.RetryOk.stopped {r : Module} (h : r.RetryOk)
    (not : ∀ b, r.standing ≠ .assigned b .retryWaitFast ∧ r.standing ≠ .assigned b .retryWaitSlow) :
    r.retryWait = .stopped := by
  rcases h with stopped | ⟨b, fast | slow⟩
  · exact stopped
  · exact absurd fast (not b).1
  · exact absurd slow (not b).2

theorem healthyFor_running {r : Module} {b : Berth} (h : r.healthyFor b = true) : r.standing = .assigned b .running := by
  unfold Module.healthyFor at h
  exact beq_iff_eq.mp (Bool.and_eq_true_iff.mp h).1

theorem not_healthyFor {r : Module} {b : Berth} (h : r.standing ≠ .assigned b .running) : r.healthyFor b = false :=
  Bool.eq_false_iff.mpr fun healthy => h (healthyFor_running healthy)

theorem serves_iff (r : Module) (b : Berth) : r.serves b = true ↔ r.standing.berth? = some b := by
  unfold Module.serves
  exact beq_iff_eq

/-- What a change of one module must keep. -/
structure Module.Moves (lose gain : Option Berth) (s : State) (r x : Module) : Prop where
  mode : r.mode = s.commandedMode r.standing → x.mode = s.commandedMode x.standing
  retry : r.RetryOk → x.RetryOk
  rating : x.rating = r.rating
  healthy : r.RetryOk → ∀ c, lose ≠ some c → x.healthyFor c = r.healthyFor c
  serves : ∀ c, x.serves c = true → r.serves c = true ∨ gain = some c

theorem updMod_pool {lose gain : Option Berth} {m : ModuleId} {f : Module → Module} {s : State}
    (h : (s.mods.get m).Moves lose gain s (f (s.mods.get m))) : s.PoolChange lose gain (s.updMod m f) where
  rest := rfl
  modes ok := PerModule.get_set_of (P := fun _ (r : Module) => r.mode = s.commandedMode r.standing) (h.mode (ok m)) ok
  retry ok := PerModule.get_set_of (P := fun _ (r : Module) => r.RetryOk) (h.retry (ok m)) ok
  healthy waits c other := sumRatings_congr
    (PerModule.get_set_of
      (P := fun k (x : Module) => x.healthyFor c = (s.mods.get k).healthyFor c ∧ x.rating = (s.mods.get k).rating)
      ⟨h.healthy (waits m) c other, h.rating⟩ fun _ => ⟨rfl, rfl⟩)
  serves := PerModule.get_set_of
    (P := fun k (x : Module) => ∀ c, x.serves c = true → (s.mods.get k).serves c = true ∨ gain = some c) h.serves
    fun _ _ => .inl

/-- R19: a change of one module and the mode that follows it. -/
theorem refreshMode_updMod (m : ModuleId) (f : Module → Module) (s : State) :
    refreshMode m (s.updMod m f) = s.updMod m fun r => refreshed s (f r) := by
  rw [refreshMode_eq]
  exact State.updMod_updMod s m f (refreshed s)

/-- What a change of one module must keep where its mode follows. -/
structure Module.Stands (lose gain : Option Berth) (r x : Module) : Prop where
  retry : r.RetryOk → x.RetryOk
  rating : x.rating = r.rating
  healthy : r.RetryOk → ∀ c, lose ≠ some c → x.healthyFor c = r.healthyFor c
  serves : ∀ c, x.serves c = true → r.serves c = true ∨ gain = some c

theorem Module.SameButDrive.retryOk {r x : Module} (h : r.SameButDrive x) (ok : r.RetryOk) : x.RetryOk := by
  unfold Module.RetryOk
  rw [h.standing, h.retryWait]
  exact ok

theorem Module.Stands.moves {lose gain : Option Berth} {r x : Module} (h : r.Stands lose gain x) (s : State) :
    r.Moves lose gain s (refreshed s x) where
  mode _ := by rw [(refreshed_drive s x).standing]; exact refreshed_mode s x
  retry ok := (refreshed_drive s x).retryOk (h.retry ok)
  rating := (refreshed_drive s x).rating.trans h.rating
  healthy ok c other := ((refreshed_drive s x).healthyFor c).trans (h.healthy ok c other)
  serves c served := h.serves c (((refreshed_drive s x).serves c).symm.trans served)

theorem refreshMode_pool {lose gain : Option Berth} {m : ModuleId} {f : Module → Module} {s : State}
    (h : (s.mods.get m).Stands lose gain (f (s.mods.get m))) :
    s.PoolChange lose gain (refreshMode m (s.updMod m f)) := by
  rw [refreshMode_updMod]
  exact updMod_pool (h.moves s)

theorem forModules_pool {lose gain : Option Berth} {f : ModuleId → State → State} {P : PerBerth Seq → Prop}
    (h : ∀ m (s : State), P s.seq → s.PoolChange lose gain (f m s)) (s : State) (p : P s.seq) :
    s.PoolChange lose gain (forModules f s) := by
  have step {t : State} (m : ModuleId) (k : s.PoolChange lose gain t) : s.PoolChange lose gain (f m t) :=
    k.trans (h m t (by rw [k.seq]; exact p))
  exact step .m7 (step .m6 (step .m5 (step .m4 (step .m3 (step .m2 (step .m1 (step .m0 (.refl s))))))))

/-! ## Modules that enter a berth (R7, R13, R30, R33) -/

/-- A module that is not RUNNING and has no retry wait enters a berth. -/
theorem enterJoining_pool {b : Berth} {m : ModuleId} {s : State}
    (idle : (s.mods.get m).RetryOk →
      (s.mods.get m).retryWait = .stopped ∧ ∀ c, (s.mods.get m).standing ≠ .assigned c .running) :
    s.PoolChange none (some b) (enterJoining b m s) := by
  refine refreshMode_pool ⟨fun ok => .inl (idle ok).1, rfl, fun ok c _ => ?_, fun c serves => .inr ?_⟩
  · rw [not_healthyFor ((idle ok).2 c)]
    exact not_healthyFor (nomatch ·)
  · exact (serves_iff _ c).mp serves

theorem available_idle {r : Module} (h : r.standing = .available) (ok : r.RetryOk) :
    r.retryWait = .stopped ∧ ∀ c, r.standing ≠ .assigned c .running := by
  have not (x : Standing) (ne : Standing.available ≠ x) : r.standing ≠ x := by rw [h]; exact ne
  exact ⟨ok.stopped fun b => ⟨not _ nofun, not _ nofun⟩, fun c => not _ nofun⟩

theorem joining_idle {r : Module} {b : Berth} (h : r.standing = .assigned b .joining) (ok : r.RetryOk) :
    r.retryWait = .stopped ∧ ∀ c, r.standing ≠ .assigned c .running := by
  have not (c : Berth) (x : RunState) (ne : RunState.joining ≠ x) : r.standing ≠ .assigned c x := by
    rw [h]; exact fun same => ne (Standing.assigned.inj same).2
  exact ⟨ok.stopped fun b => ⟨not _ _ nofun, not _ _ nofun⟩, fun c => not _ _ nofun⟩

theorem isCandidate_available {r : Module} (h : r.isCandidate = true) : r.standing = .available := by
  unfold Module.isCandidate at h
  exact beq_iff_eq.mp (Bool.and_eq_true_iff.mp (Bool.and_eq_true_iff.mp h).1).2

theorem replaceWith_pool (b : Berth) (m : ModuleId) (s : State) : s.PoolChange none (some b) (replaceWith b m s) := by
  unfold replaceWith
  split
  next given => exact enterJoining_pool (available_idle (isCandidate_available (Bool.and_eq_true_iff.mp given).2))
  next => exact .refl s

theorem active_of_needs {b : Berth} {s : State} (h : s.needs b = true) : (s.seq.get b).state.isActive = true :=
  (Bool.and_eq_true_iff.mp h).1

theorem serveNeed_calm (b : Berth) (s : State) : s.Calm (serveNeed b s) := by
  by_cases needs : s.needs b = true
  · have served : s.PoolChange none (some b) (serveNeed b s) :=
      forModules_pool (P := fun _ => True) (fun m s _ => replaceWith_pool b m s) s trivial
    exact served.calm fun c same => Option.some.inj same ▸ active_of_needs needs
  · rw [serveNeed_none b s (Bool.eq_false_iff.mpr needs)]
    exact .refl s

theorem serveNeeds_calm (skip : Option Berth) (s : State) : s.Calm (serveNeeds skip s) :=
  forBerths_calm (fun b s => by
    split
    · exact .refl s
    · exact serveNeed_calm b s) s

/-- Modules taken by an allocation, or already given by it. -/
def State.Given (b : Berth) (s : State) (ms : List ModuleId) : Prop :=
  ∀ m ∈ ms, (s.mods.get m).standing = .available ∨ (s.mods.get m).standing = .assigned b .joining

theorem enterJoining_given {b : Berth} {m : ModuleId} {ms : List ModuleId} {s : State} (h : s.Given b ms) :
    (enterJoining b m s).Given b ms := by
  intro k at_
  by_cases same : k = m
  · rw [same]; exact .inr (enterJoining_standing b m s)
  · rw [enterJoining_other b m k s same]; exact h k at_

theorem assignAll_pool {b : Berth} {ms : List ModuleId} {s : State} (h : s.Given b ms) :
    s.PoolChange none (some b) (assignAll b ms s) := by
  induction ms generalizing s with
  | nil => exact .refl s
  | cons m ms ih =>
    have first : s.PoolChange none (some b) (enterJoining b m s) := by
      rcases h m List.mem_cons_self with available | joining
      · exact enterJoining_pool (available_idle available)
      · exact enterJoining_pool (joining_idle joining)
    exact first.trans (ih (enterJoining_given fun k at_ => h k (List.mem_cons_of_mem _ at_)))

/-- R103: a berth that is given modules and enters ENERGISING. -/
theorem energiseWith_steady {b : Berth} {ms : List ModuleId} {s : State}
    (h : ∀ m ∈ ms, (s.mods.get m).standing = .available) : s.Steady (energiseWith b ms s) := by
  have given := assignAll_pool (b := b) fun m at_ => .inl (h m at_)
  refine ⟨given.keepsDrive.trans (enterState_keepsDrive b .energising _), fun ok c idles m => ?_⟩
  unfold energiseWith at idles ⊢
  have other : c ≠ b := by
    intro same
    rw [same, enterState_state] at idles
    exact idles.elim nofun nofun
  rw [enterState_seq_other other, given.seq] at idles
  rw [enterState_serves, Bool.eq_false_iff]
  intro served
  rcases given.serves m c served with before | gained
  · exact Bool.eq_false_iff.mp (ok c idles m) before
  · exact other (Option.some.inj gained).symm

/-! ## The claim queue (R9, R10) -/

theorem claims_steady (cs : List Claim) (s : State) : s.Steady { s with claims := cs } :=
  ⟨⟨id, id, id, id, fun _ => id⟩, id⟩

theorem serveClaims_steady (cs : List Claim) (s : State) : s.Steady (serveClaims cs s) := by
  induction cs generalizing s with
  | nil => exact claims_steady [] s
  | cons c cs ih =>
    unfold serveClaims
    split
    · exact claims_steady (c :: cs) s
    next ms allocated =>
      have served : s.Steady (energiseWith c.berth ms { s with claims := cs }) :=
        (claims_steady cs s).trans (energiseWith_steady (allocation_available allocated))
      exact served.trans (ih _)

/-- R9: a list of claims that has one claim of each waiting berth and none of another. -/
def State.Claimed (s : State) (cs : List Claim) : Prop :=
  ∀ b, (cs.countP fun c => c.berth == b) = if (s.seq.get b).state = .waitingModules then 1 else 0

theorem energiseWith_state (b : Berth) (ms : List ModuleId) (s : State) :
    ((energiseWith b ms s).seq.get b).state = .energising := enterState_state ..

theorem energiseWith_seq_other {b c : Berth} (h : c ≠ b) (ms : List ModuleId) (s : State) :
    (energiseWith b ms s).seq.get c = s.seq.get c := by
  have assigned : (assignAll b ms s).seq = s.seq := by rw [assignAll_modsOnly b ms s]
  unfold energiseWith
  rw [enterState_seq_other h, assigned]

/-- R9, R10: the head claim leaves the queue with its berth's wait. -/
theorem claimed_of_served {c : Claim} {cs : List Claim} {s t : State} (h : s.Claimed (c :: cs))
    (own : (t.seq.get c.berth).state ≠ .waitingModules) (others : ∀ b, b ≠ c.berth → t.seq.get b = s.seq.get b) :
    t.Claimed cs := by
  intro b
  have before := h b
  rw [List.countP_cons] at before
  by_cases same : b = c.berth
  · rw [if_neg (same ▸ own)]
    rw [if_pos (beq_iff_eq.mpr same.symm)] at before
    split at before <;> omega
  · rw [if_neg (by rw [beq_iff_eq]; exact fun eq => same eq.symm)] at before
    rw [others b same]
    exact before

theorem serveClaims_claimsOk {cs : List Claim} {s : State} (h : s.Claimed cs) : (serveClaims cs s).ClaimsOk := by
  induction cs generalizing s with
  | nil => exact h
  | cons c cs ih =>
    unfold serveClaims
    split
    · exact h
    · refine ih (claimed_of_served h ?_ fun b ne => energiseWith_seq_other ne _ _)
      rw [energiseWith_state]
      nofun

/-- R10: a try of the pool. -/
theorem tryPoolBut_keeps_berths (skip : Option Berth) (s : State) : s.KeepsBerths (tryPoolBut skip s) := by
  have needs := serveNeeds_calm skip s
  exact (needs.toSteady.trans (serveClaims_steady _ _)).keeps fun ok => serveClaims_claimsOk (needs.claimsOk ok)

theorem tryPoolBut_steady (skip : Option Berth) (s : State) : s.Steady (tryPoolBut skip s) :=
  (serveNeeds_calm skip s).toSteady.trans (serveClaims_steady _ _)

theorem tryPool_keeps_berths (s : State) : s.KeepsBerths (tryPool s) := tryPoolBut_keeps_berths none s

theorem tryIf_keeps_berths (head : Bool) (s : State) : s.KeepsBerths (tryIf head s) := by
  unfold tryIf
  split
  · exact tryPool_keeps_berths s
  · exact (State.Calm.refl s).keeps

theorem tryIfNeeded_keeps_berths (b : Berth) (s : State) : s.KeepsBerths (tryIfNeeded b s) := by
  unfold tryIfNeeded
  split
  · exact tryPool_keeps_berths s
  · exact (State.Calm.refl s).keeps

end Sys2Proof.Machine
end

section
/-! Proofs: status records, faults, retries and service actions keep the invariants of the berths (R22, R23, R31 to R35,
R39). -/

namespace Sys2Proof.Machine

theorem State.PoolChange.of_drive {lose gain : Option Berth} {s t u : State} (h : s.PoolChange lose gain t)
    (k : u.drive = t.drive) : s.PoolChange lose gain u where
  rest := by
    have mods : u.mods = t.mods := congrArg Drive.mods k
    rw [k, h.rest, mods]
  modes ok := (calm_of_drive k).modes (h.modes ok)
  retry ok := (calm_of_drive k).retry (h.retry ok)
  healthy waits c other := ((sameCourse_of_drive k).healthy c).trans (h.healthy waits c other)
  serves m c served := by
    have mods : u.mods = t.mods := congrArg Drive.mods k
    rw [mods] at served
    exact h.serves m c served

/-- A change of one module that the invariants do not read. -/
theorem updMod_pool_same {lose gain : Option Berth} {m : ModuleId} {f : Module → Module} {s : State}
    (h : (s.mods.get m).SameCourse (f (s.mods.get m))) : s.PoolChange lose gain (s.updMod m f) := by
  refine updMod_pool ⟨fun ok => ?_, fun ok => ?_, h.rating, fun _ c _ => h.healthyFor c, fun c served => .inl ?_⟩
  · rw [h.mode, h.standing]; exact ok
  · unfold Module.RetryOk; rw [h.retryWait, h.standing]; exact ok
  · rw [← h.serves]; exact served

/-! ## Modules that leave a berth -/

theorem assigned_idle {r : Module} {b : Berth} {x : RunState} (h : r.standing = .assigned b x)
    (fast : x ≠ .retryWaitFast) (slow : x ≠ .retryWaitSlow) (ok : r.RetryOk) : r.retryWait = .stopped :=
  ok.stopped fun c => by
    rw [h]
    exact ⟨fun same => fast (Standing.assigned.inj same).2, fun same => slow (Standing.assigned.inj same).2⟩

theorem serves_of_healthy {r : Module} {b : Berth} (h : r.healthyFor b = true) : r.serves b = true :=
  serves_of_assigned (healthyFor_running h)

theorem not_serves_of_none {r : Module} (h : r.standing.berth? = none) (b : Berth) : r.serves b = false := by
  unfold Module.serves
  rw [h]
  rfl

/-- R4: a module that has left its berth. -/
def Module.left (dest : Standing) (r : Module) : Module := { r with standing := dest, returning := false, share := 0 }

theorem leaveBerth_eq (dest : Standing) (m : ModuleId) (s : State) :
    leaveBerth dest m s = s.updMod m fun r => refreshed s (r.left dest) := refreshMode_updMod m (Module.left dest) s

/-- R4: a module leaves its berth, and its faults and retries are set as the event has it. -/
theorem leaveBerth_updMod_pool {lose gain : Option Berth} {dest : Standing} {m : ModuleId} {g : Module → Module}
    {s : State} (gone : dest.berth? = none)
    (rest : ∀ r : Module, (g r).standing = r.standing ∧ (g r).mode = r.mode ∧ (g r).rating = r.rating)
    (own : (s.mods.get m).RetryOk → ∀ c, (s.mods.get m).serves c = true → (s.mods.get m).healthyFor c = true →
      lose = some c)
    (waits : (s.mods.get m).RetryOk →
      (g (refreshed s ((s.mods.get m).left dest))).retryWait = .stopped) :
    s.PoolChange lose gain ((leaveBerth dest m s).updMod m g) := by
  have whole : (leaveBerth dest m s).updMod m g =
      s.updMod m fun r => g (refreshed s (r.left dest)) := by
    rw [leaveBerth_eq]
    exact State.updMod_updMod ..
  rw [whole]
  have drive := refreshed_drive s ((s.mods.get m).left dest)
  obtain ⟨standing, mode, rating⟩ := rest (refreshed s ((s.mods.get m).left dest))
  have at_ : (g (refreshed s ((s.mods.get m).left dest))).standing = dest := standing.trans drive.standing
  have nowhere := not_serves_of_none ((congrArg Standing.berth? at_).trans gone)
  refine updMod_pool ⟨fun _ => ?_, fun ok => .inl (waits ok), rating.trans drive.rating, fun ok c other => ?_,
    fun c served => ?_⟩
  · rw [mode, refreshed_mode, at_]
    rfl
  · have unhealthy : (s.mods.get m).healthyFor c = false :=
      Bool.eq_false_iff.mpr fun healthy => other (own ok c (serves_of_healthy healthy) healthy)
    rw [unhealthy]
    exact Bool.eq_false_iff.mpr fun healthy => Bool.eq_false_iff.mp (nowhere c) (serves_of_healthy healthy)
  · exact absurd served (Bool.eq_false_iff.mp (nowhere c))

theorem releaseModule_pool {lose gain : Option Berth} {m : ModuleId} {s : State}
    (own : (s.mods.get m).RetryOk → ∀ c, (s.mods.get m).serves c = true → (s.mods.get m).healthyFor c = true →
      lose = some c) : s.PoolChange lose gain (releaseModule m s) :=
  leaveBerth_updMod_pool rfl (fun _ => ⟨rfl, rfl, rfl⟩) own fun _ => rfl

theorem giveBack_pool {lose gain : Option Berth} {m : ModuleId} {b : Berth} {s : State}
    (running : (s.mods.get m).standing = .assigned b .running) (own : ∀ c, (s.mods.get m).serves c = true → lose = some c) :
    s.PoolChange lose gain (giveBack m s) :=
  leaveBerth_updMod_pool rfl (fun _ => ⟨rfl, rfl, rfl⟩) (fun _ c served _ => own c served) fun ok => by
    have drive := refreshed_drive s ((s.mods.get m).left .available)
    have stopped : (s.mods.get m).retryWait = .stopped := assigned_idle running nofun nofun ok
    exact drive.retryWait.trans stopped

theorem lockOut_pool {lose gain : Option Berth} {m : ModuleId} {b : Berth} {cause : Word} {s : State}
    (own : ∀ c, (s.mods.get m).serves c = true → lose = some c) : s.PoolChange lose gain (lockOut b cause m s) := by
  have left : s.PoolChange lose gain ((leaveBerth .lockedOut m s).updMod m fun r =>
      { r with fastCount := 0, slowCount := 0, retryWait := .stopped, retryWindow := .stopped, blankExpiry := none }) :=
    leaveBerth_updMod_pool rfl (fun _ => ⟨rfl, rfl, rfl⟩) (fun _ c served _ => own c served) fun _ => rfl
  exact left.of_drive (emitEvent_drive .moduleLockout m.num (some b) _ _)

/-! ## Faults (R28, R31) -/

/-- R31, R32: a module of berth `b` begins a retry wait. -/
theorem enterRetryWait_pool {lose gain : Option Berth} {m : ModuleId} {b : Berth} {run : RunState} {d : Nat} {s : State}
    (wait : run = .retryWaitFast ∨ run = .retryWaitSlow) (serves : (s.mods.get m).serves b = true)
    (own : ∀ c, (s.mods.get m).serves c = true → lose = some c) :
    s.PoolChange lose gain (enterRetryWait b run d m s) := by
  refine refreshMode_pool ⟨fun _ => .inr ⟨b, ?_⟩, rfl, fun _ c other => ?_, fun c served => .inl ?_⟩
  · exact wait.imp (congrArg _) (congrArg _)
  · have unhealthy : (s.mods.get m).healthyFor c = false :=
      Bool.eq_false_iff.mpr fun healthy => other (own c (serves_of_healthy healthy))
    rw [unhealthy]
    refine not_healthyFor fun same => ?_
    have run_eq : run = .running := (Standing.assigned.inj same).2
    rw [run_eq] at wait
    exact wait.elim nofun nofun
  · have same : b = c := Option.some.inj ((serves_iff _ c).mp served)
    rw [← same]
    exact serves

theorem countedFault_pool {lose gain : Option Berth} {m : ModuleId} {b : Berth} {cause : Word} {s : State}
    (serves : (s.mods.get m).serves b = true) (own : ∀ c, (s.mods.get m).serves c = true → lose = some c) :
    s.PoolChange lose gain (countedFault b cause m s) := by
  have counted (f : Module → Module) (run : RunState) (d : Nat) (wait : run = .retryWaitFast ∨ run = .retryWaitSlow)
      (same : (s.mods.get m).SameCourse (f (s.mods.get m))) :
      s.PoolChange lose gain (enterRetryWait b run d m (s.updMod m f)) := by
    refine (updMod_pool_same same).trans (enterRetryWait_pool wait ?_ fun c served => own c ?_)
    · rw [State.updMod_self, same.serves]; exact serves
    · rw [State.updMod_self, same.serves] at served; exact served
  unfold countedFault
  dsimp only
  split
  · exact counted (fun r => { r with fastCount := r.fastCount + 1 }) _ _ (.inl rfl) ⟨rfl, rfl, rfl, rfl, rfl⟩
  · split
    · exact counted (fun r => { r with slowCount := r.slowCount + 1 }) _ _ (.inr rfl) ⟨rfl, rfl, rfl, rfl, rfl⟩
    · exact lockOut_pool own

theorem serves_of_counting {r : Module} {b : Berth} (h : r.standing.counting? = some b) : r.serves b = true := by
  unfold Standing.counting? at h
  split at h
  next c at_ => rw [← Option.some.inj h]; exact serves_of_assigned at_
  next c at_ => rw [← Option.some.inj h]; exact serves_of_assigned at_
  next => cases h

theorem countFlags_pool {lose gain : Option Berth} (m : ModuleId) (f : PerFlag Bool) {s : State}
    (own : ∀ c, (s.mods.get m).serves c = true → lose = some c) : s.PoolChange lose gain (countFlags m f s) := by
  have counted (g : Module → Module) (same : (s.mods.get m).SameCourse (g (s.mods.get m))) :
      s.PoolChange lose gain (s.updMod m g) := updMod_pool_same same
  unfold countFlags
  dsimp only
  split
  · exact counted _ ⟨rfl, rfl, rfl, rfl, rfl⟩
  next b counting =>
    split
    · refine (counted _ ⟨rfl, rfl, rfl, rfl, rfl⟩).trans (countedFault_pool ?_ fun c served => own c ?_)
      · rw [State.updMod_self]; exact serves_of_counting counting
      · rw [State.updMod_self] at served; exact served
    · exact counted _ ⟨rfl, rfl, rfl, rfl, rfl⟩

/-! ## Status records (R22) -/

theorem takeStatus_pool {lose gain : Option Berth} (m : ModuleId) (x : StatusReport) {s : State}
    (own : ∀ c, (s.mods.get m).serves c = true → lose = some c) : s.PoolChange lose gain (takeStatus m x s) := by
  have unhealthy {r : Module} {c : Berth} (not : r.serves c = false) : r.healthyFor c = false :=
    Bool.eq_false_iff.mpr fun healthy => Bool.eq_false_iff.mp not (serves_of_healthy healthy)
  refine updMod_pool ⟨id, id, rfl, fun _ c other => ?_, fun c served => .inl served⟩
  have not : (s.mods.get m).serves c = false := Bool.eq_false_iff.mpr fun served => other (own c served)
  rw [unhealthy not]
  exact unhealthy not

/-- R22 step 4: a JOINING module runs. -/
theorem join_pool {lose gain : Option Berth} {m : ModuleId} {b : Berth} {s : State}
    (joining : (s.mods.get m).standing = .assigned b .joining) (own : lose = some b) :
    s.PoolChange lose gain (s.updMod m fun r => { r with standing := .assigned b .running, returning := false }) := by
  refine updMod_pool ⟨fun ok => ?_, fun ok => .inl (joining_idle joining ok).1, rfl, fun ok c other => ?_,
    fun c served => .inl ?_⟩
  · dsimp only
    rw [ok, joining]
    rfl
  · rw [not_healthyFor ((joining_idle joining ok).2 c)]
    exact not_healthyFor fun same => other (own.trans (congrArg some (Standing.assigned.inj same).1))
  · rw [← Option.some.inj ((serves_iff _ c).mp served)]
    exact serves_of_assigned joining

theorem joinRunning_pool {lose gain : Option Berth} (m : ModuleId) (x : StatusReport) {s : State}
    (own : ∀ c, (s.mods.get m).serves c = true → lose = some c) : s.PoolChange lose gain (joinRunning m x s) := by
  unfold joinRunning
  split
  next b joining =>
    have loses := own b (serves_of_assigned joining)
    split
    · dsimp only
      split
      · refine (join_pool joining loses).trans (giveBack_pool (b := b) ?_ fun c served => ?_)
        · rw [State.updMod_self]
        · rw [State.updMod_self] at served
          rw [loses]
          exact (serves_iff _ c).mp served
      · exact join_pool joining loses
    · exact .refl s
  next => exact .refl s

/-- A change that brings no module to a berth leaves module `m` with at most the berth it had. -/
theorem State.PoolChange.own {lose : Option Berth} {s t : State} {m : ModuleId} (h : s.PoolChange lose none t)
    (own : ∀ c, (s.mods.get m).serves c = true → lose = some c) (c : Berth) (served : (t.mods.get m).serves c = true) :
    lose = some c := (h.serves m c served).elim (own c) nofun

theorem reportFor_calm {o : Option Berth} {s t : State} (h : s.PoolChange o none t) : s.Calm (reportFor o s t) := by
  cases o with
  | none => exact h.calm nofun
  | some b => exact h.reported nofun

theorem tryAfterLockout_keeps_berths (o : Option Berth) (m : ModuleId) (s : State) :
    s.KeepsBerths (tryAfterLockout o m s) := by
  unfold tryAfterLockout
  split
  · exact tryIfNeeded_keeps_berths _ s
  · exact (State.Calm.refl s).keeps

theorem acceptStatus_keeps_berths (m : ModuleId) (x : StatusReport) (s : State) :
    s.KeepsBerths (acceptStatus m x s) := by
  have own (c : Berth) (served : (s.mods.get m).serves c = true) : (s.mods.get m).standing.berth? = some c :=
    (serves_iff _ c).mp served
  have taken := takeStatus_pool (gain := none) m x own
  have joined := taken.trans (joinRunning_pool m x (taken.own own))
  have counted := joined.trans (countFlags_pool m x.flags (joined.own own))
  have reported := (reportFor_calm counted).keeps
  unfold acceptStatus
  dsimp only
  split
  · exact reported.trans (tryPool_keeps_berths _)
  · exact reported.trans (tryAfterLockout_keeps_berths _ m _)

theorem statusRecord_keeps_berths (m : ModuleId) (ws : List Word) (s : State) : s.KeepsBerths (statusRecord m ws s) := by
  unfold statusRecord
  dsimp only
  split
  · exact (updMod_course m (fun r => { r with badCount := sat8 (r.badCount + 1) }) s ⟨rfl, rfl, rfl, rfl, rfl⟩).calm.keeps
  · split
    · split
      · exact (State.Calm.refl s).keeps
      · exact acceptStatus_keeps_berths m _ s
    · exact acceptStatus_keeps_berths m _ s

/-! ## Timers of a module (R23, R33) -/

theorem statusStale_keeps_berths (m : ModuleId) (s : State) : s.KeepsBerths (statusStale m s) := by
  have unfit : (s.mods.get m).SameCourse { s.mods.get m with stale := true, fit := false, staleTimer := .stopped } :=
    ⟨rfl, rfl, rfl, rfl, rfl⟩
  unfold statusStale
  dsimp only
  split
  · exact (updMod_course m (fun r => { r with stale := true, fit := false, staleTimer := .stopped }) s unfit).calm.keeps
  next b counting =>
    have serves := serves_of_counting counting
    have marked : s.PoolChange (some b) none (s.updMod m fun r =>
        { r with stale := true, fit := false, staleTimer := .stopped }) := updMod_pool_same unfit
    have own (c : Berth) (served : (s.mods.get m).serves c = true) : some b = some c :=
      ((serves_iff _ b).mp serves).symm.trans ((serves_iff _ c).mp served)
    have faulted := marked.trans
      (countedFault_pool (cause := lockoutCause ⟨false, false, false, false⟩ true)
        (by rw [State.updMod_self]; exact serves) (marked.own own))
    exact (faulted.reported nofun).keeps.trans (tryAfterLockout_keeps_berths (some b) m _)

/-- A module whose retry wait runs is in a retry wait state, and so not RUNNING. -/
theorem waiting_not_healthy {r : Module} (waits : r.retryWait ≠ .stopped) (ok : r.RetryOk) (c : Berth) :
    r.healthyFor c = false := by
  refine not_healthyFor fun running => ?_
  rcases ok with stopped | ⟨b, fast | slow⟩
  · exact waits stopped
  · exact nomatch fast.symm.trans running
  · exact nomatch slow.symm.trans running

theorem restartModule_pool {b : Berth} {m : ModuleId} {s : State} (serves : (s.mods.get m).serves b = true)
    (waits : (s.mods.get m).retryWait ≠ .stopped) : s.PoolChange none none (restartModule b m s) := by
  have whole : restartModule b m s = refreshMode m (s.updMod m fun r =>
      { r with
        retryWait := .stopped, returning := true, retryWindow := .running Config.retryWindowUs
        standing := .assigned b .joining, staleTimer := .running Config.statusStaleUs }) :=
    congrArg (refreshMode m) (State.updMod_updMod ..)
  rw [whole]
  refine refreshMode_pool ⟨fun _ => .inl rfl, rfl, fun ok c _ => ?_, fun c served => .inl ?_⟩
  · rw [waiting_not_healthy waits ok c]
    exact not_healthyFor nofun
  · rw [← Option.some.inj ((serves_iff _ c).mp served)]
    exact serves

theorem retryWaitEnd_keeps_berths {m : ModuleId} {s : State} (due : (s.mods.get m).retryWait.isDue = true) :
    s.KeepsBerths (retryWaitEnd m s) := by
  have waits : (s.mods.get m).retryWait ≠ .stopped := fun stopped => by rw [stopped] at due; cases due
  unfold retryWaitEnd
  split
  next b x at_ =>
    split
    · exact ((restartModule_pool (serves_of_assigned at_) waits).calm nofun).keeps
    · have released : s.PoolChange none none (releaseModule m s) :=
        releaseModule_pool fun ok c _ healthy =>
          absurd healthy (Bool.eq_false_iff.mp (waiting_not_healthy waits ok c))
      exact (released.calm nofun).keeps.trans (tryPool_keeps_berths _)
  next other =>
    have stopped : s.PoolChange none none (s.updMod m fun r => { r with retryWait := .stopped }) :=
      updMod_pool ⟨id, fun _ => .inl rfl, rfl, fun _ _ _ => rfl, fun _ => .inl⟩
    exact (stopped.calm nofun).keeps

/-! ## Modules of a berth that trips, returns or is released (R14, R15) -/

theorem blockModules_pool (b : Berth) (s : State) : s.PoolChange (some b) none (blockModules b s) := by
  refine forModules_pool (P := fun _ => True) (fun m t _ => ?_) s trivial
  dsimp only
  split
  next served =>
    have serves : (t.mods.get m).serves b = true := served.elim serves_of_assigned serves_of_assigned
    have stopped (ok : (t.mods.get m).RetryOk) : (t.mods.get m).retryWait = .stopped :=
      served.elim (fun at_ => assigned_idle at_ nofun nofun ok) fun at_ => assigned_idle at_ nofun nofun ok
    refine refreshMode_pool ⟨fun ok => .inl (stopped ok), rfl, fun _ c other => ?_, fun c now => .inl ?_⟩
    · have unhealthy : (t.mods.get m).healthyFor c = false := Bool.eq_false_iff.mpr fun healthy =>
        other (((serves_iff _ b).mp serves).symm.trans ((serves_iff _ c).mp (serves_of_healthy healthy)))
      rw [unhealthy]
      exact not_healthyFor nofun
    · rw [← Option.some.inj ((serves_iff _ c).mp now)]
      exact serves
  next => exact .refl t

theorem unblockModules_pool (b : Berth) (s : State) : s.PoolChange none (some b) (unblockModules b s) := by
  refine forModules_pool (P := fun _ => True) (fun m t _ => ?_) s trivial
  split
  next at_ =>
    refine enterJoining_pool fun ok => ⟨assigned_idle at_ nofun nofun ok, fun c running => ?_⟩
    exact nomatch at_.symm.trans running
  next => exact .refl t

theorem releaseModules_pool (b : Berth) (s : State) : s.PoolChange (some b) none (releaseModules b s) := by
  refine forModules_pool (P := fun _ => True) (fun m t _ => ?_) s trivial
  split
  next serves =>
    exact releaseModule_pool fun _ c served _ =>
      ((serves_iff _ b).mp serves).symm.trans ((serves_iff _ c).mp served)
  next => exact .refl t

/-! ## Service actions (R39) -/

/-- R19: a module that is not ASSIGNED is OFF. -/
theorem commandedMode_unassigned {x : Standing} (h : x.berth? = none) (s : State) : s.commandedMode x = .off := by
  cases x with
  | assigned b r => cases h
  | _ => rfl

/-- R39: a module that is not ASSIGNED moves to another such pool state. -/
theorem updMod_unassigned_keeps {m : ModuleId} {s : State} (f : Module → Module)
    (away : (s.mods.get m).standing.berth? = none) (gone : (f (s.mods.get m)).standing.berth? = none)
    (mode : (f (s.mods.get m)).mode = (s.mods.get m).mode)
    (waits : (f (s.mods.get m)).retryWait = (s.mods.get m).retryWait)
    (rating : (f (s.mods.get m)).rating = (s.mods.get m).rating) : s.KeepsBerths (s.updMod m f) := by
  have nowhere {r : Module} (h : r.standing.berth? = none) (c : Berth) (x : RunState) : r.standing ≠ .assigned c x :=
    fun at_ => by rw [at_] at h; cases h
  have change : s.PoolChange none none (s.updMod m f) := by
    refine updMod_pool ⟨fun ok => ?_, fun ok => .inl ?_, rating, fun _ c _ => ?_, fun c served => ?_⟩
    · rw [mode, ok, commandedMode_unassigned away, commandedMode_unassigned gone]
    · rw [waits]
      exact ok.stopped fun c => ⟨nowhere away c _, nowhere away c _⟩
    · rw [not_healthyFor (nowhere away c _), not_healthyFor (nowhere gone c _)]
    · exact absurd served (Bool.eq_false_iff.mp (not_serves_of_none gone c))
  exact (change.calm nofun).keeps

theorem serve_keeps_berths (a : ServiceAction) (m : ModuleId) (s : State) : s.KeepsBerths (serve a m s).2 := by
  unfold serve clearLockout
  split <;> dsimp only
  · exact (State.Calm.refl s).keeps
  next at_ =>
    have moved := updMod_unassigned_keeps (m := m) (s := s)
      (fun r => { r with standing := .available, deglitch := ⟨0, 0, 0, 0⟩, fastCount := 0, slowCount := 0 })
      (by rw [at_]; rfl) rfl rfl rfl rfl
    exact moved.trans (tryPool_keeps_berths _)
  next at_ =>
    exact updMod_unassigned_keeps (fun r => { r with standing := .outOfService }) (by rw [at_]; rfl) rfl rfl rfl rfl
  next at_ =>
    have moved := updMod_unassigned_keeps (m := m) (s := s) (fun r => { r with standing := .available })
      (by rw [at_]; rfl) rfl rfl rfl rfl
    exact moved.trans (tryPool_keeps_berths _)
  · exact (State.Calm.refl s).keeps

theorem serviceWrite_keeps_berths (v : Word) (s : State) : s.KeepsBerths (serviceWrite v s) := by
  have answered (i : BitVec 4) (a : BitVec 8) (o : ServiceOutcome) (u : State) : u.KeepsBerths (serviceResult i a o u) :=
    (calm_of_drive (s := u) (t := serviceResult i a o u) rfl).keeps
  unfold serviceWrite serviceRequest
  dsimp only
  split
  · split
    · exact answered _ _ _ s
    · exact (serve_keeps_berths _ _ s).trans (answered _ _ _ _)
  · exact answered _ _ _ s

end Sys2Proof.Machine
end

section
/-! Proofs: what the sequencers, the Synchronising Units and the intake do keeps the invariants of the berths. -/

namespace Sys2Proof.Machine

/-! ## Contexts -/

theorem updSeq_course_of (b : Berth) (f : Seq → Seq) (h : ∀ q : Seq, q.SameCourse (f q)) (s : State) :
    s.Calm (s.updSeq b f) := (updSeq_course b f s (h _)).calm

theorem updSync_calm (b : Berth) (f : Sync → Sync)
    (closes : ∀ u : Sync, (f u).closePulse.isRunning = true → u.closePulse.isRunning = true)
    (trips : ∀ u : Sync, (f u).tripPulse.isRunning = true → u.tripPulse.isRunning = true) (s : State) :
    s.Calm (s.updSync b f) := (updSync_course b f s (closes _) (trips _)).calm

/-- A change of one context: the setpoints of the other berths do not depend on it. -/
theorem updSeq_setpointsOk {b : Berth} {f : Seq → Seq} {s : State}
    (own : (s.seq.get b).Bounded (s.bound b) → (f (s.seq.get b)).Bounded ((s.updSeq b f).bound b)) (ok : s.SetpointsOk) :
    (s.updSeq b f).SetpointsOk := by
  intro c
  rw [State.setpointOk_iff]
  by_cases same : c = b
  · rw [same, State.updSeq_self]
    exact own ((s.setpointOk_iff b).mp (ok b))
  · have demand : (s.updSeq b f).demand c = s.demand c := State.demand_congr (by rw [State.updSeq_other _ _ _ _ same])
    have bound : (s.updSeq b f).bound c = s.bound c := congrArg (fun d => min d (s.healthy c)) demand
    rw [bound, State.updSeq_other _ _ _ _ same]
    exact (s.setpointOk_iff c).mp (ok c)

/-- R85: a trip pulse ends a close pulse of its berth. -/
theorem issueTrip_calm (b : Berth) (s : State) : s.Calm (issueTrip b s) := by
  refine ⟨⟨⟨fun ok c => ?_, id, id, id, fun _ => id⟩, id⟩, rfl, fun _ => .rfl⟩
  by_cases same : c = b
  · rw [same]
    intro lines
    have closes : (issueTrip b s).closeLine b = false := by
      unfold State.closeLine issueTrip
      rw [State.updSync_self]
      rfl
    exact Bool.eq_false_iff.mp closes lines.1
  · have kept : (issueTrip b s).sync.get c = s.sync.get c := State.updSync_other _ _ _ _ same
    have apart := ok c
    unfold State.closeLine State.tripLine at apart ⊢
    rw [kept]
    exact apart

/-- R118: entry to TRIPPED. -/
theorem enterTripped_steady (b : Berth) (c : TripCause) (s : State) : s.Steady (enterTripped b c s) := by
  by_cases tripped : (s.seq.get b).state = .tripped
  · have still : enterTripped b c s = s := if_pos tripped
    rw [still]
    exact .refl s
  rw [enterTripped_eq b c s tripped]
  have caused := updSeq_course_of b (fun q => { q with tripCause := some c }) (fun q => ⟨rfl, rfl, rfl, rfl, .inl⟩) s
  have entered : (s.updSeq b fun q => { q with tripCause := some c }).Steady _ :=
    enterState_active b .tripped _
  have blocked := (blockModules_pool b (enterState b .tripped (s.updSeq b fun q => { q with tripCause := some c }))).calm_of_none
    nofun (by rw [enterState_state]; rfl)
  have reported := reportIfChanged_calm b (s.healthy b) (trippedMid b (s.updSeq b fun q => { q with tripCause := some c }))
  have told (u : State) : u.Calm (trippedRest b c (s.healthy b) (s.seq.get b).state.code u) := by
    have marked := (reportIfChanged_calm b (s.healthy b) u).trans
      (calm_of_drive (t := setSummary (.berthTrip b) (reportIfChanged b (s.healthy b) u)) rfl)
    have emitted := marked.trans (emitEvent_calm .tripped c.toCause.code (some b) [put 0 32 (s.seq.get b).state.code] _)
    have noted (v : State) : v.Calm (noteTrip b v) := calm_of_drive rfl
    exact (emitted.trans (noted _)).trans (completeCurrent_calm b _ _ _)
  exact (caused.toSteady.trans entered).trans (blocked.trans (told _)).toSteady

theorem enterTripped_state (b : Berth) (c : TripCause) (s : State) : ((enterTripped b c s).seq.get b).state = .tripped := by
  by_cases tripped : (s.seq.get b).state = .tripped
  · have still : enterTripped b c s = s := if_pos tripped
    rw [still]
    exact tripped
  · exact (enterTripped_trips b c s tripped).1.1.state

theorem enterTripped_calm {b : Berth} (c : TripCause) {s : State} (old : (s.seq.get b).state ≠ .waitingModules) :
    s.Calm (enterTripped b c s) := by
  refine ⟨enterTripped_steady b c s, by rw [(enterTripped_only b c s).claims], fun d => ?_⟩
  by_cases same : d = b
  · rw [same, enterTripped_state]
    exact iff_of_false nofun old
  · rw [(enterTripped_only b c s).seq d same]

theorem controlledOpen_calm {b : Berth} (c : OpenCause) {s : State} (old : (s.seq.get b).state ≠ .waitingModules) :
    s.Calm (controlledOpen b c s) := by
  have caused := updSeq_course_of b (fun q => { q with openCause := some c }) (fun q => ⟨rfl, rfl, rfl, rfl, .inl⟩) s
  have opening := enterState_calm .opening (b := b) (s := s.updSeq b fun q => { q with openCause := some c })
    (by rw [State.updSeq_self]; exact old)
  exact (caused.trans opening).trans (issueTrip_calm b _)

/-! ## Energising (R103, R104) -/

theorem firstEnergised_calm (b : Berth) (s : State) : s.Calm (firstEnergised b s) := by
  unfold firstEnergised
  split
  · exact .refl s
  next p _ =>
    have marked := updSeq_course_of b (fun q => { q with firstEnergised := true }) (fun q => ⟨rfl, rfl, rfl, rfl, .inl⟩) s
    exact (marked.trans (calm_of_drive (openSession_drive b p _))).trans (emitEvent_calm ..)

theorem becomeEnergised_calm {b : Berth} {s : State} (old : (s.seq.get b).state ≠ .waitingModules) :
    s.Calm (becomeEnergised b s) := by
  have entered := enterState_calm .energised old
  unfold becomeEnergised
  dsimp only
  split
  · exact entered.trans (completeCurrent_calm ..)
  · exact (entered.trans (firstEnergised_calm b _)).trans (completeCurrent_calm ..)

theorem checkEnergising_calm (b : Berth) (s : State) : s.Calm (checkEnergising b s) := by
  unfold checkEnergising
  split
  next passes => exact becomeEnergised_calm (by rw [passes.1]; nofun)
  next => exact .refl s

/-! ## Feeder records, and the supervisor's loss (R110, R115 to R117, R120) -/

theorem feederAccepted_calm (b : Berth) (s : State) : s.Calm (feederAccepted b s) := by
  have cleared := updSeq_course_of b (fun q => { q with staleHold := false }) (fun q => ⟨rfl, rfl, rfl, rfl, .inl⟩) s
  exact cleared.trans ((refreshDirection_course b _).calm.trans (judge_course b _).calm)

theorem feederWentStale_calm (b : Berth) (s : State) : s.Calm (feederWentStale b s) :=
  (holdIfStale_course b s).calm.trans ((refreshDirection_course b _).calm.trans (holdTimers_course b _).calm)

theorem compareRelease_calm (b : Berth) (p : Int) (s : State) : s.Calm (compareRelease b p s) := by
  unfold compareRelease
  split
  next releases => exact controlledOpen_calm _ (by rw [releases.1]; nofun)
  next => exact .refl s

theorem supervisorLost_calm (b : Berth) (s : State) : s.Calm (supervisorLost b s) := by
  have leaves (old : (s.seq.get b).state ≠ .waitingModules) :
      s.Calm (completeCurrent b .aborted (some .lost) (enterState b .energised s)) :=
    (enterState_calm .energised old).trans (completeCurrent_calm ..)
  unfold supervisorLost
  split
  next at_ => exact leaves (by rw [at_]; nofun)
  next at_ => exact leaves (by rw [at_]; nofun)
  next =>
    have held := updSeq_course_of b (fun q => { q with lostHold := true }) (fun q => ⟨rfl, rfl, rfl, rfl, .inl⟩) s
    exact held.trans (refreshDirection_course b _).calm
  next => exact .refl s

theorem supervisorRestored_calm (b : Berth) (s : State) : s.Calm (supervisorRestored b s) := by
  have freed := updSeq_course_of b (fun q => { q with lostHold := false }) (fun q => ⟨rfl, rfl, rfl, rfl, .inl⟩) s
  exact freed.trans (refreshDirection_course b _).calm

/-! ## The Synchronising Unit (R79 to R93) -/

theorem dropPrediction_calm (b : Berth) (s : State) : s.Calm (s.updSync b dropPrediction) :=
  updSync_calm b dropPrediction (fun _ => id) (fun _ => id) s

theorem setWindow_calm (b : Berth) (w : WindowResult) (s : State) :
    s.Calm (s.updSync b fun u => { u with window := w }) := updSync_calm b (fun u => { u with window := w }) (fun _ => id) (fun _ => id) s

theorem predict_calm (b : Berth) (s : State) : s.Calm (predict b s) := by
  unfold predict
  split
  next p x _ _ =>
    exact updSync_calm b (setPrediction s.now (sweepTime ((s.osc.get b).lead p s.now) x.toNat (s.closeUs b)) (s.closeUs b))
      (fun _ => id) (fun _ => id) s
  next => exact .refl s

theorem not_waiting_of_watching {st : BerthState} (h : st.isWatching = true) : st ≠ .waitingModules := by
  rintro rfl
  cases h

theorem evaluate_calm (b : Berth) (s : State) : s.Calm (evaluate b s) := by
  have seen := setWindow_calm b (s.evalWindow b) s
  unfold evaluate
  dsimp only
  split
  next watches =>
    have old := not_waiting_of_watching watches
    split
    · split
      · exact (seen.trans (enterState_calm .armed old)).trans (predict_calm b _)
      · exact seen.trans (predict_calm b _)
    · split
      · exact (seen.trans (dropPrediction_calm b _)).trans (enterState_calm .matching old)
      · exact seen
  next => exact .refl s

theorem startWatching_calm (b : Berth) (s : State) : s.Calm (startWatching b s) := by
  have begun := updSync_calm b (fun u => { u with closeUsed := false, prediction := none, closeDue := .stopped })
    (fun _ => id) (fun _ => id) s
  exact begun.trans (evaluate_calm b _)

/-- R83, R84: a close pulse starts while TRIP is low. -/
theorem pulseClose_calm {b : Berth} {s : State} (low : s.tripLine b = false) (now : Word) (us : Nat) :
    s.Calm (s.updSync b (pulseClose now us)) := by
  refine ⟨⟨⟨fun ok c => ?_, id, id, id, fun _ => id⟩, id⟩, rfl, fun _ => .rfl⟩
  by_cases same : c = b
  · rw [same]
    intro lines
    have still : (s.updSync b (pulseClose now us)).tripLine b = s.tripLine b := by
      unfold State.tripLine
      rw [State.updSync_self]
      rfl
    exact Bool.eq_false_iff.mp low (still ▸ lines.2)
  · have kept : (s.updSync b (pulseClose now us)).sync.get c = s.sync.get c := State.updSync_other _ _ _ _ same
    have apart := ok c
    unfold State.closeLine State.tripLine at apart ⊢
    rw [kept]
    exact apart

theorem closeDue_calm {b : Berth} {s : State} (old : (s.seq.get b).state ≠ .waitingModules) : s.Calm (closeDue b s) := by
  have seen := setWindow_calm b (s.evalWindow b) s
  unfold closeDue
  dsimp only
  split
  · exact (seen.trans (dropPrediction_calm b _)).trans (enterState_calm .matching old)
  · split
    · exact seen.trans (updSync_calm b (postponeClose _) (fun _ => id) (fun _ => id) _)
    next free =>
      rw [Bool.or_eq_true, Bool.or_eq_true, not_or, not_or, Bool.not_eq_true] at free
      have low := Bool.eq_false_iff.mpr free.1.2
      exact (seen.trans (pulseClose_calm low _ _)).trans (enterState_calm .closing old)

theorem emitRough_calm (b : Berth) (r : LastClose) (s : State) : s.Calm (emitRough b r s) := by
  unfold emitRough
  split
  · exact emitEvent_calm ..
  · exact .refl s

theorem confirmClose_calm {b : Berth} {s : State} (old : (s.seq.get b).state ≠ .waitingModules) :
    s.Calm (confirmClose b s) := by
  have confirmed := updSync_calm b (fun u => { u with closeConfirm := .stopped, lastClose := some (s.closeRecord b) })
    (fun _ => id) (fun _ => id) s
  have rough := confirmed.trans (emitRough_calm b (s.closeRecord b) _)
  have noted (u : State) : u.Calm (noteParallel b u) := calm_of_drive rfl
  have state : ((noteParallel b (emitRough b (s.closeRecord b) (s.updSync b fun u =>
      { u with closeConfirm := .stopped, lastClose := some (s.closeRecord b) }))).seq.get b).state = (s.seq.get b).state := by
    unfold noteParallel emitRough
    split
    · rw [State.updSession_seq, emitEvent_seq]; rfl
    · rfl
  have entered := (rough.trans (noted _)).trans (enterState_calm .parallelIn (state ▸ old))
  exact (entered.trans (emitEvent_calm ..)).trans (completeCurrent_calm ..)

theorem closeFailed_calm {b : Berth} {s : State} (old : (s.seq.get b).state ≠ .waitingModules) :
    s.Calm (closeFailed b s) := by
  have ended := updSync_calm b (fun u => { u with closeConfirm := .stopped }) (fun _ => id) (fun _ => id) s
  exact (ended.trans (enterState_calm .energised old)).trans (completeCurrent_calm ..)

theorem startDeadTime_calm (b : Berth) (s : State) : s.Calm (startDeadTime b s) :=
  updSync_calm b (fun u => { u with deadTime := .running ((s.params.get b).deadTimeS * Config.secUs) })
    (fun _ => id) (fun _ => id) s

theorem setView_calm (b : Berth) (closed : Bool) (s : State) : s.Calm (setView b closed s) :=
  updSync_calm b (fun u => { u with level := closed, heldUs := 0, view := closed }) (fun _ => id) (fun _ => id) s

theorem openingConfirmed_calm {b : Berth} {s : State} (old : (s.seq.get b).state ≠ .waitingModules) :
    s.Calm (openingConfirmed b s) :=
  ((enterState_calm .energised old).trans (emitEvent_calm ..)).trans (completeCurrent_calm ..)

theorem externalOpen_calm {b : Berth} {s : State} (old : (s.seq.get b).state ≠ .waitingModules) :
    s.Calm (externalOpen b s) :=
  ((enterState_calm .energised old).trans (emitEvent_calm ..)).trans (completeCurrent_calm ..)

theorem breakerFall_calm (b : Berth) (s : State) : s.Calm (breakerFall b s) := by
  have dead := startDeadTime_calm b s
  unfold breakerFall
  dsimp only
  split
  next at_ =>
    have ended := updSync_calm b (fun u => { u with openConfirm := .stopped }) (fun _ => id) (fun _ => id) (startDeadTime b s)
    exact (dead.trans ended).trans (openingConfirmed_calm (s := (startDeadTime b s).updSync b _)
      (by rw [State.updSync_seq, at_]; nofun))
  next at_ => exact dead.trans (externalOpen_calm (by rw [at_]; nofun))
  next at_ => exact dead.trans (externalOpen_calm (by rw [at_]; nofun))
  next at_ => exact dead.trans (externalOpen_calm (by rw [at_]; nofun))
  next => exact dead

theorem openFailed_calm {b : Berth} {s : State} (old : (s.seq.get b).state ≠ .waitingModules) :
    s.Calm (openFailed b s) := by
  have ended := updSync_calm b (fun u => { u with openConfirm := .stopped, secondTrip := true })
    (fun _ => id) (fun _ => id) s
  exact (ended.trans (issueTrip_calm b _)).trans (enterTripped_calm _ old)

theorem tripPulseEnd_calm (b : Berth) (s : State) : s.Calm (tripPulseEnd b s) :=
  updSync_calm b (fun u =>
    { u with
      tripPulse := .stopped
      openConfirm := if (s.seq.get b).state = .opening then .running Config.openConfirmUs else u.openConfirm
      secondTrip := false }) (fun _ => id) (fun _ => nofun) s

theorem overloadExpired_calm {b : Berth} {s : State} (old : (s.seq.get b).state ≠ .waitingModules) :
    s.Calm (overloadExpired b s) := by
  unfold overloadExpired
  split
  · exact controlledOpen_calm _ old
  · exact controlledOpen_calm _ old
  · exact (issueTrip_calm b s).trans (enterTripped_calm _ old)
  · exact enterTripped_calm _ old

/-! ## An uncommanded close, and berths that leave the claim queue (R91, R9) -/

/-- R9: a berth's claim is removed as the berth leaves WAITING_MODULES. -/
theorem claimsOk_of_removed {b : Berth} {s t : State} (claims : t.claims = (removeClaim b s).claims)
    (own : (t.seq.get b).state ≠ .waitingModules) (others : ∀ c, c ≠ b → t.seq.get c = s.seq.get c)
    (ok : s.ClaimsOk) : t.ClaimsOk := by
  intro c
  rw [claims, removeClaim]
  dsimp only
  rw [List.countP_filter]
  by_cases same : c = b
  · rw [same, if_neg own, List.countP_eq_zero]
    intro x _ both
    obtain ⟨is, isnt⟩ := Bool.and_eq_true_iff.mp both
    exact bne_iff_ne.mp isnt (beq_iff_eq.mp is)
  · rw [others c same, ← ok c]
    refine List.countP_congr fun x _ => ?_
    rw [Bool.and_eq_true, and_iff_left_iff_imp]
    intro is
    exact bne_iff_ne.mpr fun at_ => same ((beq_iff_eq.mp is).symm.trans at_)

theorem uncommandedClose_keeps_berths (b : Berth) (s : State) : s.KeepsBerths (uncommandedClose b s) := by
  let u := (issueTrip b s).updSync b fun u => { u with closeDue := .stopped, secondTrip := false }
  have stopped : (issueTrip b s).Calm u :=
    updSync_calm b (fun u => { u with closeDue := .stopped, secondTrip := false }) (fun _ => id) (fun _ => id) _
  have pulsed : s.Calm u := (issueTrip_calm b s).trans stopped
  have tripped := (claims_steady (removeClaim b u).claims u).trans (enterTripped_steady b .uncommandedClose (removeClaim b u))
  have only := enterTripped_only b .uncommandedClose (removeClaim b u)
  have kept : u.KeepsBerths (enterTripped b .uncommandedClose (removeClaim b u)) :=
    tripped.keeps (claimsOk_of_removed only.claims (by rw [enterTripped_state]; nofun) only.seq)
  exact (pulsed.keeps.trans kept).trans (tryIf_keeps_berths (s.headClaim b) _)

theorem tripIfClosed_keeps_berths (b : Berth) (s : State) : s.KeepsBerths (tripIfClosed b s) := by
  unfold tripIfClosed
  split
  · exact uncommandedClose_keeps_berths b s
  · exact (State.Calm.refl s).keeps

theorem breakerRise_keeps_berths (b : Berth) (s : State) : s.KeepsBerths (breakerRise b s) := by
  unfold breakerRise
  split
  next at_ => exact (confirmClose_calm (by rw [at_]; nofun)).keeps
  · exact (State.Calm.refl s).keeps
  · exact (State.Calm.refl s).keeps
  · exact (State.Calm.refl s).keeps
  · exact (State.Calm.refl s).keeps
  · exact uncommandedClose_keeps_berths b s

/-! ## The intake (R65, R66) -/

theorem countFailure_calm (b : Berth) (f : Counters → Counters) (s : State) : s.Calm (countFailure b f s) :=
  calm_of_drive rfl

theorem updOsc_calm (b : Berth) (f : Osc → Osc) (h : ∀ o : Osc, o.Ok → (f o).Ok) (s : State) : s.Calm (s.updOsc b f) :=
  (updOsc_course b f s (h _)).calm

theorem acceptShip_calm (b : Berth) (p : Phasor) (s : State) : s.Calm (acceptShip b p s) := by
  let u := s.updMeas b fun m => { m with ship := m.ship.refresh (s.stalenessUs b) (some p) }
  have slot : s.Calm u := calm_of_drive rfl
  have locked := slot.trans (updOsc_calm b (Osc.takePhasor (u.oscEnv b) p) (fun _ => .takePhasor _ p) u)
  have residual := locked.trans (updSync_calm b (takeShipPhasor p) (fun _ => id) (fun _ => id) _)
  exact residual.trans (evaluate_calm b _)

theorem acceptShore_calm (b : Berth) (p : Phasor) (s : State) : s.Calm (acceptShore b p s) := by
  have slot : s.Calm (s.updMeas b fun m => { m with shore := m.shore.refresh (s.stalenessUs b) (some p) }) :=
    calm_of_drive rfl
  exact slot.trans ((checkEnergising_calm b _).trans (evaluate_calm b _))

theorem acceptFeeder_calm (b : Berth) (f : Feeder) (s : State) : s.Calm (acceptFeeder b f s) := by
  have slot : s.Calm (s.updMeas b fun m => { m with feeder := m.feeder.refresh (s.stalenessUs b) (some f) }) :=
    calm_of_drive rfl
  have read := slot.trans (calm_of_drive (takeReading_drive b f _))
  exact read.trans ((feederAccepted_calm b _).trans (compareRelease_calm b f.power _))

theorem acceptFeederFault_calm (b : Berth) (s : State) : s.Calm (acceptFeederFault b s) := by
  let u := countFailure b (fun c => { c with meterStatus := sat16 (c.meterStatus + 1) }) s
  have slot : s.Calm (u.updMeas b fun m => { m with feeder := m.feeder.refresh (u.stalenessUs b) none }) :=
    calm_of_drive rfl
  unfold acceptFeederFault
  dsimp only
  split
  · exact slot
  · exact slot.trans (feederAccepted_calm b _)

theorem takeValues_calm (b : Berth) (k : SlotKind) (r : MeasRecord) (s : State) : s.Calm (takeValues b k r s) := by
  unfold takeValues
  split
  · split
    · exact acceptShip_calm b _ s
    · exact countFailure_calm b _ s
  · split
    · exact acceptShore_calm b _ s
    · exact countFailure_calm b _ s
  · split
    · exact acceptFeeder_calm b _ s
    · exact acceptFeederFault_calm b s

theorem takeMeasurement_calm (b : Berth) (w0 w1 w2 w3 : Word) (s : State) :
    s.Calm (takeMeasurement b w0 w1 w2 w3 s) := by
  unfold takeMeasurement
  dsimp only
  split
  · exact countFailure_calm b _ s
  · split
    · exact countFailure_calm b _ s
    · split
      next u k ordered _ => exact (calm_of_drive (applySeq_drive ordered)).trans (takeValues_calm b k _ u)
      next => exact countFailure_calm b _ s

theorem slotStale_calm (b : Berth) (k : SlotKind) (s : State) : s.Calm (slotStale b k s) := by
  cases k with
  | shipPhasor =>
    let u := setSummary (.measureStale b) (s.updMeas b fun m => { m with ship := m.ship.goStale })
    have slot : s.Calm u := calm_of_drive rfl
    have held := slot.trans (updOsc_calm b (Osc.goStale (u.oscEnv b)) (fun _ => .goStale _) u)
    have forgot := held.trans (updSync_calm b forgetShipPhasor (fun _ => id) (fun _ => id) _)
    exact forgot.trans (evaluate_calm b _)
  | shorePhasor =>
    have slot : s.Calm (setSummary (.measureStale b) (s.updMeas b fun m => { m with shore := m.shore.goStale })) :=
      calm_of_drive rfl
    exact slot.trans (evaluate_calm b _)
  | feederPower =>
    let u := setSummary (.measureStale b) (s.updMeas b fun m =>
      { m with feeder := m.feeder.goStale, staleBetween := m.staleBetween || m.base.isSome })
    have slot : s.Calm (noteGap b u) := calm_of_drive rfl
    exact slot.trans (feederWentStale_calm b _)

end Sys2Proof.Machine
end

section
/-! Proofs: entry to IDLE, requests, control words and commits keep the invariants of the berths. -/

namespace Sys2Proof.Machine

/-! ## Entry to IDLE (R121) -/

/-- R121: entry to IDLE, but for the records it produces and the parameters it brings into force. -/
theorem enterIdle_drive (b : Berth) (s : State) :
    ∃ u : State, u.drive = s.drive ∧ (enterIdle b s).drive = ((enterState b .idle u).updSeq b idleContext).drive := by
  have closed := closeSession_drive b 1 s.clock.time s
  unfold enterIdle
  dsimp only
  split
  · refine ⟨emitReleased b (closeSession b 1 s.clock.time s), ?_, paramsIntoForce_drive b _⟩
    exact (emitEvent_drive ..).trans closed
  · exact ⟨_, closed, paramsIntoForce_drive b _⟩

theorem idleContext_calm (b : Berth) (s : State) :
    s.Calm (s.updSeq b idleContext) := by
  refine updSeq_calm rfl fun ok => updSeq_setpointsOk (fun bounded => ?_) ok
  exact
    { within := Nat.zero_le _
      zero := fun _ => rfl
      target := fun _ => Nat.zero_le _
      rising := bounded.rising }

theorem enterIdle_keepsDrive (b : Berth) (s : State) : s.KeepsDrive (enterIdle b s) := by
  obtain ⟨u, same, idled⟩ := enterIdle_drive b s
  have entered := enterState_keepsDrive b .idle u
  have idle := idleContext_calm b (enterState b .idle u)
  exact (((calm_of_drive same).toKeepsDrive.trans entered).trans idle.toKeepsDrive).trans
    (calm_of_drive idled).toKeepsDrive

theorem enterIdle_state (b : Berth) (s : State) : ((enterIdle b s).seq.get b).state = .idle := by
  obtain ⟨u, -, idled⟩ := enterIdle_drive b s
  have seq : (enterIdle b s).seq = ((enterState b .idle u).updSeq b idleContext).seq := congrArg Drive.seq idled
  rw [seq, State.updSeq_self]
  exact enterState_state b .idle u

theorem enterIdle_seq_other {b c : Berth} (h : c ≠ b) (s : State) : (enterIdle b s).seq.get c = s.seq.get c := by
  obtain ⟨u, same, idled⟩ := enterIdle_drive b s
  have seq : (enterIdle b s).seq = ((enterState b .idle u).updSeq b idleContext).seq := congrArg Drive.seq idled
  have before : u.seq = s.seq := congrArg Drive.seq same
  rw [seq, State.updSeq_other _ _ _ _ h, enterState_seq_other h, before]

theorem enterIdle_claims (b : Berth) (s : State) : (enterIdle b s).claims = s.claims := by
  obtain ⟨u, same, idled⟩ := enterIdle_drive b s
  have claims : (enterIdle b s).claims = (enterState b .idle u).claims := congrArg Drive.claims idled
  have before : u.claims = s.claims := congrArg Drive.claims same
  rw [claims, (enterState_only b .idle u).claims, before]

theorem enterIdle_serves (b c : Berth) (s : State) (m : ModuleId) :
    ((enterIdle b s).mods.get m).serves c = (s.mods.get m).serves c := by
  obtain ⟨u, same, idled⟩ := enterIdle_drive b s
  have mods : (enterIdle b s).mods = (enterState b .idle u).mods := congrArg Drive.mods idled
  have before : u.mods = s.mods := congrArg Drive.mods same
  rw [mods, enterState_serves, before]

/-- Entry to IDLE of a berth that has no module. -/
theorem enterIdle_idleOk {b : Berth} {s : State} (none : ∀ m, (s.mods.get m).serves b = false) (ok : s.IdleOk) :
    (enterIdle b s).IdleOk := by
  intro c idle m
  rw [enterIdle_serves]
  by_cases same : c = b
  · rw [same]; exact none m
  · rw [enterIdle_seq_other same] at idle
    exact ok c idle m

/-- R9, R121: a berth leaves the claim queue for IDLE. -/
theorem unclaimed_keeps_berths {b : Berth} {s : State} (waits : s.ClaimsOk → (s.seq.get b).state = .waitingModules) :
    s.KeepsBerths (enterIdle b (removeClaim b s)) where
  toKeepsDrive := (claims_steady (removeClaim b s).claims s).toKeepsDrive.trans (enterIdle_keepsDrive b (removeClaim b s))
  claims := claimsOk_of_removed (enterIdle_claims b (removeClaim b s)) (by rw [enterIdle_state]; nofun)
    fun _ ne => enterIdle_seq_other ne (removeClaim b s)
  idle claimed ok := enterIdle_idleOk (s := removeClaim b s) (ok b (.inr (waits claimed))) ok

theorem claimTimeout_keeps_berths {b : Berth} {s : State} (waits : s.ClaimsOk → (s.seq.get b).state = .waitingModules) :
    s.KeepsBerths (claimTimeout b s) :=
  ((unclaimed_keeps_berths waits).trans (completeCurrent_calm b _ _ _).keeps).trans
    (tryIf_keeps_berths (s.headClaim b) _)

/-! ## The release of a berth's modules (R15, R114) -/

/-- R15: a released module. -/
def Module.released (s : State) (r : Module) : Module :=
  { refreshed s (r.left .available) with
    retryWait := .stopped, fastCount := 0, slowCount := 0, retryWindow := .stopped, blankExpiry := none }

theorem releaseModule_eq (m : ModuleId) (s : State) : releaseModule m s = s.updMod m (Module.released s) := by
  unfold releaseModule
  rw [leaveBerth_eq]
  exact State.updMod_updMod ..

theorem released_serves (s : State) (r : Module) (b : Berth) : (r.released s).serves b = false :=
  not_serves_of_none (congrArg Standing.berth? (refreshed_drive s (r.left .available)).standing) b

theorem releaseModules_none (b : Berth) (s : State) (m : ModuleId) :
    ((releaseModules b s).mods.get m).serves b = false := by
  have at_ : (releaseModules b s).mods.get m = _ :=
    forModules_get (h := fun s _ r => if r.serves b = true then r.released s else r)
      (fun m s => whenServes_eq (h := fun s _ r => r.released s) releaseModule_eq b m s) (fun _ _ => rfl) s m
  rw [at_]
  split
  · exact released_serves s _ b
  next not => exact Bool.eq_false_iff.mpr not

/-- R114: DE_ENERGISING is complete. -/
theorem deEnergised_keeps_berths {b : Berth} {s : State} (at_ : (s.seq.get b).state = .deEnergising) :
    s.KeepsBerths (deEnergised b s) := by
  let t := reportIfChanged b (s.healthy b) (releaseModules b s)
  let u := tryPoolBut (some b) t
  have released : s.Calm t := (releaseModules_pool b s).reported nofun
  have tried : s.KeepsBerths u := released.keeps.trans (tryPoolBut_keeps_berths (some b) t)
  have none (m : ModuleId) : (t.mods.get m).serves b = false := by
    have kept := (reportIfChanged_only b (s.healthy b) (releaseModules b s)).mods m (releaseModules_none b s m)
    rw [kept]
    exact releaseModules_none b s m
  have state (m : Berth) : (t.seq.get b).state ≠ .waitingModules := fun waits =>
    nomatch at_.symm.trans ((released.waits b).mp waits)
  have untouched (ok : s.ClaimsOk) : t.KeepsBerth b u := by
    refine tryPoolBut_keeps t (fun c mem same => ?_) (.inl rfl)
    have count := released.claimsOk ok b
    rw [if_neg (state b), List.countP_eq_zero] at count
    exact count c mem (beq_iff_eq.mpr same)
  have idled : s.KeepsBerths (enterIdle b u) := by
    refine ⟨tried.toKeepsDrive.trans (enterIdle_keepsDrive b u), fun ok c => ?_, fun ok idle => ?_⟩
    · have queue := tried.claims ok c
      rw [enterIdle_claims, queue]
      by_cases same : c = b
      · rw [same, enterIdle_state, (untouched ok).seq, if_neg (state b)]
        rfl
      · rw [enterIdle_seq_other same]
    · refine enterIdle_idleOk (fun m => ?_) (tried.idle ok idle)
      rw [Bool.eq_false_iff]
      intro served
      have same := (untouched ok).mods m (.inr served)
      rw [same] at served
      exact Bool.eq_false_iff.mp (none m) served
  exact idled.trans (completeCurrent_calm b .done Option.none _).keeps

/-- R14, R118: a berth leaves TRIPPED for ENERGISING. -/
theorem rejoin_keeps_berths {b : Berth} {s : State} (old : (s.seq.get b).state ≠ .waitingModules) :
    s.KeepsBerths (rejoin b s) := by
  have entered := enterState_calm .energising old
  have joined := (unblockModules_pool b (enterState b .energising s)).calm fun c same => by
    rw [← Option.some.inj same, enterState_state]; rfl
  exact (entered.trans joined).keeps.trans (tryIfNeeded_keeps_berths b _)

/-! ## Requests (R99 to R118) -/

theorem makeCurrent_calm (b : Berth) (k : RequestKind) (t : BitVec 16) (s : State) : s.Calm (makeCurrent b k t s) :=
  updSeq_course_of b (fun q => { q with current := some { kind := k, tag := t } }) (fun _ => ⟨rfl, rfl, rfl, rfl, .inl⟩) s

theorem makeCurrent_state (b : Berth) (k : RequestKind) (t : BitVec 16) (s : State) :
    ((makeCurrent b k t s).seq.get b).state = (s.seq.get b).state := by
  unfold makeCurrent
  rw [State.updSeq_self]

theorem refuse_keeps_berths (b : Berth) (k : BitVec 8) (t : BitVec 16) (o : ReqOutcome) (s : State) :
    s.KeepsBerths (refuse b k t o s) := (writeResult_calm b k t o none none s).keeps

/-- R102: CONNECT takes its profile in IDLE, where the setpoint is zero. -/
theorem takeProfile_calm {b : Berth} {s : State} (idle : (s.seq.get b).state = .idle) (p : ShipProfile) :
    s.Calm (s.updSeq b fun q => { q with profile := some p, firstEnergised := false }) := by
  refine updSeq_calm rfl fun ok => updSeq_setpointsOk (fun bounded => ?_) ok
  have unbound := bounded.of_none (k := State.bound (s.updSeq b fun q =>
    { q with profile := some p, firstEnergised := false }) b) (by rw [idle]; rfl)
  exact ⟨unbound.within, unbound.zero, unbound.target, unbound.rising⟩

/-- R103: a CONNECT that is served at once. -/
theorem energiseWith_keeps_berths {b : Berth} {ms : List ModuleId} {s : State} (idle : (s.seq.get b).state = .idle)
    (h : ∀ m ∈ ms, (s.mods.get m).standing = .available) : s.KeepsBerths (energiseWith b ms s) := by
  refine (energiseWith_steady h).keeps (State.SameQueue.claimsOk ⟨by rw [energiseWith_claims], fun c => ?_⟩)
  by_cases same : c = b
  · rw [same, energiseWith_state, idle]
    exact iff_of_false nofun nofun
  · rw [energiseWith_seq_other same]

/-- R102: a CONNECT that waits for modules. -/
theorem connectQueued_keeps_berths {b : Berth} {s : State} (idle : (s.seq.get b).state = .idle) (p : ShipProfile) :
    s.KeepsBerths (connectQueued b p s) := by
  let claim := newClaim b p (s.params.get b).claimTimeoutMin
  have entered : ({ s with claims := s.claims ++ [claim] }).Steady (connectQueued b p s) :=
    enterState_steady fun _ => .inl idle
  refine ((claims_steady (s.claims ++ [claim]) s).trans entered).keeps fun ok c => ?_
  have claims : (connectQueued b p s).claims = s.claims ++ [claim] := (enterState_only b .waitingModules _).claims
  rw [claims, List.countP_append, ok c, List.countP_singleton]
  by_cases same : c = b
  · have own : (claim.berth == b) = true := beq_iff_eq.mpr rfl
    unfold connectQueued
    rw [same, idle, enterState_state, if_neg nofun, if_pos rfl, if_pos own]
  · have other : ¬(claim.berth == c) = true := fun eq => same (beq_iff_eq.mp eq).symm
    unfold connectQueued
    rw [enterState_seq_other same, if_neg other, Nat.add_zero]

theorem poolAnswer_served {s : State} {p : ShipProfile} {ms : List ModuleId} (h : s.poolAnswer p = .served ms) :
    s.allocation p.demand p.reserve = some ms := by
  unfold State.poolAnswer at h
  split at h
  · cases h
  · split at h
    · split at h
      next allocated => rw [allocated, PoolAnswer.served.inj h]
      next => cases h
    · cases h

theorem takeConnect_keeps_berths {b : Berth} {s : State} (idle : (s.seq.get b).state = .idle) (t : BitVec 16) :
    s.KeepsBerths (takeConnect b t s) := by
  have connects (p : ShipProfile) : s.KeepsBerths (connectWith b t p s) := by
    let u := makeCurrent b .connect t (s.updSeq b fun q => { q with profile := some p, firstEnergised := false })
    have accepted : s.Calm u := (takeProfile_calm idle p).trans (makeCurrent_calm b .connect t _)
    have idle' : (u.seq.get b).state = .idle := by
      rw [makeCurrent_state, State.updSeq_self]; exact idle
    unfold connectWith
    dsimp only
    split
    · exact refuse_keeps_berths ..
    next ms served => exact accepted.keeps.trans (energiseWith_keeps_berths idle' (allocation_available (poolAnswer_served served)))
    next => exact accepted.keeps.trans (connectQueued_keeps_berths idle' p)
  unfold takeConnect
  dsimp only
  split
  · exact refuse_keeps_berths ..
  · split
    · exact refuse_keeps_berths ..
    · split
      · exact refuse_keeps_berths ..
      · split
        · exact refuse_keeps_berths ..
        · exact connects _

theorem abortEffect_keeps_berths (b : Berth) (s : State) : s.KeepsBerths (abortEffect b s) := by
  unfold abortEffect
  split
  next at_ => exact (unclaimed_keeps_berths fun _ => at_).trans (tryIf_keeps_berths (s.headClaim b) _)
  next at_ => exact (enterState_calm .energised (by rw [at_]; nofun)).keeps
  next at_ => exact (enterState_calm .energised (by rw [at_]; nofun)).keeps
  next at_ => exact (enterState_calm .parallelOut (by rw [at_]; nofun)).keeps
  next => exact (State.Calm.refl s).keeps

/-- R114: DISCONNECT. -/
theorem takeDisconnect_keeps_berths {b : Berth} {s : State} (old : (s.seq.get b).state ≠ .waitingModules) (t : BitVec 16) :
    s.KeepsBerths (takeDisconnect b t s) := by
  have entered := (makeCurrent_calm b .disconnect t s).trans
    (enterState_calm .deEnergising (by rw [makeCurrent_state]; exact old))
  unfold takeDisconnect
  dsimp only
  split
  · exact entered.keeps.trans (deEnergised_keeps_berths (enterState_state ..))
  · exact entered.keeps

theorem takeClear_keeps_berths {b : Berth} {s : State} (old : (s.seq.get b).state ≠ .waitingModules) (t : BitVec 16) :
    s.KeepsBerths (takeClear b t s) := by
  have cleared := (makeCurrent_calm b .clear t s).trans
    (updSeq_course_of b (fun q => { q with tripCause := none }) (fun _ => ⟨rfl, rfl, rfl, rfl, .inl⟩) _)
  refine cleared.keeps.trans (rejoin_keeps_berths ?_)
  rw [State.updSeq_self]
  exact (makeCurrent_state b .clear t s).symm ▸ old

theorem idle_of_accepts {b : Berth} {s : State} (h : s.accepts b .connect = true) : (s.seq.get b).state = .idle := by
  unfold State.accepts at h
  cases at_ : (s.seq.get b).state <;> rw [at_] at h <;> first | rfl | cases h

theorem takeAccepted_keeps_berths {b : Berth} {k : RequestKind} {s : State} (accepts : s.accepts b k = true)
    (t : BitVec 16) : s.KeepsBerths (takeAccepted b t k s) := by
  have old (ne : k ≠ .abort) : (s.seq.get b).state ≠ .waitingModules := fun waits => by
    unfold State.accepts at accepts
    rw [waits] at accepts
    cases k <;> first | exact ne rfl | cases accepts
  cases k with
  | connect => exact takeConnect_keeps_berths (idle_of_accepts accepts) t
  | sync =>
    exact (((makeCurrent_calm b .sync t s).trans
      (enterState_calm .matching (by rw [makeCurrent_state]; exact old nofun))).trans (startWatching_calm b _)).keeps
  | gensOff =>
    exact (((enterState_calm .shoreOnly (old nofun)).trans (emitEvent_calm ..)).trans (writeResult_calm ..)).keeps
  | gensOn =>
    exact ((makeCurrent_calm b .gensOn t s).trans
      (enterState_calm .parallelOut (by rw [makeCurrent_state]; exact old nofun))).keeps
  | abort =>
    exact ((completeCurrent_calm b .aborted (some .abort) s).keeps.trans (abortEffect_keeps_berths b _)).trans
      (writeResult_calm ..).keeps
  | disconnect => exact takeDisconnect_keeps_berths (old nofun) t
  | clear => exact takeClear_keeps_berths (old nofun) t

theorem takeRequest_keeps_berths (b : Berth) (k : BitVec 8) (t : BitVec 16) (s : State) :
    s.KeepsBerths (takeRequest b k t s) := by
  unfold takeRequest
  split
  · exact refuse_keeps_berths ..
  · split
    · exact refuse_keeps_berths ..
    · split
      · exact refuse_keeps_berths ..
      · split
        · exact refuse_keeps_berths ..
        next accepts => exact takeAccepted_keeps_berths (by simpa using accepts) t

theorem shadowWord_calm (b : Berth) (n : Nat) (v : Word) (s : State) : s.Calm (shadowWord b n v s) := by
  unfold shadowWord
  split
  · exact updSeq_course_of b (fun q => { q with shadow := q.shadow.set (n - 1) v }) (fun _ => ⟨rfl, rfl, rfl, rfl, .inl⟩) s
  · exact .refl s

theorem writeShadow_calm (b : Berth) (ws : List (Nat × Word)) (s : State) : s.Calm (writeShadow b ws s) := by
  unfold writeShadow
  induction ws generalizing s with
  | nil => exact .refl s
  | cons x ws ih => exact (shadowWord_calm b x.1 x.2 s).trans (ih _)

theorem takeBerthWords_keeps_berths (b : Berth) (ws : List (Nat × Word)) (s : State) :
    s.KeepsBerths (takeBerthWords b ws s) := by
  have written := (writeShadow_calm b ws s).keeps
  unfold takeBerthWords
  dsimp only
  split
  · exact written.trans (takeRequest_keeps_berths ..)
  · exact written

end Sys2Proof.Machine
end

section
/-! Proofs: every step keeps the invariants of the berths. -/

namespace Sys2Proof.Machine

/-! ## Control words of the station page -/

theorem heartbeat_calm (s : State) : s.Calm (heartbeat s) := by
  have started : s.Calm (startHeartbeat s) := calm_of_drive rfl
  unfold heartbeat
  split
  · exact .refl s
  · exact started
  · exact started
  · exact (started.trans (forBerths_calm supervisorRestored_calm _)).trans (emitEvent_calm ..)

theorem heartbeatLost_calm (s : State) : s.Calm (heartbeatLost s) := by
  have lost : s.Calm (setSummary .supervisorLost
      { s with page := { s.page with presence := .lost, hbTimer := .stopped, lostUs := 0 } }) := calm_of_drive rfl
  exact (lost.trans (forBerths_calm supervisorLost_calm _)).trans (emitEvent_calm ..)

theorem acknowledge_drive (w : Word) (s : State) : (acknowledge w s).drive = s.drive := by
  unfold acknowledge readyCleared
  dsimp only
  split
  · split <;> rfl
  · rfl

theorem unlockWrite_drive (v : Word) (s : State) : (unlockWrite v s).drive = s.drive := by
  unfold unlockWrite
  split
  · split <;> rfl
  · split <;> rfl
  · rfl

theorem journalCommand_drive (v : Word) (s : State) : (journalCommand v s).drive = s.drive := by
  unfold journalCommand journalStart journalStop journalReset
  split
  · split <;> rfl
  · split <;> rfl
  · rfl
  · rfl

theorem consumeWrite_drive (v : Word) (s : State) : (consumeWrite v s).drive = s.drive := by
  unfold consumeWrite; split <;> rfl

/-! ## Commits (R181) -/

theorem rebaseIntake_calm (s : State) : s.Calm (rebaseIntake s) :=
  forBerths_calm (f := fun b s => (s.updMeas b Meas.rebase).updSync b forgetShipPhasor)
    (fun b s => (calm_of_drive (s := s) (t := s.updMeas b Meas.rebase) rfl).trans
      (updSync_calm b forgetShipPhasor (fun _ => id) (fun _ => id) _)) s

theorem forBerths_seq {f : Berth → State → State} (h : ∀ b s, (f b s).seq = s.seq) (s : State) :
    (forBerths f s).seq = s.seq := ((h .b2 _).trans (h .b1 _)).trans (h .b0 s)

theorem rebaseIntake_seq (s : State) : (rebaseIntake s).seq = s.seq :=
  forBerths_seq (f := fun b s => (s.updMeas b Meas.rebase).updSync b forgetShipPhasor) (fun _ _ => rfl) s

theorem commitBerth_drive (b : Berth) (s : State) : (commitBerth b s).drive = s.drive := by
  unfold commitBerth; split <;> rfl

theorem rewindRing_drive (old new : State) : (rewindRing old new).drive = new.drive := by
  unfold rewindRing; split <;> rfl

/-- Whether every berth is IDLE. -/
def State.AllIdle (s : State) : Prop := ∀ b, (s.seq.get b).state = .idle

theorem allIdle_iff (s : State) : s.allIdle = true ↔ s.AllIdle := by
  unfold State.allIdle State.AllIdle
  rw [List.all_eq_true]
  refine ⟨fun h b => ?_, fun h b _ => beq_iff_eq.mpr (h b)⟩
  have mem : b ∈ Berth.list := by cases b <;> decide
  exact beq_iff_eq.mp (h b mem)

/-- A new rating of a module while every berth is IDLE. -/
theorem updMod_allIdle {m : ModuleId} {f : Module → Module} {s : State} (idle : s.AllIdle)
    (standing : (f (s.mods.get m)).standing = (s.mods.get m).standing)
    (mode : (f (s.mods.get m)).mode = (s.mods.get m).mode)
    (waits : (f (s.mods.get m)).retryWait = (s.mods.get m).retryWait) : s.Calm (s.updMod m f) where
  lines := id
  osc := id
  modes ok := PerModule.get_set_of (P := fun _ (r : Module) => r.mode = s.commandedMode r.standing)
    (by rw [mode, standing]; exact ok m) ok
  retry ok := PerModule.get_set_of (P := fun _ (r : Module) => r.RetryOk)
    (by unfold Module.RetryOk; rw [waits, standing]; exact ok m) ok
  setpoints _ ok b := by
    rw [State.setpointOk_iff]
    exact ((s.setpointOk_iff b).mp (ok b)).of_none (by rw [idle b]; rfl)
  idle ok b idles := PerModule.get_set_of (P := fun _ (r : Module) => r.serves b = false)
    (by unfold Module.serves; rw [standing]; exact ok b idles m) (ok b idles)
  claims := rfl
  waits _ := .rfl

theorem forModules_allIdle {f : ModuleId → State → State}
    (h : ∀ m (s : State), s.AllIdle → s.Calm (f m s) ∧ (f m s).seq = s.seq) {s : State} (idle : s.AllIdle) :
    s.Calm (forModules f s) := by
  have step {t : State} (m : ModuleId) (k : s.Calm t ∧ t.seq = s.seq) : s.Calm (f m t) ∧ (f m t).seq = s.seq := by
    have next := h m t fun b => by rw [k.2]; exact idle b
    exact ⟨k.1.trans next.1, next.2.trans k.2⟩
  exact (step .m7 (step .m6 (step .m5 (step .m4 (step .m3 (step .m2 (step .m1 (step .m0 ⟨.refl s, rfl⟩)))))))).1

theorem commitPool_keeps_berths {s : State} (idle : s.AllIdle) : s.KeepsBerths (commitPool s) := by
  have rated := forModules_allIdle (f := fun m s => s.updMod m fun r =>
    { r with present := s.cfgFlag (96 + 4 * m.num), rating := s.cfg (97 + 4 * m.num) })
    (fun m s idle => ⟨updMod_allIdle idle rfl rfl rfl, rfl⟩) idle
  exact rated.keeps.trans (tryPool_keeps_berths _)

theorem applySection_keeps_berths {x : Section} {s : State} (pool : x = .pool → s.AllIdle) :
    s.KeepsBerths (applySection x s) := by
  cases x with
  | windows =>
    have tabled : s.Calm { s with bus := { s.bus with table := s.rawTable.map RawEntry.entry, firstCommit := true } } :=
      calm_of_drive rfl
    exact (tabled.trans (rebaseIntake_calm _)).keeps
  | berths => exact (calm_of_drive (forBerths_drive commitBerth_drive s)).keeps
  | pool => exact commitPool_keeps_berths (pool rfl)
  | journal => exact (calm_of_drive (s := s) (t := commitJournal s) rfl).keeps
  | protection => exact (calm_of_drive (s := s) (t := commitProtection s) rfl).keeps
  | metrology => exact (calm_of_drive (s := s) (t := commitMetrology s) (admitConfig_drive _ s)).keeps
  | attention => exact (calm_of_drive (s := s) (t := commitAttention s) rfl).keeps

theorem applyNamed_keeps_berths {mask : Word} {x : Section} {s : State}
    (pool : x = .pool → names mask .pool = true → s.AllIdle) : s.KeepsBerths (applyNamed mask x s) := by
  unfold applyNamed
  split
  next named => exact applySection_keeps_berths fun at_ => pool at_ (at_ ▸ named)
  next => exact (State.Calm.refl s).keeps

theorem applyNamed_seq_of {mask : Word} {x : Section} (h : ∀ s, (applySection x s).seq = s.seq) (s : State) :
    (applyNamed mask x s).seq = s.seq := by
  unfold applyNamed
  split
  · exact h s
  · rfl

theorem commitWindows_seq (s : State) : (applySection .windows s).seq = s.seq := rebaseIntake_seq _

theorem commitBerths_seq (s : State) : (applySection .berths s).seq = s.seq :=
  congrArg Drive.seq (forBerths_drive commitBerth_drive s)

theorem namedApplied_eq (mask : Word) (s : State) :
    namedApplied mask s = applyNamed mask .attention (applyNamed mask .metrology (applyNamed mask .protection
      (applyNamed mask .journal (applyNamed mask .pool (applyNamed mask .berths (applyNamed mask .windows s)))))) := rfl

theorem namedApplied_keeps_berths {mask : Word} {s : State} (pool : names mask .pool = true → s.AllIdle) :
    s.KeepsBerths (namedApplied mask s) := by
  have other {x : Section} (u : State) (ne : x ≠ .pool := by decide) : u.KeepsBerths (applyNamed mask x u) :=
    applyNamed_keeps_berths fun at_ => absurd at_ ne
  have seq : (applyNamed mask .berths (applyNamed mask .windows s)).seq = s.seq :=
    (applyNamed_seq_of commitBerths_seq _).trans (applyNamed_seq_of commitWindows_seq s)
  have idle (named : names mask .pool = true) : (applyNamed mask .berths (applyNamed mask .windows s)).AllIdle :=
    fun b => by rw [seq]; exact pool named b
  have pooled := ((other (x := .windows) s).trans (other (x := .berths) _)).trans
    (applyNamed_keeps_berths (x := .pool) fun _ => idle)
  rw [namedApplied_eq]
  exact (((pooled.trans (other (x := .journal) _)).trans (other (x := .protection) _)).trans
    (other (x := .metrology) _)).trans (other (x := .attention) _)

/-- R180: a commit of POOL is accepted only while every berth is IDLE. -/
theorem allIdle_of_accepted {mask : Word} {s : State} (h : (s.judgeCommit mask).1 = .accepted)
    (named : names mask .pool = true) : s.AllIdle := by
  have ready : s.checkState mask = none := by
    unfold State.judgeCommit at h
    split at h
    · cases h
    · split at h
      · cases h
      · split at h
        · cases h
        · split at h
          · cases h
          · assumption
  rw [← allIdle_iff]
  unfold State.checkState at ready
  split at ready
  · cases ready
  · have found := List.find?_eq_none.mp ready .pool (by decide)
    rw [named, Bool.true_and, Bool.not_eq_true, Bool.not_eq_false'] at found
    exact found

theorem commit_keeps_berths (mask : Word) (s : State) : s.KeepsBerths (commit mask s) := by
  have recorded (r : CommitOutcome × Offence) (u : State) : u.KeepsBerths (recordCommit mask r u) :=
    (calm_of_drive (s := u) (t := recordCommit mask r u) rfl).keeps
  unfold commit
  dsimp only
  split
  next accepted =>
    have applied : s.KeepsBerths (applySections mask s) :=
      (namedApplied_keeps_berths (allIdle_of_accepted accepted)).trans
        (calm_of_drive (s := namedApplied mask s) (t := applySections mask s) (rewindRing_drive s (namedApplied mask s))).keeps
    exact applied.trans (recorded _ _)
  next => exact recorded _ s

theorem takeStationWord_keeps_berths (n : Nat) (v : Word) (s : State) : s.KeepsBerths (takeStationWord n v s) := by
  have still {t : State} (h : t.drive = s.drive) : s.KeepsBerths t := (calm_of_drive h).keeps
  unfold takeStationWord
  split
  · exact still rfl
  · split
    · exact (heartbeat_calm s).keeps
    · exact still (acknowledge_drive v s)
    · exact still (unlockWrite_drive v s)
    · exact still (journalCommand_drive v s)
    · exact still (consumeWrite_drive v s)
    · exact still rfl
    · exact still (timeSet_drive v s)
    · exact serviceWrite_keeps_berths v s
    · exact still rfl
    · exact commit_keeps_berths v s
    · exact (State.Calm.refl s).keeps

/-! ## One microsecond -/

theorem tick_isRunning (t : Timer) : t.tick.isRunning = t.isRunning := by
  rcases t with - | (_ | _) | - <;> rfl

theorem tick_stopped {t : Timer} (h : t = .stopped) : t.tick = .stopped := by rw [h]; rfl

/-- R106, R107: the ramp does not leave its bound. -/
theorem advance_bounded (p : BerthParams) {n : Nat} {q : Seq} (h : q.Bounded n) : (q.advance p).Bounded n := by
  have move : (q.advance p).setpoint = q.moveSetpoint p.rampRate := rfl
  constructor
  · rw [move]
    unfold Seq.moveSetpoint
    split
    next rises =>
      have target := Nat.mul_le_mul_right Config.powerUnit (h.target (h.rising rises))
      exact (Nat.min_le_left _ _).trans (Nat.max_le.mpr ⟨h.within, target⟩)
    next => exact (Nat.sub_le _ _).trans h.within
    next => exact h.within
  · intro no
    have zero : q.setpoint = 0 := h.zero no
    rw [move]
    unfold Seq.moveSetpoint
    split
    next rises =>
      have parallel := h.rising rises
      have carries : q.state.hasSetpoint = false := no
      rw [parallel] at carries
      cases carries
    next => rw [zero]; exact Nat.zero_sub _
    next => exact zero
  · exact h.target
  · exact h.rising

end Sys2Proof.Machine
end

section
/-! Proofs: time, expiries and resets keep the invariants of the berths, and so does every step. -/

namespace Sys2Proof.Machine

/-! ## One microsecond -/

theorem advanceBerth_calm (b : Berth) (s : State) : s.Calm (advanceBerth b s) := by
  let u := s.updOsc b fun o => o.tick (o.slewRate (s.params.get b) (s.shipFresh b))
  let v := (u.updMeas b Meas.advance).updSync b Sync.advance
  have moved : s.Calm u :=
    updOsc_calm b (fun o => o.tick (o.slewRate (s.params.get b) (s.shipFresh b))) (fun _ => .tick _) s
  have measured : u.Calm (u.updMeas b Meas.advance) := calm_of_drive rfl
  have timed : (u.updMeas b Meas.advance).Calm v :=
    updSync_calm b Sync.advance (fun u => by rw [← tick_isRunning u.closePulse]; exact id)
      (fun u => by rw [← tick_isRunning u.tripPulse]; exact id) _
  have ramped : v.Calm (v.updSeq b (Seq.advance (s.params.get b))) :=
    updSeq_calm rfl fun ok => updSeq_setpointsOk (fun bounded => by
      rw [updSeq_bounds b b (Seq.advance (s.params.get b)) v rfl]
      exact advance_bounded _ bounded) ok
  exact ((moved.trans measured).trans timed).trans ramped

theorem advanceCount_drive (s : State) : (advanceCount s).drive = s.drive := by
  unfold advanceCount; dsimp only; split <;> rfl

theorem advance_retryOk {r : Module} (h : r.RetryOk) : r.advance.RetryOk := by
  rcases h with stopped | waits
  · exact .inl (tick_stopped stopped)
  · exact .inr waits

theorem advance_calm (s : State) : s.Calm (advance s) := by
  let u := forBerths advanceBerth (advanceCount s)
  have berths : s.Calm u := (calm_of_drive (advanceCount_drive s)).trans (forBerths_calm advanceBerth_calm _)
  have mods (m : ModuleId) : (advance s).mods.get m = (u.mods.get m).advance := PerModule.get_map ..
  have healthy (c : Berth) : (advance s).healthy c = u.healthy c := sumRatings_congr fun m => by
    rw [mods]; exact ⟨rfl, rfl⟩
  refine berths.trans ⟨⟨⟨fun ok b => ?_, id, fun ok m => ?_, fun ok m => ?_, fun _ ok b => ?_⟩, fun ok b idle m => ?_⟩, ?_, fun _ => .rfl⟩
  · have line : (advance s).tripLine b = u.tripLine b := by
      show ((u.sync.get b).tripPulse.isRunning || (u.resetLow || u.tripHold.tick.isRunning)) = _
      rw [tick_isRunning]
      rfl
    have close : (advance s).closeLine b = u.closeLine b := rfl
    rw [line, close]
    exact ok b
  · rw [mods]; exact ok m
  · rw [mods]; exact advance_retryOk (ok m)
  · have bound : (advance s).bound b = u.bound b := congrArg (min (u.demand b)) (healthy b)
    rw [State.setpointOk_iff, bound]
    exact (u.setpointOk_iff b).mp (ok b)
  · rw [mods]; exact ok b idle m
  · exact List.map_map

/-! ## Resets (R25, R26, R95, R96) -/

/-- All seven invariants of the berths. -/
structure State.BerthsOk (s : State) : Prop where
  lines : s.LinesOk
  claims : s.ClaimsOk
  osc : s.OscOk
  modes : s.ModesOk
  retry : s.RetryOk
  setpoints : s.SetpointsOk
  idle : s.IdleOk

theorem State.BerthsOk.keeps {s t : State} (h : t.BerthsOk) : s.KeepsBerths t :=
  ⟨⟨fun _ => h.lines, fun _ => h.osc, fun _ => h.modes, fun _ => h.retry, fun _ _ => h.setpoints⟩, fun _ => h.claims,
    fun _ _ => h.idle⟩

/-- The invariants of the berths hold where CLOSE is low, no claim waits, no oscillator runs, no module is ASSIGNED and
every berth is in IDLE with its setpoint zero. -/
theorem berthsOk_of_reset {t : State} (closes : ∀ b, (t.sync.get b).closePulse = .stopped) (claims : t.claims = [])
    (osc : ∀ b, t.osc.get b = Osc.stopped)
    (mods : ∀ m, (t.mods.get m).standing.berth? = none ∧ (t.mods.get m).mode = .off ∧
      (t.mods.get m).retryWait = .stopped)
    (seq : ∀ b, (t.seq.get b).state = .idle ∧ (t.seq.get b).setpoint = 0 ∧ (t.seq.get b).dir = .level) : t.BerthsOk where
  lines b lines := by
    have low : t.closeLine b = false := by
      unfold State.closeLine Sync.closeHigh
      rw [closes]
      rfl
    exact Bool.eq_false_iff.mp low lines.1
  claims b := by
    rw [claims, (seq b).1]
    rfl
  osc b := by rw [osc]; exact .stopped
  modes m := by rw [(mods m).2.1, commandedMode_unassigned (mods m).1]
  retry m := .inl (mods m).2.2
  setpoints b := by
    obtain ⟨state, setpoint, dir⟩ := seq b
    refine ⟨by rw [setpoint]; exact Nat.zero_le _, fun _ => setpoint, fun parallel => ?_, fun rising => ?_⟩
    · exact nomatch state.symm.trans parallel
    · exact nomatch dir.symm.trans rising
  idle _ _ m := not_serves_of_none (mods m).1 _

theorem powerOn_berthsOk (c0 c1 c2 : Bool) (s : State) : (powerOn c0 c1 c2 s).BerthsOk := by
  refine berthsOk_of_reset (fun b => ?_) rfl (fun b => ?_) (fun m => ?_) fun b => ?_
  · cases b <;> rfl
  · cases b <;> rfl
  · cases m <;> exact ⟨rfl, rfl, rfl⟩
  · cases b <;> exact ⟨rfl, rfl, rfl⟩

theorem lineReset_berthsOk (s : State) : (lineReset s).BerthsOk := by
  refine berthsOk_of_reset (fun b => ?_) rfl (fun b => ?_) (fun m => ?_) fun b => ?_
  · cases b <;> rfl
  · cases b <;> rfl
  · let u := abandonWrite (forBerths interruptShoreOnly s)
    have at_ : (lineReset s).mods.get m = (u.mods.get m).lineReset := PerModule.get_map ..
    rw [at_]
    refine ⟨?_, rfl, rfl⟩
    show (u.mods.get m).standing.retained.berth? = none
    cases (u.mods.get m).standing <;> rfl
  · cases b <;> exact ⟨rfl, rfl, rfl⟩

theorem releaseReset_calm {s : State} (low : s.resetLow = true) : s.Calm (releaseReset s) := by
  let u := forBerths (fun b s => s.updSeq b fun q => { q with entry := s.now }) s
  have entered : s.Calm u := forBerths_calm (f := fun b s => s.updSeq b fun q => { q with entry := s.now })
    (fun b s => updSeq_course_of b (fun q => { q with entry := s.now }) (fun _ => ⟨rfl, rfl, rfl, rfl, .inl⟩) s) s
  have low' : u.resetLow = true := low
  have held : u.Calm { u with resetLow := false, tripHold := .running Config.tripHoldUs } := by
    refine ⟨⟨⟨fun ok b lines => ok b ⟨lines.1, ?_⟩, id, id, id, fun _ => id⟩, id⟩, rfl, fun _ => .rfl⟩
    unfold State.tripLine State.inHold
    rw [low', Bool.true_or, Bool.or_true]
  exact (entered.trans held).trans (calm_of_drive (closeAllCarried_drive _))

theorem endTripHold_keeps_berths (s : State) : s.KeepsBerths (endTripHold s) := by
  have ended : s.Calm { s with tripHold := .stopped } := by
    refine ⟨⟨⟨fun ok b lines => ok b ⟨lines.1, ?_⟩, id, id, id, fun _ => id⟩, id⟩, rfl, fun _ => .rfl⟩
    have high := lines.2
    unfold State.tripLine State.inHold at high ⊢
    rw [Bool.or_eq_true, Bool.or_eq_true] at high ⊢
    exact high.imp_right fun hold => .inl (hold.resolve_right nofun)
  exact (ended.trans (forBerths_calm startDeadTime_calm _)).keeps.trans (forBerths_keeps tripIfClosed_keeps_berths _)

/-! ## Expiries -/

theorem not_waiting_of {P : BerthState → Bool} {st : BerthState} (h : P st = true)
    (not : P .waitingModules = false := by rfl) : st ≠ .waitingModules := by
  rintro rfl
  exact Bool.eq_false_iff.mp not h

/-- R9: a berth whose claim timer runs has a claim. -/
theorem waiting_of_claimTimer {b : Berth} {s : State} (due : (s.claimTimer b).isDue = true) (ok : s.ClaimsOk) :
    (s.seq.get b).state = .waitingModules := by
  unfold State.claimTimer at due
  split at due
  next c found =>
    by_contra not
    have count := ok b
    rw [if_neg not, List.countP_eq_zero] at count
    exact count c (List.mem_of_find?_eq_some found) (List.find?_some (p := fun c : Claim => c.berth == b) found)
  next => cases due

theorem timedEffect_keeps_berths {c : Instr} {s : State} (due : isDue s c = true) : s.KeepsBerths (timedEffect c s) := by
  have still {t : State} (h : t.drive = s.drive) : s.KeepsBerths t := (calm_of_drive h).keeps
  have unheard (b : Berth) (f : Sync → Sync) (closes : ∀ u : Sync, (f u).closePulse.isRunning = true → u.closePulse.isRunning = true)
      (trips : ∀ u : Sync, (f u).tripPulse.isRunning = true → u.tripPulse.isRunning = true) :
      s.KeepsBerths (s.updSync b f) := (updSync_calm b f closes trips s).keeps
  unfold timedEffect
  split
  case h_1 => exact endTripHold_keeps_berths s
  case h_2 m => exact statusStale_keeps_berths m s
  case h_3 m => exact retryWaitEnd_keeps_berths due
  case h_4 m =>
    exact (updMod_course m (fun r => { r with fastCount := 0, slowCount := 0, retryWindow := .stopped }) s
      ⟨rfl, rfl, rfl, rfl, rfl⟩).calm.keeps
  case h_5 m =>
    exact (updMod_course m (fun r => { r with blankExpiry := none }) s ⟨rfl, rfl, rfl, rfl, rfl⟩).calm.keeps
  case h_6 b => exact claimTimeout_keeps_berths (waiting_of_claimTimer due)
  case h_7 b k => exact (slotStale_calm b k s).keeps
  case h_8 => exact still rfl
  case h_9 b =>
    exact ((updOsc_calm b (Osc.settle (s.shipFresh b)) (fun _ => .settle _) s).trans (evaluate_calm b _)).keeps
  case h_10 b =>
    exact (updOsc_calm b (fun o => { o with gliding := false }) (fun _ ok => ok.congr rfl rfl rfl rfl) s).keeps
  case h_11 b =>
    have nominal := updSeq_course_of b (fun q => { q with volt := .nominal }) (fun _ => ⟨rfl, rfl, rfl, rfl, .inl⟩) s
    exact (nominal.trans (checkEnergising_calm b _)).keeps
  case h_12 b =>
    have stopped := updSeq_course_of b (fun q => { q with energise := .stopped }) (fun _ => ⟨rfl, rfl, rfl, rfl, .inl⟩) s
    have energising := beq_iff_eq.mp (Bool.and_eq_true_iff.mp due).2
    exact (stopped.trans (enterTripped_calm _ (by rw [State.updSeq_self, energising]; nofun))).keeps
  case h_13 b =>
    have zero := updSeq_course_of b (fun q => { q with volt := .zero }) (fun _ => ⟨rfl, rfl, rfl, rfl, .inl⟩) s
    have falling := beq_iff_eq.mp (Bool.and_eq_true_iff.mp due).2
    exact zero.keeps.trans (deEnergised_keeps_berths (by rw [State.updSeq_self, falling]))
  case h_14 b => exact (recomputeShares_course b s).calm.keeps
  case h_15 b =>
    have level := updSeq_course_of b (fun q => { q with dir := .level }) (fun _ => ⟨rfl, rfl, rfl, rfl, nofun⟩) s
    exact (level.trans ((blankBerth_course b _).calm.trans (recomputeShares_course b _).calm)).keeps
  case h_16 b =>
    have old := not_waiting_of (Bool.and_eq_true_iff.mp due).2
    exact ((enterState_calm .energised old).trans (completeCurrent_calm ..)).keeps
  case h_17 b => exact (controlledOpen_calm _ (not_waiting_of (Bool.and_eq_true_iff.mp due).2)).keeps
  case h_18 b => exact (overloadExpired_calm (not_waiting_of (Bool.and_eq_true_iff.mp due).2)).keeps
  case h_19 b => exact (controlledOpen_calm _ (not_waiting_of (Bool.and_eq_true_iff.mp due).2)).keeps
  case h_20 b => exact (closeDue_calm (by rw [beq_iff_eq.mp (Bool.and_eq_true_iff.mp due).2]; nofun)).keeps
  case h_21 b => exact unheard b (fun u => { u with closePulse := .stopped }) (fun _ => nofun) (fun _ => id)
  case h_22 b => exact (tripPulseEnd_calm b s).keeps
  case h_23 b => exact (closeFailed_calm (by rw [beq_iff_eq.mp (Bool.and_eq_true_iff.mp due).2]; nofun)).keeps
  case h_24 b => exact (openFailed_calm (by rw [beq_iff_eq.mp (Bool.and_eq_true_iff.mp due).2]; nofun)).keeps
  case h_25 b => exact unheard b (fun u => { u with deadTime := .stopped }) (fun _ => id) (fun _ => id)
  case h_26 => exact still (tick_drive s)
  case h_27 => exact still rfl
  case h_28 => exact (heartbeatLost_calm s).keeps
  case h_29 => exact still rfl
  case h_30 => exact still (startWrite_drive s)
  case h_31 => exact still rfl

/-! ## Every step -/

theorem faceDone_drive (s : State) : (faceDone s).drive = s.drive := by
  unfold faceDone
  split
  next item _ =>
    have carries : (carried item (freeFace s)).drive = s.drive := by unfold carried; split <;> rfl
    exact (grant_busOnly _).drive.trans carries
  next => rfl

theorem judgeReady_drive (r : Record) (s : State) : (judgeReady r s).drive = s.drive := by
  have signalled (u : State) (p : Prop) [Decidable p] : (if p then signalReady u else u).drive = u.drive := by
    split <;> rfl
  refine (signalled _ _).trans ?_
  split <;> rfl

theorem claimCarried_drive (s : State) : (claimCarried s).drive = s.drive := by
  unfold claimCarried
  split
  · rfl
  · split
    · rfl
    · unfold completeWrite
      split
      · rfl
      · exact judgeReady_drive ..

theorem claimDone_drive (s : State) : (claimDone s).drive = s.drive := by
  unfold claimDone
  split
  next addr ws live _ =>
    dsimp only
    split
    · exact (grant_busOnly _).drive.trans (claimCarried_drive _)
    · exact (grant_busOnly _).drive
  next => rfl

theorem keepsBerths_rule : StepRule State.KeepsBerths where
  refl s := (State.Calm.refl s).keeps
  trans h k := h.trans k
  pending s l := (calm_of_drive (s := s) (t := { s with pending := l }) rfl).keeps
  advance s := (advance_calm s).keeps
  powerOn c0 c1 c2 s := (powerOn_berthsOk c0 c1 c2 s).keeps.trans (forBerths_keeps tripIfClosed_keeps_berths _)
  lineReset s _ := (lineReset_berthsOk s).keeps
  release _ low := (releaseReset_calm low).keeps
  viewHeld b closed s _ := (setView_calm b closed s).keeps
  rise b s _ _ := (setView_calm b true s).keeps.trans (breakerRise_keeps_berths b _)
  fall b s _ _ := ((setView_calm b false s).trans (breakerFall_calm b _)).keeps
  timed _ _ due := timedEffect_keeps_berths due
  faceDone s := (calm_of_drive (faceDone_drive s)).keeps
  claimDone s := (calm_of_drive (claimDone_drive s)).keeps
  passOn i s _ _ := (calm_of_drive (passOn_busOnly i s).drive).keeps
  respond t r s := (calm_of_drive (respond_busOnly t r s).drive).keeps
  refuse t c s := (calm_of_drive (refuseTransfer_busOnly t c s).drive).keeps
  clearRefused r s := (calm_of_drive (setRefused_busOnly r s).drive).keeps
  measurement b w0 w1 w2 w3 s := (takeMeasurement_calm b w0 w1 w2 w3 s).keeps
  status := statusRecord_keeps_berths
  berthWords := takeBerthWords_keeps_berths
  stationWord := takeStationWord_keeps_berths

/-- Settles O60: every treatment that a step is made of keeps the invariants of the berths. -/
theorem stepsKeepBerths : Obligations.StepsKeepBerths := by
  unfold Obligations.StepsKeepBerths
  intro s t h
  have kept := keepsBerths_rule.step h
  exact ⟨kept.lines, kept.claims, kept.osc, kept.modes, kept.retry, kept.setpoints, kept.idle⟩

end Sys2Proof.Machine
end

section
/-! Proofs: the step, what is due, and one microsecond (logs 1 and 2). -/

namespace Sys2Proof.Machine

/-! ## The step -/

/-- Settles O1, from the step's own equation. -/
theorem stepRunsFrontCommand : Obligations.StepRunsFrontCommand := by
  unfold Obligations.StepRunsFrontCommand
  intro c rest s
  rfl

theorem step_idle {s : State} (h : s.pending = []) : step s = .next (idle s) := by
  unfold step
  rw [h]

theorem idle_due {s : State} (h : s.dueList ≠ []) : idle s = { s with pending := s.dueList } := by
  unfold idle
  split
  next none => exact absurd none h
  next => rfl

theorem idle_nothing {s : State} (h : s.dueList = []) : idle s = advance s := by
  unfold idle
  rw [h]

/-! ## Time-driven commands -/

theorem mem_timedCommands (c : Instr) :
    c ∈ timedCommands ↔
      c ∈ [Instr.stationTick, .tripHoldEnd, .heartbeatTimerExpiry, .unlockTimerExpiry, .coalescingTimerExpiry] ∨
        (∃ m, c ∈ moduleTimed m) ∨ (∃ b, c ∈ berthTimed b) ∨ c = .journalWriteStart := by
  have modules : c ∈ ModuleId.list.flatMap moduleTimed ↔ ∃ m, c ∈ moduleTimed m := by
    rw [List.mem_flatMap]
    exact exists_congr fun m => and_iff_right (by cases m <;> decide)
  have berths : c ∈ Berth.list.flatMap berthTimed ↔ ∃ b, c ∈ berthTimed b := by
    rw [List.mem_flatMap]
    exact exists_congr fun b => and_iff_right (by cases b <;> decide)
  unfold timedCommands
  rw [List.mem_append, List.mem_append, List.mem_append, modules, berths, List.mem_singleton, or_assoc, or_assoc]

theorem isTimed_of_mem {c : Instr} (h : c ∈ timedCommands) : c.isTimed = true :=
  List.all_eq_true.mp Laws.TimeDriven.listed c h

/-- Every command that time drives takes its effect where it is due. -/
theorem exec_timed {c : Instr} (h : c.isTimed = true) (s : State) :
    exec c s = .next (whenDue c (timedEffect c) s) := by
  cases c <;> first | rfl | cases h

theorem exec_due {c : Instr} {s : State} (h : c.isTimed = true) (due : isDue s c = true) :
    exec c s = .next (timedEffect c s) := by
  rw [exec_timed h, whenDue, if_pos due]

theorem exec_not_due {c : Instr} {s : State} (h : c.isTimed = true) (due : isDue s c = false) :
    exec c s = .next s := by
  rw [exec_timed h, whenDue, if_neg (Bool.eq_false_iff.mp due)]

/-- What can be due is driven by time, or accepted by a breaker filter. -/
theorem timed_of_due {c : Instr} {s : State} (h : isDue s c = true) :
    c ∈ timedCommands ∨ ∃ b, c = .breakerViewRise b ∨ c = .breakerViewFall b := by
  cases c with
  | breakerViewRise b => exact .inr ⟨b, .inl rfl⟩
  | breakerViewFall b => exact .inr ⟨b, .inr rfl⟩
  | slotStalenessExpiry b k => exact .inl ((mem_timedCommands _).mpr (by cases k <;> simp [moduleTimed, berthTimed]))
  | _ => first | cases h | exact .inl ((mem_timedCommands _).mpr (by simp [moduleTimed, berthTimed]))

theorem mem_dueList {c : Instr} {s : State} (h : isDue s c = true) : c ∈ s.dueList := by
  refine List.mem_filter.mpr ⟨?_, h⟩
  rcases timed_of_due h with timed | ⟨b, rise | fall⟩
  · exact List.mem_append_left _ timed
  · rw [rise]; cases b <;> decide
  · rw [fall]; cases b <;> decide

/-! ## When a command is due -/

theorem Timer.isDue_iff (t : Timer) : t.isDue = true ↔ t = .running 0 := by
  rcases t with - | (_ | n) | n
  · exact iff_of_false Bool.false_ne_true nofun
  · exact iff_of_true rfl rfl
  · exact iff_of_false Bool.false_ne_true nofun
  · exact iff_of_false Bool.false_ne_true nofun

/-- A timer whose expiry has an effect in some states alone. -/
theorem due_in_iff {t : Timer} {p : Bool} {q : Prop} (h : p = true ↔ q) :
    (t.isDue && p) = true ↔ t = .running 0 ∧ q := by
  rw [Bool.and_eq_true, Timer.isDue_iff, h]

theorem beq_iff_mem_singleton (st x : BerthState) : (st == x) = true ↔ st ∈ [x] := by
  rw [beq_iff_eq, List.mem_singleton]

theorem isWatching_iff (st : BerthState) : st.isWatching = true ↔ st ∈ [.matching, .armed] := by
  cases st <;> decide

theorem isParallel_iff (st : BerthState) : st.isParallel = true ↔ st ∈ [.parallelIn, .parallelOut] := by
  cases st <;> decide

theorem judgesOverload_iff (st : BerthState) : st.judgesOverload = true ↔
    st ∈ [.energising, .energised, .matching, .armed, .parallelIn, .shoreOnly, .parallelOut] := by
  cases st <;> decide

theorem judgesReverse_iff (st : BerthState) : st.judgesReverse = true ↔ st ∈ [.parallelIn, .shoreOnly, .parallelOut] := by
  cases st <;> decide

theorem blankingOver_iff (now : Word) (r : Module) :
    r.blankingOver now = true ↔ ∃ x, r.blankExpiry = some x ∧ (x - now).toInt ≤ 0 := by
  unfold Module.blankingOver Module.isBlanked
  cases r.blankExpiry with
  | none => exact iff_of_false Bool.false_ne_true fun ⟨_, at_, _⟩ => nomatch at_
  | some x =>
    rw [Option.isSome_some, Bool.true_and, Bool.not_eq_true', decide_eq_false_iff_not, not_lt]
    exact ⟨fun le => ⟨x, rfl, le⟩, fun ⟨y, same, le⟩ => Option.some.inj same ▸ le⟩

theorem settles_iff (fresh : Bool) (o : Osc) :
    o.settles fresh = true ↔ o.running = true ∧ o.requested ≠ o.effective ∧ o.requested ≠ .trackLock ∧
      o.governing fresh = o.requested ∧ (o.freq - o.target) + (o.target - o.freq) ≤ 10000000 := by
  unfold Osc.settles
  rw [Bool.and_eq_true, Bool.and_eq_true, Bool.and_eq_true, Bool.and_eq_true, bne_iff_ne, bne_iff_ne, beq_iff_eq,
    decide_eq_true_iff, and_assoc, and_assoc, and_assoc]
  rfl

theorem hasArrived_iff (o : Osc) :
    o.hasArrived = true ↔ o.running = true ∧ o.gliding = true ∧ o.freq = o.target := by
  unfold Osc.hasArrived
  rw [Bool.and_eq_true, Bool.and_eq_true, beq_iff_eq, and_assoc]

theorem energiseDue_iff (s : State) (b : Berth) :
    s.energiseDue b = true ↔ ∃ us, (s.seq.get b).volt = .rising us ∧ (s.params.get b).energiseRampS * 1000000 ≤ us := by
  unfold State.energiseDue
  cases (s.seq.get b).volt with
  | rising us => exact decide_eq_true_iff.trans ⟨fun le => ⟨us, rfl, le⟩, fun ⟨y, same, le⟩ => VoltRamp.rising.inj same ▸ le⟩
  | zero => exact iff_of_false Bool.false_ne_true fun ⟨_, at_, _⟩ => nomatch at_
  | nominal => exact iff_of_false Bool.false_ne_true fun ⟨_, at_, _⟩ => nomatch at_
  | falling us => exact iff_of_false Bool.false_ne_true fun ⟨_, at_, _⟩ => nomatch at_

theorem deEnergiseDue_iff (s : State) (b : Berth) :
    s.deEnergiseDue b = true ↔
      ∃ us, (s.seq.get b).volt = .falling us ∧ (s.params.get b).energiseRampS * 1000000 ≤ us := by
  unfold State.deEnergiseDue
  cases (s.seq.get b).volt with
  | falling us => exact decide_eq_true_iff.trans ⟨fun le => ⟨us, rfl, le⟩, fun ⟨y, same, le⟩ => VoltRamp.falling.inj same ▸ le⟩
  | zero => exact iff_of_false Bool.false_ne_true fun ⟨_, at_, _⟩ => nomatch at_
  | nominal => exact iff_of_false Bool.false_ne_true fun ⟨_, at_, _⟩ => nomatch at_
  | rising us => exact iff_of_false Bool.false_ne_true fun ⟨_, at_, _⟩ => nomatch at_

theorem rampOver_iff (q : Seq) :
    q.rampOver = true ↔ q.dir = .rising ∧ q.target * 1000000 ≤ q.setpoint ∨ q.dir = .falling ∧ q.setpoint = 0 := by
  unfold Seq.rampOver
  cases q.dir with
  | level => exact iff_of_false Bool.false_ne_true fun at_ => at_.elim (fun x => nomatch x.1) fun x => nomatch x.1
  | rising =>
    rw [decide_eq_true_iff, or_iff_left (fun x => nomatch x.1), and_iff_right rfl]
    rfl
  | falling => rw [beq_iff_eq, or_iff_right (fun x => nomatch x.1), and_iff_right rfl]

theorem filterDue_iff (u : Sync) : u.filterDue = true ↔ u.level ≠ u.view ∧ 5000 ≤ u.heldUs := by
  unfold Sync.filterDue
  rw [Bool.and_eq_true, bne_iff_ne, decide_eq_true_iff]
  rfl

theorem rise_due_iff (s : State) (b : Berth) :
    isDue s (.breakerViewRise b) = true ↔
      (s.sync.get b).level = true ∧ (s.sync.get b).view = false ∧ 5000 ≤ (s.sync.get b).heldUs := by
  show ((s.sync.get b).filterDue && (s.sync.get b).level) = true ↔ _
  rw [Bool.and_eq_true, filterDue_iff]
  cases (s.sync.get b).level <;> cases (s.sync.get b).view <;> simp

theorem fall_due_iff (s : State) (b : Berth) :
    isDue s (.breakerViewFall b) = true ↔
      (s.sync.get b).level = false ∧ (s.sync.get b).view = true ∧ 5000 ≤ (s.sync.get b).heldUs := by
  show ((s.sync.get b).filterDue && !(s.sync.get b).level) = true ↔ _
  rw [Bool.and_eq_true, filterDue_iff]
  cases (s.sync.get b).level <;> cases (s.sync.get b).view <;> simp

theorem driveBreaker_eq (s : State) (b : Berth) (closed : Bool) :
    s.driveBreaker b closed = s.updSync b fun u =>
      { u with level := closed, heldUs := if u.level = closed then u.heldUs else 0 } := by
  refine congrArg (s.updSync b) (funext fun u => ?_)
  split
  next same => rw [← same]
  next => rfl

/-- Settles O2, from the step's equation and the condition of each command that can be due. -/
theorem idleStepQueuesWhatIsDue : Obligations.IdleStepQueuesWhatIsDue := by
  unfold Obligations.IdleStepQueuesWhatIsDue
  refine ⟨fun s none due => ?_, fun s none due => ?_, fun s c => mem_dueList, fun s c listed due => ?_,
    fun s c => timed_of_due, fun s m c x at_ => ?_, fun s b c x at_ => ?_, fun s b c x l at_ => ?_, fun s => ?_,
    fun s b q o seq osc => ?_, fun s b => ⟨rise_due_iff s b, fall_due_iff s b, driveBreaker_eq s b⟩⟩
  · rw [step_idle none, idle_due due]
  · rw [step_idle none, idle_nothing due]
  · exact exec_not_due (isTimed_of_mem listed) due
  · simp only [List.mem_cons, Prod.mk.injEq, List.not_mem_nil, or_false] at at_
    rcases at_ with ⟨rfl, rfl⟩ | ⟨rfl, rfl⟩ | ⟨rfl, rfl⟩ | ⟨rfl, rfl⟩ | ⟨rfl, rfl⟩ | ⟨rfl, rfl⟩ <;>
      exact Timer.isDue_iff _
  · simp only [List.mem_cons, Prod.mk.injEq, List.not_mem_nil, or_false] at at_
    rcases at_ with ⟨rfl, rfl⟩ | ⟨rfl, rfl⟩ | ⟨rfl, rfl⟩ | ⟨rfl, rfl⟩ | ⟨rfl, rfl⟩ | ⟨rfl, rfl⟩ | ⟨rfl, rfl⟩ |
        ⟨rfl, rfl⟩ <;>
      exact Timer.isDue_iff _
  · have one := beq_iff_mem_singleton (s.seq.get b).state
    rw [List.mem_cons, List.mem_cons, List.mem_cons, List.mem_cons, List.mem_cons, List.mem_cons, List.mem_cons,
      List.mem_singleton] at at_
    simp only [Prod.mk.injEq] at at_
    rcases at_ with ⟨rfl, rfl, rfl⟩ | ⟨rfl, rfl, rfl⟩ | ⟨rfl, rfl, rfl⟩ | ⟨rfl, rfl, rfl⟩ | ⟨rfl, rfl, rfl⟩ |
      ⟨rfl, rfl, rfl⟩ | ⟨rfl, rfl, rfl⟩ | ⟨rfl, rfl, rfl⟩
    · exact due_in_iff (one .energising)
    · exact due_in_iff (isWatching_iff _)
    · exact due_in_iff (isParallel_iff _)
    · exact due_in_iff (judgesOverload_iff _)
    · exact due_in_iff (judgesReverse_iff _)
    · exact due_in_iff (one .armed)
    · exact due_in_iff (one .closing)
    · exact due_in_iff (one .opening)
  · exact ⟨due_in_iff beq_iff_eq, decide_eq_true_iff, .rfl, fun m => blankingOver_iff s.now (s.mods.get m)⟩
  · rw [seq, osc]
    refine ⟨settles_iff _ _, hasArrived_iff _, ?_, ?_, bne_iff_ne, rampOver_iff _⟩
    · exact (Bool.and_eq_true _ _ ▸ (and_congr (energiseDue_iff s b) beq_iff_eq).trans and_comm)
    · exact (Bool.and_eq_true _ _ ▸ (and_congr (deEnergiseDue_iff s b) beq_iff_eq).trans and_comm)

end Sys2Proof.Machine
end

section
/-! Proofs: what one microsecond does to each record (log 1), and the state after power-on reset. -/

namespace Sys2Proof.Machine

/-! ## One microsecond, record by record -/

theorem advanceBerth_eq (b : Berth) (s : State) :
    ∃ o m y q, advanceBerth b s = { s with osc := o, meas := m, sync := y, seq := q } := ⟨_, _, _, _, rfl⟩

/-- One microsecond of the berths leaves all else. -/
theorem advanceBerths_eq (s : State) :
    ∃ o m y q, forBerths advanceBerth s = { s with osc := o, meas := m, sync := y, seq := q } := by
  unfold forBerths
  obtain ⟨o, m, y, q, e⟩ := advanceBerth_eq .b0 s
  rw [e]
  obtain ⟨o, m, y, q, e⟩ := advanceBerth_eq .b1 { s with osc := o, meas := m, sync := y, seq := q }
  rw [e]
  obtain ⟨o, m, y, q, e⟩ := advanceBerth_eq .b2 { s with osc := o, meas := m, sync := y, seq := q }
  exact ⟨o, m, y, q, e⟩

/-- The count and the TIMEBASE frame move apart from all else. -/
theorem advance_count (s : State) :
    (advance s).now = (advanceCount s).now ∧ (advance s).tbPhase = (advanceCount s).tbPhase ∧
      (advance s).tbValue = (advanceCount s).tbValue := by
  obtain ⟨o, m, y, q, e⟩ := advanceBerths_eq (advanceCount s)
  unfold advance
  rw [e]
  exact ⟨rfl, rfl, rfl⟩

theorem advance_now (s : State) : (advance s).now = s.now + 1 := by
  rw [(advance_count s).1]
  unfold advanceCount
  dsimp only
  split <;> rfl

/-- What the TIMEBASE count leaves as it was. -/
theorem advanceCount_eq (s : State) :
    ∃ p v, advanceCount s = { s with now := s.now + 1, tbPhase := p, tbValue := v } := by
  unfold advanceCount
  dsimp only
  split
  · exact ⟨_, _, rfl⟩
  · exact ⟨_, _, rfl⟩

theorem advance_osc (s : State) (b : Berth) :
    (advance s).osc.get b = (s.osc.get b).tick ((s.osc.get b).slewRate (s.params.get b) (s.shipFresh b)) := by
  obtain ⟨p, v, e⟩ := advanceCount_eq s
  unfold advance
  rw [e]
  cases b <;> rfl

theorem advance_meas (s : State) (b : Berth) : (advance s).meas.get b = (s.meas.get b).advance := by
  obtain ⟨p, v, e⟩ := advanceCount_eq s
  unfold advance
  rw [e]
  cases b <;> rfl

theorem advance_sync (s : State) (b : Berth) : (advance s).sync.get b = (s.sync.get b).advance := by
  obtain ⟨p, v, e⟩ := advanceCount_eq s
  unfold advance
  rw [e]
  cases b <;> rfl

theorem advance_seq (s : State) (b : Berth) : (advance s).seq.get b = (s.seq.get b).advance (s.params.get b) := by
  obtain ⟨p, v, e⟩ := advanceCount_eq s
  unfold advance
  rw [e]
  cases b <;> rfl

/-- What does not belong to a berth, after one microsecond. -/
theorem advance_station (s : State) :
    ∃ p v o m y q, advance s =
      { s with
        now := s.now + 1, tbPhase := p, tbValue := v, osc := o, meas := m, sync := y, seq := q
        tripHold := s.tripHold.tick, mods := s.mods.map Module.advance
        claims := s.claims.map fun c => { c with timer := c.timer.tick }
        jour := { s.jour with coalTimer := s.jour.coalTimer.tick }
        page := { s.page with
          unlockTimer := s.page.unlockTimer.tick, hbTimer := s.page.hbTimer.tick
          lostUs := if s.page.presence = .lost then s.page.lostUs + 1 else s.page.lostUs } } := by
  obtain ⟨p, v, counted⟩ := advanceCount_eq s
  obtain ⟨o, m, y, q, e⟩ := advanceBerths_eq (advanceCount s)
  rw [counted] at e
  unfold advance
  rw [counted, e]
  exact ⟨p, v, o, m, y, q, rfl⟩

/-- Settles O3, from the record equations above. -/
theorem microsecondAdvancesTimers : Obligations.MicrosecondAdvancesTimers := by
  unfold Obligations.MicrosecondAdvancesTimers
  refine ⟨fun _ => rfl, rfl, rfl, fun _ => rfl, fun s => ?_⟩
  obtain ⟨p, v, o, m, y, q, e⟩ := advance_station s
  refine ⟨advance_now s, by rw [e], fun m => ?_, by rw [e], fun b => ?_, fun b => ?_, fun b => ?_, by rw [e], by rw [e],
    by rw [e], by rw [e], by rw [e], by rw [e], by rw [e], by rw [e], by rw [e], by rw [e], by rw [e], by rw [e],
    by rw [e]⟩
  · rw [e]; exact PerModule.get_map ..
  · rw [advance_meas]; rfl
  · rw [advance_sync]; rfl
  · rw [advance_seq]; rfl

/-! ## Oscillators and ramps -/

theorem moveToward_up {f t : Nat} (h : f ≤ t) (d : Nat) : moveToward f t d = min t (f + d) := by
  unfold moveToward
  split <;> omega

theorem moveToward_down {f t : Nat} (h : t ≤ f) (d : Nat) : moveToward f t d = max t (f - d) := by
  unfold moveToward
  split <;> omega

theorem tick_running {o : Osc} (h : o.running = true) (slew : Nat) :
    o.tick slew =
      { o with
        freq := moveToward o.freq o.target slew
        phase := (o.phase + o.freq + moveToward o.freq o.target slew) % 2000000000000000 } := if_pos h

/-- Settles O4, from the record equations of one microsecond. -/
theorem oscillatorAndRampsPerMicrosecond : Obligations.OscillatorAndRampsPerMicrosecond := by
  unfold Obligations.OscillatorAndRampsPerMicrosecond
  intro s b
  rw [advance_osc, advance_seq]
  refine ⟨fun stopped => ?_, fun running slew rate => ?_, fun level => ?_, fun rising below => ?_, fun falling => ?_,
    fun us rising => ?_, fun us falling => ?_, fun still => ?_⟩
  · unfold Osc.tick
    rw [stopped]
    rfl
  · have slews : (s.osc.get b).slewRate (s.params.get b) (s.shipFresh b) = slew := rate.symm
    rw [slews, tick_running running]
    exact ⟨fun up => moveToward_up up slew, fun down => moveToward_down down slew, rfl⟩
  · show (s.seq.get b).moveSetpoint _ = _
    unfold Seq.moveSetpoint
    rw [level]
  · show (s.seq.get b).moveSetpoint _ = _
    unfold Seq.moveSetpoint
    rw [rising]
    exact congrArg (min · _) (Nat.max_eq_right below)
  · show (s.seq.get b).moveSetpoint _ = _
    unfold Seq.moveSetpoint
    rw [falling]
  · show (s.seq.get b).volt.advance = _
    rw [rising]
    rfl
  · show (s.seq.get b).volt.advance = _
    rw [falling]
    rfl
  · show (s.seq.get b).volt.advance = _
    rcases still with at_ | at_ <;> rw [at_] <;> rfl

/-! ## TIMEBASE (R192) -/

theorem advance_frame (s : State) :
    (s.tbPhase < 999 → (advance s).tbPhase = s.tbPhase + 1 ∧ (advance s).tbValue = s.tbValue) ∧
      (999 ≤ s.tbPhase → (advance s).tbPhase = 0 ∧ (advance s).tbValue = some (s.now + 1)) := by
  obtain ⟨-, phase, value⟩ := advance_count s
  rw [phase, value]
  have frame : Config.timebaseFrameUs = 1000 := rfl
  unfold advanceCount
  dsimp only
  rw [frame]
  split
  next more => exact ⟨fun _ => ⟨rfl, rfl⟩, fun last => absurd more (by omega)⟩
  next last => exact ⟨fun more => absurd (show s.tbPhase + 1 < 1000 by omega) last, fun _ => ⟨rfl, rfl⟩⟩

theorem timebaseLine_frame {s : State} {v : Word} (h : s.tbValue = some v) :
    s.timebaseLine = if s.tbPhase = 0 then false else if s.tbPhase ≤ 32 then v.getLsbD (s.tbPhase - 1) else true := by
  unfold State.timebaseLine
  rw [h]

/-- Settles O5, from the frame's count and the line's equation. -/
theorem timebaseFrame : Obligations.TimebaseFrame := by
  unfold Obligations.TimebaseFrame
  refine ⟨fun s more => (advance_frame s).1 more, fun s last => ?_, fun s v frame => ⟨fun start => ?_, fun i bit at_ => ?_,
    fun after => ?_⟩, fun s none => ?_⟩
  · rw [advance_now]
    exact (advance_frame s).2 (Nat.le_of_eq last.symm)
  · rw [timebaseLine_frame frame, if_pos start]
  · rw [timebaseLine_frame frame, at_, if_neg (Nat.succ_ne_zero i), if_pos (Nat.succ_le_of_lt bit), Nat.add_sub_cancel]
  · rw [timebaseLine_frame frame, if_neg (by omega), if_neg (by omega)]
  · unfold State.timebaseLine
    rw [none]

/-! ## The state after power-on reset -/

theorem reset_berthsOk : State.reset.BerthsOk := by
  refine berthsOk_of_reset (fun b => ?_) rfl (fun b => ?_) (fun m => ?_) fun b => ?_
  · cases b <;> rfl
  · cases b <;> rfl
  · cases m <;> exact ⟨rfl, rfl, rfl⟩
  · cases b <;> exact ⟨rfl, rfl, rfl⟩

/-- Settles O58: each invariant, on the reset values of what it reads. -/
theorem invariantsHoldAtReset : Obligations.InvariantsHoldAtReset := by
  unfold Obligations.InvariantsHoldAtReset
  obtain ⟨lines, claims, osc, modes, retry, setpoints, idle⟩ := reset_berthsOk
  have queue : State.reset.QueueOk := by
    refine ⟨fun b => ?_, by decide, by decide, rfl⟩
    cases b <;> decide
  have pass : State.reset.PassOk := ⟨List.nodup_nil, List.not_mem_nil⟩
  have arbiter : State.reset.ArbiterOk :=
    ⟨fun _ => ⟨rfl, rfl⟩, iff_of_false (fun ⟨_, at_, _⟩ => nomatch at_) (fun ⟨_, _, at_⟩ => nomatch at_), Nat.zero_le 4⟩
  exact ⟨memWf_reset, lines, queue, pass, claims, osc, modes, retry, setpoints, arbiter, tableOk_of_reset rfl rfl,
    ringOk_of_reset rfl rfl rfl rfl, idle⟩

end Sys2Proof.Machine
end

section
/-! Proofs: power-on reset, line reset, its release and the end of the trip hold (O8 to O11). -/

namespace Sys2Proof.Machine

/-! ## One berth through an operation of all berths -/

/-- Where an operation of each berth keeps `P`, and leaves `b` in the relation `R` when it is another berth's, `b` comes to
its own turn from the start, and from its own turn to the end, by `R`. -/
theorem forBerths_turn {f : Berth → State → State} {P : State → Prop} {R : State → State → Prop} (b : Berth)
    (refl : ∀ s, R s s) (trans : ∀ {s t u}, R s t → R t u → R s u) (keeps : ∀ c {s}, P s → P (f c s))
    (other : ∀ c {s}, P s → c ≠ b → R s (f c s)) {s : State} (h : P s) :
    ∃ u, P u ∧ R s u ∧ R (f b u) (forBerths f s) := by
  have p0 := keeps .b0 h
  have p1 := keeps .b1 p0
  cases b with
  | b0 => exact ⟨s, h, refl s, trans (other .b1 p0 nofun) (other .b2 p1 nofun)⟩
  | b1 => exact ⟨f .b0 s, p0, other .b0 h nofun, other .b2 p1 nofun⟩
  | b2 => exact ⟨f .b1 (f .b0 s), p1, trans (other .b0 h nofun) (other .b1 p0 nofun), refl _⟩

/-! ## Bits of the event summary -/

/-- Every bit of EVENT_SUMMARY that was 1 is 1. -/
def State.KeepsBits (s t : State) : Prop := ∀ k, s.summaryBit k = true → t.summaryBit k = true

theorem State.KeepsBits.refl (s : State) : s.KeepsBits s := fun _ => id

theorem State.KeepsBits.trans {s t u : State} (h : s.KeepsBits t) (k : t.KeepsBits u) : s.KeepsBits u :=
  fun j => k j ∘ h j

theorem keepsBits_of_page {s t : State} (h : t.page = s.page) : s.KeepsBits t := fun k bit => by
  unfold State.summaryBit at bit ⊢
  rw [h]
  exact bit

theorem setSummary_bits (k : SummaryBit) (s : State) : s.KeepsBits (setSummary k s) := fun j => setSummary_keeps k j s

theorem emitEvent_bits (c : EventCode) (q : Nat) (o : Option Berth) (ws : List Word) (s : State) :
    s.KeepsBits (emitEvent c q o ws s) := fun k => summaryBit_emitEvent k c q o ws s

theorem completeCurrent_bits (b : Berth) (o : ReqOutcome) (c : Option Cause) (s : State) :
    s.KeepsBits (completeCurrent b o c s) := fun k => summaryBit_completeCurrent k b o c s

theorem recomputeShares_page (b : Berth) (s : State) : (recomputeShares b s).page = s.page := by
  obtain ⟨ms, -, e⟩ := recomputeShares_spec b s
  rw [e]

theorem refreshDirection_page (b : Berth) (s : State) : (refreshDirection b s).page = s.page := by
  obtain ⟨ms, -, e⟩ := refreshDirection_spec b s
  rw [e]

theorem capacityReport_page (b : Berth) (s : State) : (capacityReport b s).page = s.page :=
  ((recomputeShares_page b _).trans (refreshDirection_page b _) :)

theorem reportIfChanged_page (b : Berth) (n : Nat) (s : State) : (reportIfChanged b n s).page = s.page := by
  unfold reportIfChanged
  split
  · exact recomputeShares_page b s
  · exact capacityReport_page b s

theorem State.ModsOnly.page {s t : State} (h : s.ModsOnly t) : t.page = s.page := by rw [h]

theorem noteTrip_page (b : Berth) (s : State) : (noteTrip b s).page = s.page := rfl

theorem enterTripped_bits (b : Berth) (c : TripCause) (s : State) : s.KeepsBits (enterTripped b c s) := by
  by_cases tripped : (s.seq.get b).state = .tripped
  · unfold enterTripped
    rw [if_pos tripped]
    exact .refl s
  · rw [enterTripped_eq b c s tripped]
    have mid : (trippedMid b (s.updSeq b fun q => { q with tripCause := some c })).page = s.page :=
      (blockModules_modsOnly b _).page.trans (enterState_page b _ _)
    unfold trippedRest
    exact (keepsBits_of_page ((reportIfChanged_page b _ _).trans mid)).trans ((setSummary_bits _ _).trans
      ((emitEvent_bits _ _ _ _ _).trans ((keepsBits_of_page (noteTrip_page b _)).trans (completeCurrent_bits b _ _ _))))

/-! ## An uncommanded close -/

/-- The state in which the trip of an uncommanded close is taken: TRIP is pulsed, and the prediction and the claim are
gone. -/
def beforeTrip (b : Berth) (s : State) : State :=
  removeClaim b ((issueTrip b s).updSync b fun u => { u with closeDue := .stopped, secondTrip := false })

theorem uncommandedClose_eq (b : Berth) (s : State) :
    uncommandedClose b s = tryIf (s.headClaim b) (enterTripped b .uncommandedClose (beforeTrip b s)) := rfl

theorem beforeTrip_sync (b : Berth) (s : State) : (beforeTrip b s).sync.get b =
    { s.sync.get b with
      closePulse := .stopped, tripPulse := .running Config.pulseUs, closeDue := .stopped, secondTrip := false } := by
  unfold beforeTrip removeClaim issueTrip
  rw [State.updSync_self, State.updSync_self]

theorem beforeTrip_sync_other {b c : Berth} (ne : c ≠ b) (s : State) :
    (beforeTrip b s).sync.get c = s.sync.get c := by
  unfold beforeTrip removeClaim issueTrip
  rw [State.updSync_other _ _ _ _ ne, State.updSync_other _ _ _ _ ne]

/-- What TRIPPED leaves of the unit: at most the prediction goes. -/
theorem enterTripped_sync (b : Berth) (c : TripCause) (s : State) :
    (enterTripped b c s).sync.get b = s.sync.get b ∨
      (enterTripped b c s).sync.get b = dropPrediction (s.sync.get b) := by
  by_cases tripped : (s.seq.get b).state = .tripped
  · unfold enterTripped
    rw [if_pos tripped]
    exact .inl rfl
  · rw [(enterTripped_trips b c s tripped).2.1]
    unfold enteredSync
    split
    · exact .inr rfl
    · exact .inl rfl

/-- R91, R118: a berth whose breaker closed without a command is tripped, and TRIP is pulsed. -/
structure State.Pulsed (b : Berth) (s : State) : Prop where
  state : (s.seq.get b).state = .tripped
  trip : (s.sync.get b).tripPulse = .running Config.pulseUs
  close : (s.sync.get b).closePulse = .stopped
  claims : ∀ c ∈ s.claims, c.berth ≠ b

theorem enterTripped_pulsed (b : Berth) (s : State) : (enterTripped b .uncommandedClose (beforeTrip b s)).Pulsed b := by
  have unit := beforeTrip_sync b s
  have claims : ∀ c ∈ (enterTripped b .uncommandedClose (beforeTrip b s)).claims, c.berth ≠ b := by
    rw [(enterTripped_only b _ _).claims]
    exact removeClaim_none b _
  rcases enterTripped_sync b .uncommandedClose (beforeTrip b s) with sync | sync <;> rw [unit] at sync
  · exact ⟨enterTripped_state b _ _, by rw [sync], by rw [sync], claims⟩
  · exact ⟨enterTripped_state b _ _, by rw [sync]; rfl, by rw [sync]; rfl, claims⟩

theorem tryIf_pulsed {b : Berth} (head : Bool) {s : State} (h : s.Pulsed b) : (tryIf head s).Pulsed b := by
  have kept := tryIf_keeps head s h.claims (by rw [h.state]; rfl)
  exact
    { state := by rw [kept.seq, h.state]
      trip := by rw [kept.sync, h.trip]
      close := by rw [kept.sync, h.close]
      claims := fun c mem => h.claims c ((tryIf_claims head s).subset mem) }

theorem uncommandedClose_pulsed (b : Berth) (s : State) : (uncommandedClose b s).Pulsed b :=
  tryIf_pulsed _ (enterTripped_pulsed b s)

/-! ## What is never the pool's: the view and the dead-time timer -/

/-- The breaker views and the dead-time timers are as they were. -/
def State.SameViews (s t : State) : Prop :=
  ∀ b, (t.sync.get b).view = (s.sync.get b).view ∧ (t.sync.get b).deadTime = (s.sync.get b).deadTime

theorem State.SameViews.refl (s : State) : s.SameViews s := fun _ => ⟨rfl, rfl⟩

theorem State.SameViews.trans {s t u : State} (h : s.SameViews t) (k : t.SameViews u) : s.SameViews u := fun b =>
  ⟨(k b).1.trans (h b).1, (k b).2.trans (h b).2⟩

theorem sameViews_of_sync {s t : State} (h : t.sync = s.sync) : s.SameViews t := fun b => by
  rw [h]
  exact ⟨rfl, rfl⟩

theorem sameViews_of_berth (b : Berth) {s t : State} (other : ∀ c, c ≠ b → t.sync.get c = s.sync.get c)
    (view : (t.sync.get b).view = (s.sync.get b).view) (dead : (t.sync.get b).deadTime = (s.sync.get b).deadTime) :
    s.SameViews t := fun c => by
  by_cases own : c = b
  · rw [own]
    exact ⟨view, dead⟩
  · rw [other c own]
    exact ⟨rfl, rfl⟩

theorem State.ModsOnly.sameViews {s t : State} (h : s.ModsOnly t) : s.SameViews t := sameViews_of_sync (by rw [h])

theorem enterState_sameViews (b : Berth) (new : BerthState) (s : State) : s.SameViews (enterState b new s) := by
  have own : (enterState b new s).sync.get b = enteredSync b new s := by
    rw [enterState_sync, PerBerth.get_set_self]
  refine sameViews_of_berth b (enterState_only b new s).sync ?_ ?_
  all_goals
    rw [own]
    unfold enteredSync
    split <;> rfl

theorem serveClaims_sameViews (cs : List Claim) (s : State) : s.SameViews (serveClaims cs s) := by
  induction cs generalizing s with
  | nil => exact sameViews_of_sync rfl
  | cons c cs ih =>
    unfold serveClaims
    split
    · exact sameViews_of_sync rfl
    next ms _ =>
      have assigned : s.SameViews (assignAll c.berth ms { s with claims := cs }) :=
        (assignAll_modsOnly c.berth ms { s with claims := cs }).sameViews
      exact (assigned.trans (enterState_sameViews _ _ _)).trans (ih _)

theorem tryIf_sameViews (head : Bool) (s : State) : s.SameViews (tryIf head s) := by
  unfold tryIf
  split
  · exact (serveNeeds_modsOnly none s).sameViews.trans (serveClaims_sameViews _ _)
  · exact .refl s

theorem beforeTrip_sameViews (b : Berth) (s : State) : s.SameViews (beforeTrip b s) :=
  sameViews_of_berth b (fun _ ne => beforeTrip_sync_other ne s) (by rw [beforeTrip_sync]) (by rw [beforeTrip_sync])

theorem enterTripped_sameViews (b : Berth) (c : TripCause) (s : State) : s.SameViews (enterTripped b c s) := by
  rcases enterTripped_sync b c s with sync | sync
  · exact sameViews_of_berth b (enterTripped_only b c s).sync (by rw [sync]) (by rw [sync])
  · exact sameViews_of_berth b (enterTripped_only b c s).sync (by rw [sync]; rfl) (by rw [sync]; rfl)

theorem uncommandedClose_sameViews (b : Berth) (s : State) : s.SameViews (uncommandedClose b s) :=
  ((beforeTrip_sameViews b s).trans (enterTripped_sameViews b _ _)).trans (tryIf_sameViews _ _)

theorem tripIfClosed_sameViews (b : Berth) (s : State) : s.SameViews (tripIfClosed b s) := by
  unfold tripIfClosed
  split
  · exact uncommandedClose_sameViews b s
  · exact .refl s

/-- A berth that was tripped stays so while another's close is taken. -/
theorem uncommandedClose_other_pulsed {b c : Berth} (ne : b ≠ c) {s : State} (h : s.Pulsed b) :
    (uncommandedClose c s).Pulsed b := by
  rw [uncommandedClose_eq]
  have only := enterTripped_only c .uncommandedClose (beforeTrip c s)
  have unit : (enterTripped c .uncommandedClose (beforeTrip c s)).sync.get b = s.sync.get b :=
    (only.sync b ne).trans (beforeTrip_sync_other ne s)
  refine tryIf_pulsed _ ⟨?_, by rw [unit, h.trip], by rw [unit, h.close], fun k mem => ?_⟩
  · rw [only.seq b ne]
    exact h.state
  · rw [only.claims] at mem
    exact h.claims k (List.mem_filter.mp mem).1

theorem tripIfClosed_other_pulsed {b c : Berth} (ne : b ≠ c) {s : State} (h : s.Pulsed b) :
    (tripIfClosed c s).Pulsed b := by
  unfold tripIfClosed
  split
  · exact uncommandedClose_other_pulsed ne h
  · exact h

end Sys2Proof.Machine
end

section
/-! Proofs: power-on reset and the end of the trip hold (O8, O11). -/

namespace Sys2Proof.Machine

/-! ## Power-on reset -/

theorem tripIfClosed_open {b : Berth} {s : State} (h : (s.sync.get b).view = false) : tripIfClosed b s = s := by
  unfold tripIfClosed
  rw [h]
  rfl

theorem tripIfClosed_closed {b : Berth} {s : State} (h : (s.sync.get b).view = true) :
    tripIfClosed b s = uncommandedClose b s := by
  unfold tripIfClosed
  rw [if_pos h]

/-- R25, R41, R140: no claim waits, no module serves a berth and no session is open. -/
structure State.Released (s : State) : Prop where
  pool : s.PoolAtReset
  sessions : s.SessionsAtReset

theorem tripIfClosed_released (b : Berth) {s : State} (h : s.Released) : (tripIfClosed b s).Released :=
  ⟨tripIfClosed_poolAtReset b h.pool, tripIfClosed_sessionsAtReset b h.pool.claims h.sessions⟩

theorem powerOn_released (c0 c1 c2 : Bool) (s : State) : (powerOn c0 c1 c2 s).Released :=
  ⟨powerOn_poolAtReset c0 c1 c2 s, powerOn_sessionsAtReset c0 c1 c2 s⟩

/-- With no claim queued, nothing follows the trip. -/
theorem uncommandedClose_released {s : State} (b : Berth) (h : s.Released) :
    uncommandedClose b s = enterTripped b .uncommandedClose (beforeTrip b s) := by
  have head : s.headClaim b = false := by unfold State.headClaim; rw [h.pool.claims]
  rw [uncommandedClose_eq, head]
  rfl

theorem beforeTrip_page (b : Berth) (s : State) : (beforeTrip b s).page = s.page := rfl

theorem uncommandedClose_bits {s : State} (b : Berth) (h : s.Released) : s.KeepsBits (uncommandedClose b s) := by
  rw [uncommandedClose_released b h]
  exact (keepsBits_of_page (beforeTrip_page b s)).trans (enterTripped_bits b _ _)

/-- The unit and the context of berth `b` are as they were, and no bit of EVENT_SUMMARY is cleared. -/
structure State.SparesBerth (b : Berth) (s t : State) : Prop where
  seq : t.seq.get b = s.seq.get b
  sync : t.sync.get b = s.sync.get b
  bits : s.KeepsBits t

theorem State.SparesBerth.refl {b : Berth} (s : State) : s.SparesBerth b s := ⟨rfl, rfl, .refl s⟩

theorem State.SparesBerth.trans {b : Berth} {s t u : State} (h : s.SparesBerth b t) (k : t.SparesBerth b u) :
    s.SparesBerth b u :=
  ⟨k.seq.trans h.seq, k.sync.trans h.sync, h.bits.trans k.bits⟩

theorem tripIfClosed_spares {b c : Berth} (ne : c ≠ b) {s : State} (h : s.Released) :
    s.SparesBerth b (tripIfClosed c s) := by
  unfold tripIfClosed
  split
  · have only := uncommandedClose_only c h.pool.claims
    exact ⟨only.seq b ne.symm, only.sync b ne.symm, uncommandedClose_bits c h⟩
  · exact .refl s

theorem powerOn_seq (c0 c1 c2 : Bool) (s : State) (b : Berth) : (powerOn c0 c1 c2 s).seq.get b = Seq.reset 0 := by
  cases b <;> rfl

theorem powerOn_sync (c0 c1 c2 : Bool) (s : State) (b : Berth) :
    (powerOn c0 c1 c2 s).sync.get b = Sync.reset ((PerBerth.mk c0 c1 c2).get b) (.running 5000000) := by
  cases b <;> rfl

/-! ## The EVENTs of the release -/

/-- What a berth's EVENT at the release depends on: the journal and the clock, for no session is open. -/
structure State.SameRecorder (s t : State) : Prop where
  jour : t.jour = s.jour
  clock : t.clock = s.clock
  before : ∀ b, s.sessions.get b = none
  after : ∀ b, t.sessions.get b = none

theorem State.SameRecorder.quiet {s t : State} (h : s.SameRecorder t) : s.Quiet t :=
  ⟨h.jour, h.clock, fun b => by unfold State.sessionNumber; rw [h.before b, h.after b]⟩

/-- The EVENT that tells a close at the release, where the breaker is closed. -/
def tellIfClosed (closed : PerBerth Bool) (b : Berth) (u : State) : State :=
  if closed.get b = true then
    emitEvent .tripped TripCause.uncommandedClose.toCause.code (some b) [put 0 32 BerthState.idle.code] u
  else u

theorem beforeTrip_quiet (b : Berth) (s : State) : s.Quiet (beforeTrip b s) := quiet_of rfl rfl rfl

/-- R95, R144: a berth that is closed at the release produces the EVENT TRIPPED, and no other record. -/
theorem tripIfClosed_recorder {closed : PerBerth Bool} {b : Berth} {s v : State} (h : s.Released)
    (idle : (s.seq.get b).state = .idle) (view : (s.sync.get b).view = closed.get b) (same : v.SameRecorder s) :
    (tellIfClosed closed b v).SameRecorder (tripIfClosed b s) := by
  have after : ∀ c, (tripIfClosed b s).sessions.get c = none := (tripIfClosed_released b h).sessions.sessions
  unfold tellIfClosed
  split
  next is =>
    have taken : tripIfClosed b s = enterTripped b .uncommandedClose (beforeTrip b s) :=
      (tripIfClosed_closed (view.trans is)).trans (uncommandedClose_released b h)
    have idle' : ((beforeTrip b s).seq.get b).state = .idle := idle
    have told := enterTripped_jour b .uncommandedClose (beforeTrip b s) (by rw [idle']; nofun)
    refine ⟨?_, ?_, fun c => ?_, after⟩
    · rw [taken, told, idle', emitEvent_jour (same.quiet.trans (beforeTrip_quiet b s))]
    · obtain ⟨_, _, _, e⟩ := emitEvent_rest .tripped TripCause.uncommandedClose.toCause.code (some b)
        [put 0 32 BerthState.idle.code] v
      rw [(tripIfClosed_same b s).clock, same.clock, e]
    · rw [emitEvent_sessions]
      exact same.before c
  next isnt =>
    rw [tripIfClosed_open (view.trans (Bool.eq_false_iff.mpr isnt))]
    exact same

theorem powerOnReset_recorder (c0 c1 c2 : Bool) (s : State) :
    (forBerths (tellIfClosed ⟨c0, c1, c2⟩) State.reset).SameRecorder (powerOnReset c0 c1 c2 s) := by
  have start := powerOn_released c0 c1 c2 s
  have first := tripIfClosed_released .b0 start
  have second := tripIfClosed_released .b1 first
  have spare01 := tripIfClosed_spares (b := .b1) (c := .b0) nofun start
  have spare02 := tripIfClosed_spares (b := .b2) (c := .b0) nofun start
  have spare12 := tripIfClosed_spares (b := .b2) (c := .b1) nofun first
  have none : State.reset.SameRecorder (powerOn c0 c1 c2 s) :=
    ⟨rfl, rfl, PerBerth.get_all none, start.sessions.sessions⟩
  have told0 := tripIfClosed_recorder (b := .b0) (closed := ⟨c0, c1, c2⟩) start
    (by rw [powerOn_seq]; rfl) (by rw [powerOn_sync]; rfl) none
  have told1 := tripIfClosed_recorder (b := .b1) (closed := ⟨c0, c1, c2⟩) first
    (by rw [spare01.seq, powerOn_seq]; rfl) (by rw [spare01.sync, powerOn_sync]; rfl) told0
  exact tripIfClosed_recorder (b := .b2) (closed := ⟨c0, c1, c2⟩) second
    (by rw [spare12.seq, spare02.seq, powerOn_seq]; rfl) (by rw [spare12.sync, spare02.sync, powerOn_sync]; rfl) told1

/-- Settles O8: the trips at the release are each berth's own, for no claim waits, and each tells its EVENT. -/
theorem powerOnTakesBreakerLevels : Obligations.PowerOnTakesBreakerLevels := by
  refine ⟨fun s => ?_, fun c0 c1 c2 s => ⟨powerOnReset c0 c1 c2 s, rfl, (powerOnReset_recorder c0 c1 c2 s).jour, fun b => ?_⟩⟩
  · have opened : powerOnReset false false false s = powerOn false false false s := by
      unfold powerOnReset forBerths
      rw [tripIfClosed_open (b := .b0) rfl, tripIfClosed_open (b := .b1) rfl, tripIfClosed_open (b := .b2) rfl]
    exact congrArg Host.Outcome.next opened
  · have views := ((tripIfClosed_sameViews .b0 (powerOn c0 c1 c2 s)).trans (tripIfClosed_sameViews .b1 _)).trans
      (tripIfClosed_sameViews .b2 _) b
    obtain ⟨u, released, before, after⟩ := forBerths_turn (f := tripIfClosed) (P := State.Released)
      (R := State.SparesBerth b) b .refl .trans tripIfClosed_released (fun c _ h ne => tripIfClosed_spares ne h)
      (powerOn_released c0 c1 c2 s)
    have seq : u.seq.get b = Seq.reset 0 := before.seq.trans (powerOn_seq c0 c1 c2 s b)
    have sync : u.sync.get b = _ := before.sync.trans (powerOn_sync c0 c1 c2 s b)
    rw [powerOn_sync] at views
    refine ⟨views.1, views.2, fun closed => ?_, fun opened => ?_⟩
    · have own : tripIfClosed b u = uncommandedClose b u := tripIfClosed_closed (by rw [sync]; exact closed)
      have taken := uncommandedClose_released b released
      rw [own] at after
      have pulsed := uncommandedClose_pulsed b u
      have idle : ((beforeTrip b u).seq.get b).state ≠ .tripped := by
        show (u.seq.get b).state ≠ _
        rw [seq]
        nofun
      have trips := (enterTripped_trips b .uncommandedClose (beforeTrip b u) idle).1
      rw [← taken] at trips
      obtain ⟨-, cause, bit, -⟩ := trips
      refine ⟨?_, ?_, ?_, after.bits _ bit⟩
      · exact (congrArg Seq.state after.seq).trans pulsed.state
      · exact (congrArg Seq.tripCause after.seq).trans cause
      · exact (congrArg Sync.tripPulse after.sync).trans pulsed.trip
    · have own : tripIfClosed b u = u := tripIfClosed_open (by rw [sync]; exact opened)
      rw [own] at after
      exact ⟨after.seq.trans seq, congrArg Sync.tripPulse (after.sync.trans sync)⟩

/-! ## The end of the trip hold -/

theorem startDeadTime_get (s : State) (b : Berth) : ((forBerths startDeadTime s).sync.get b) =
    { s.sync.get b with deadTime := .running ((s.params.get b).deadTimeS * 1000000) } := by
  cases b <;> rfl

/-- What holds of berth `b` while the berths are tripped again: the views and dead times stay, and so does a trip. -/
structure State.Retrips (b : Berth) (s t : State) : Prop where
  views : s.SameViews t
  pulsed : s.Pulsed b → t.Pulsed b

theorem endTripHold_pulsed {b : Berth} {s : State} (h : (s.sync.get b).view = true) : (endTripHold s).Pulsed b := by
  obtain ⟨u, -, before, after⟩ := forBerths_turn (f := tripIfClosed) (P := fun _ => True) (R := State.Retrips b) b
    (fun s => ⟨.refl s, id⟩) (fun h k => ⟨h.views.trans k.views, k.pulsed ∘ h.pulsed⟩) (fun _ _ => id)
    (fun c s _ ne => ⟨tripIfClosed_sameViews c s, tripIfClosed_other_pulsed ne.symm⟩)
    (s := forBerths startDeadTime { s with tripHold := .stopped }) trivial
  have view : (u.sync.get b).view = true := by
    rw [(before.views b).1, startDeadTime_get]
    exact h
  rw [tripIfClosed_closed view] at after
  exact after.pulsed (uncommandedClose_pulsed b u)

theorem endTripHold_sameViews (s : State) :
    (forBerths startDeadTime { s with tripHold := .stopped }).SameViews (endTripHold s) :=
  ((tripIfClosed_sameViews .b0 _).trans (tripIfClosed_sameViews .b1 _)).trans (tripIfClosed_sameViews .b2 _)

theorem endTripHold_hold (s : State) : (endTripHold s).tripHold = .stopped := by
  have same := forBerths_same tripIfClosed_same (forBerths startDeadTime { s with tripHold := .stopped })
  exact same.tripHold

theorem endTripHold_open {s : State} (h : ∀ b, (s.sync.get b).view = false) :
    endTripHold s = forBerths startDeadTime { s with tripHold := .stopped } := by
  have view (b : Berth) : ((forBerths startDeadTime { s with tripHold := .stopped }).sync.get b).view = false := by
    rw [startDeadTime_get]
    exact h b
  unfold endTripHold
  generalize forBerths startDeadTime { s with tripHold := .stopped } = u at *
  unfold forBerths
  rw [tripIfClosed_open (view .b0), tripIfClosed_open (view .b1), tripIfClosed_open (view .b2)]

/-- Settles O11: a berth that is tripped again stays tripped while the berths after it are taken, and the pool's tries do
not touch a dead-time timer. -/
theorem tripHoldEndStartsDeadTimes : Obligations.TripHoldEndStartsDeadTimes := by
  have ends {s : State} (h : s.tripHold = .running 0) : exec .tripHoldEnd s = .next (endTripHold s) :=
    exec_due rfl (by show s.tripHold.isDue = true; rw [h]; rfl)
  refine ⟨fun s h => ⟨endTripHold s, ends h, endTripHold_hold s, fun b => ⟨?_, fun view => ?_⟩⟩, fun s h opened => ?_⟩
  · rw [(endTripHold_sameViews s b).2, startDeadTime_get]
  · have pulsed := endTripHold_pulsed view
    exact ⟨pulsed.state, pulsed.trip, pulsed.close⟩
  · rw [ends h, endTripHold_open opened]
    exact ⟨_, rfl, fun b => startDeadTime_get _ b⟩

end Sys2Proof.Machine
end

section
/-! Proofs: line reset and its release (O9, O10). -/

namespace Sys2Proof.Machine

/-! ## Line reset -/

theorem interruptShoreOnly_eq (b : Berth) (s : State) : interruptShoreOnly b s =
    { s with sessions := s.sessions.set b (if (s.seq.get b).state = .shoreOnly then
      (s.sessions.get b).map fun x => { x with interruptions := min (x.interruptions + 1) 65535 }
      else s.sessions.get b) } := by
  unfold interruptShoreOnly
  split
  · rfl
  · rw [PerBerth.set_get]

theorem interrupted_eq (s : State) : ∃ xs, forBerths interruptShoreOnly s = { s with sessions := xs } ∧
    ∀ b, xs.get b = if (s.seq.get b).state = .shoreOnly then
      (s.sessions.get b).map fun x => { x with interruptions := min (x.interruptions + 1) 65535 }
      else s.sessions.get b := by
  refine ⟨(forBerths interruptShoreOnly s).sessions, ?_, fun b => ?_⟩ <;> unfold forBerths <;>
    simp only [interruptShoreOnly_eq]
  cases b <;> rfl

/-- R174: the answers to the waiting transfers, in the order of the pass list. -/
theorem refuseWaiting_get (items : List PassItem) (r : PerTag (Option Response)) (k : Tag) :
    (refuseWaiting items r).get k = if k ∈ items.map PassItem.tag then some .refused else r.get k := by
  induction items generalizing r with
  | nil => rfl
  | cons i items ih =>
    have next : refuseWaiting (i :: items) r = refuseWaiting items (r.set i.tag (some .refused)) := rfl
    rw [next, ih, List.map_cons]
    by_cases later : k ∈ items.map PassItem.tag
    · rw [if_pos later, if_pos (List.mem_cons_of_mem _ later)]
    · rw [if_neg later]
      by_cases own : k = i.tag
      · rw [own, PerTag.get_set_self, if_pos (List.mem_cons_self ..)]
      · rw [PerTag.get_set_ne _ _ _ _ own, if_neg (by rw [List.mem_cons]; exact fun h => h.elim own later)]

theorem lineReset_mods (s : State) (m : ModuleId) : (lineReset s).mods.get m =
    { Module.reset with
      standing := if (s.mods.get m).standing = .lockedOut then .lockedOut
        else if (s.mods.get m).standing = .outOfService then .outOfService else .available } := by
  obtain ⟨xs, e, -⟩ := interrupted_eq s
  have at_ : (lineReset s).mods.get m = (s.mods.get m).lineReset := by
    unfold lineReset
    rw [e]
    exact PerModule.get_map ..
  rw [at_]
  unfold Module.lineReset
  cases (s.mods.get m).standing <;> rfl

theorem exec_lineReset {s : State} (h : s.resetLow = false) : exec .lineReset s = .next (lineReset s) := by
  show execLineReset s = _
  unfold execLineReset
  rw [h]
  rfl

theorem exec_lineResetRelease {s : State} (h : s.resetLow = true) :
    exec .lineResetRelease s = .next (releaseReset s) := by
  show execLineResetRelease s = _
  unfold execLineResetRelease
  rw [h]
  rfl

/-- Settles O9: from the equations of the reset, field by field. -/
theorem lineResetKeepsRetainedDomain : Obligations.LineResetKeepsRetainedDomain := by
  intro s high
  obtain ⟨xs, e, sessions⟩ := interrupted_eq s
  have mods := lineReset_mods s
  have opened : Berth.list.countP (fun b => (xs.get b).isSome) = s.openSessions := by
    unfold State.openSessions
    congr
    funext b
    rw [sessions b]
    split
    · exact Option.isSome_map
    · rfl
  refine ⟨lineReset s, exec_lineReset high, ?_⟩
  unfold lineReset at mods ⊢
  rw [e] at mods ⊢
  refine ⟨rfl, fun b => ⟨?_, ?_⟩, rfl, mods, rfl, rfl, rfl, rfl, rfl, rfl, rfl, fun b => ?_, rfl, rfl, rfl, sessions, ?_, rfl,
    rfl, rfl, rfl, rfl, rfl, rfl, fun i mem => ?_, fun k free => ?_, fun i carried => ?_, fun a ws live carried => ?_,
    fun idle => ?_, rfl, rfl, rfl, rfl, rfl⟩
  case refine_1 => unfold State.tripLine State.inHold; rw [Bool.true_or, Bool.or_true]
  case refine_2 => cases b <;> rfl
  case refine_3 => cases b <;> rfl
  case refine_4 =>
    show (match s.carried with
      | some t => some t
      | none => if Berth.list.countP (fun b => (xs.get b).isSome) = 0 then none else some s.clock.time) = _
    rw [opened] <;> rfl
  case refine_5 => exact (refuseWaiting_get _ _ _).trans (if_pos (List.mem_map_of_mem mem))
  case refine_6 =>
    refine (refuseWaiting_get _ _ _).trans (if_neg fun mem => ?_)
    obtain ⟨i, mem, same⟩ := List.mem_map.mp mem
    exact free i mem same
  all_goals
    unfold abandonWrite Bus.lineReset
    dsimp only
  case refine_7 => rw [carried]
  case refine_8 => rw [carried]
  case refine_9 => rw [idle]

/-! ## The release -/

/-- Only the holding queue differs. -/
def State.OnlyQueue (s t : State) : Prop := t = s.withQueue t.jour.queue

theorem State.OnlyQueue.trans {s t u : State} (h : s.OnlyQueue t) (k : t.OnlyQueue u) : s.OnlyQueue u := by
  unfold State.OnlyQueue at *
  rw [k, h]
  rfl

theorem admitBilling_onlyQueue (b : Berth) (r : Record) (s : State) : s.OnlyQueue (admitBilling b r s) := by
  unfold admitBilling
  split <;> rfl

theorem admitInterval_onlyQueue (b : Berth) (r : Record) (i : IntervalBody) (s : State) :
    s.OnlyQueue (admitInterval b r i s) := by
  unfold admitInterval
  split
  · rfl
  · exact admitBilling_onlyQueue b r s

theorem produceClose_onlyQueue (c : Nat) (r : StationTime) (b : Berth) (s : State) :
    s.OnlyQueue (produceClose c r b s) := by
  cases x : s.sessions.get b <;> unfold produceClose produceInterval <;> simp only [x]
  · rfl
  · exact (admitInterval_onlyQueue b _ _ s).trans (admitBilling_onlyQueue b _ _)

theorem produceCloses_onlyQueue (c : Nat) (r : StationTime) (s : State) :
    s.OnlyQueue (forBerths (fun b u => produceClose c r b u) s) :=
  ((produceClose_onlyQueue c r .b0 s).trans (produceClose_onlyQueue c r .b1 _)).trans (produceClose_onlyQueue c r .b2 _)

theorem admitBilling_jour {s t : State} (h : t.jour = s.jour) (b : Berth) (r : Record) :
    (admitBilling b r t).jour = (admitBilling b r s).jour := by
  unfold admitBilling State.withQueue
  rw [h]
  split
  · rfl
  · exact h

theorem admitInterval_jour {s t : State} (h : t.jour = s.jour) (b : Berth) (r : Record) (i : IntervalBody) :
    (admitInterval b r i t).jour = (admitInterval b r i s).jour := by
  unfold admitInterval State.withQueue
  rw [h]
  split
  · rfl
  · exact admitBilling_jour h b r

/-- What a close produces depends on the journal, the clock and the berth's session. -/
theorem produceClose_jour {s t : State} (jour : t.jour = s.jour) (clock : t.clock = s.clock) {b : Berth}
    (session : t.sessions.get b = s.sessions.get b) (c : Nat) (r : StationTime) :
    (produceClose c r b t).jour = (produceClose c r b s).jour := by
  cases x : s.sessions.get b <;> unfold produceClose produceInterval <;> rw [session] <;> simp only [x]
  · exact jour
  · rw [clock]
    exact admitBilling_jour (admitInterval_jour jour _ _ _) _ _

/-- What the closes of all berths produce depends on the journal, the clock and the sessions. -/
theorem produceCloses_jour {s t : State} (jour : t.jour = s.jour) (clock : t.clock = s.clock)
    (sessions : t.sessions = s.sessions) (c : Nat) (r : StationTime) :
    (forBerths (fun b u => produceClose c r b u) t).jour = (forBerths (fun b u => produceClose c r b u) s).jour := by
  have clocks (b : Berth) {u v : State} (h : u.clock = v.clock) :
      (produceClose c r b u).clock = (produceClose c r b v).clock := by
    rw [produceClose_onlyQueue c r b u, produceClose_onlyQueue c r b v]
    exact h
  have kept (b : Berth) {u v : State} (h : u.sessions = v.sessions) :
      (produceClose c r b u).sessions = (produceClose c r b v).sessions := by
    rw [produceClose_onlyQueue c r b u, produceClose_onlyQueue c r b v]
    exact h
  have own (b : Berth) {u v : State} (h : u.sessions = v.sessions) : u.sessions.get b = v.sessions.get b := by rw [h]
  have first := produceClose_jour (b := .b0) jour clock (own _ sessions) c r
  have second := produceClose_jour (b := .b1) first (clocks .b0 clock) (own _ (kept .b0 sessions)) c r
  exact produceClose_jour (b := .b2) second (clocks .b1 (clocks .b0 clock)) (own _ (kept .b1 (kept .b0 sessions))) c r

theorem closeSession_eq (b : Berth) (c : Nat) (r : StationTime) (s : State) :
    closeSession b c r s = (produceClose c r b s).setSession b none := by
  cases x : s.sessions.get b <;> unfold closeSession produceClose produceInterval <;> simp only [x]
  · unfold State.setSession
    rw [← x, PerBerth.set_get]
  · rw [(admitInterval_only b b _ _ s).clock]

/-- A close of `b`'s session, made where the journal and the clock are `v`'s: the session goes, and the journal is as `v`'s
after what the close produces. -/
theorem closeSession_jour {b : Berth} {s v : State} (jour : s.jour = v.jour) (clock : s.clock = v.clock)
    (session : s.sessions.get b = v.sessions.get b) (c : Nat) (r : StationTime) :
    closeSession b c r s = { s with
      sessions := s.sessions.set b none, jour := (produceClose c r b v).jour } := by
  rw [closeSession_eq, ← produceClose_jour jour clock session, produceClose_onlyQueue c r b s]
  rfl

/-- R142: every carried session closes, in the order B0, B1, B2. -/
theorem closeCarried_all (r : StationTime) (s : State) : forBerths (closeCarried r) s =
    { s with
      sessions := PerBerth.all none, jour := (forBerths (fun b u => produceClose 2 r b u) s).jour } := by
  have closed0 := produceClose_onlyQueue 2 r .b0 s
  have closed1 := produceClose_onlyQueue 2 r .b1 (produceClose 2 r .b0 s)
  unfold forBerths closeCarried
  rw [closeSession_jour (v := s) rfl rfl rfl, closeSession_jour (b := .b1) (v := produceClose 2 r .b0 s) ?_ ?_ ?_,
    closeSession_jour (b := .b2) (v := produceClose 2 r .b1 (produceClose 2 r .b0 s)) ?_ ?_ ?_]
  · rfl
  · rfl
  · rw [closed1, closed0]; rfl
  · rw [closed1, closed0]; rfl
  · rfl
  · rw [closed0]; rfl
  · rw [closed0]; rfl

/-- An EVENT of the station depends on the journal and the clock only. -/
theorem stationEvent_jour {s t : State} (jour : t.jour = s.jour) (clock : t.clock = s.clock) (c : EventCode) (q : Nat)
    (ws : List Word) : (emitEvent c q none ws t).jour = (emitEvent c q none ws s).jour := by
  unfold emitEvent admitEvent State.withQueue
  rw [jour, clock]
  split
  · rfl
  · rw [setSummary_jour, setSummary_jour]

theorem releaseReset_eq (s : State) : ∃ qs : PerBerth Seq,
    releaseReset s = closeAllCarried { s with seq := qs, resetLow := false, tripHold := .running 100000 } ∧
      ∀ b, qs.get b = { s.seq.get b with entry := s.now } := by
  refine ⟨(forBerths (fun b s => s.updSeq b fun q => { q with entry := s.now }) s).seq, rfl, fun b => ?_⟩
  cases b <;> rfl

theorem closeAllCarried_none {s : State} (h : s.carried = none) : closeAllCarried s = s := by
  unfold closeAllCarried
  rw [h]

/-- R142, R189: the carried sessions are closed, and the host is told of them. -/
theorem closeAllCarried_some {s : State} {r : StationTime} (h : s.carried = some r) : ∃ l n p,
    closeAllCarried s = { s with
      sessions := PerBerth.all none, carried := none, jour := { s.jour with queue := l, lost := n }
      page := { s.page with summary := p } } ∧
    (closeAllCarried s).summaryBit .resetRecovered = true ∧
    (closeAllCarried s).jour =
      (emitEvent .resetRecovered 0 none [put 0 32 s.openSessions, r.day, put 0 32 r.second]
        (forBerths (fun b u => produceClose 2 r b u) s)).jour := by
  let v := forBerths (fun b u => produceClose 2 r b u) s
  have only : s.OnlyQueue v := produceCloses_onlyQueue 2 r s
  let w := setSummary .resetRecovered { s with sessions := PerBerth.all none, carried := none, jour := v.jour }
  have told : closeAllCarried s = emitEvent .resetRecovered 0 none [put 0 32 s.openSessions, r.day, put 0 32 r.second] w := by
    unfold closeAllCarried
    rw [h]
    dsimp only
    rw [closeCarried_all]
  have clock : v.clock = s.clock := by rw [only]; rfl
  have jour : v.jour = { s.jour with queue := v.jour.queue } := congrArg State.jour only
  obtain ⟨l, n, p, e⟩ := emitEvent_rest .resetRecovered 0 none [put 0 32 s.openSessions, r.day, put 0 32 r.second] w
  refine ⟨l, n, p, ?_, ?_, ?_⟩
  · rw [told, e]
    show { s with
      sessions := PerBerth.all none, carried := none, jour := { v.jour with queue := l, lost := n }
      page := { s.page with summary := p } } = _
    rw [jour]
  · rw [told]
    exact summaryBit_emitEvent _ _ _ _ _ _ (summaryBit_setSummary _ _)
  · rw [told]
    exact stationEvent_jour (s := v) (t := w) rfl clock.symm _ _ _

/-- Settles O10: what the closes produce is the same before and after the entry instants are set. -/
theorem resetReleaseClosesCarriedSessions : Obligations.ResetReleaseClosesCarriedSessions := by
  refine ⟨fun _ => rfl, fun s low => ?_⟩
  obtain ⟨qs, e, entry⟩ := releaseReset_eq s
  refine ⟨releaseReset s, exec_lineResetRelease low, ?_⟩
  rw [e]
  rcases Option.eq_none_or_eq_some s.carried with carried | ⟨r, carried⟩
  · rw [closeAllCarried_none (s := { s with seq := qs, resetLow := false, tripHold := .running 100000 }) carried]
    exact ⟨rfl, rfl, carried, entry, fun _ => ⟨rfl, rfl, rfl⟩, fun r some => (nomatch carried.symm.trans some), rfl, rfl, rfl,
      rfl, rfl, rfl, rfl, rfl, rfl, rfl, rfl, rfl⟩
  · obtain ⟨l, n, p, closed, bit, jour⟩ :=
      closeAllCarried_some (s := { s with seq := qs, resetLow := false, tripHold := .running 100000 }) carried
    have jours := produceCloses_jour (s := s) (t := { s with seq := qs, resetLow := false, tripHold := .running 100000 })
      rfl rfl rfl 2 r
    have clocks : (forBerths (fun b u => produceClose 2 r b u)
        { s with seq := qs, resetLow := false, tripHold := .running 100000 }).clock =
        (forBerths (fun b u => produceClose 2 r b u) s).clock := by
      rw [produceCloses_onlyQueue, produceCloses_onlyQueue 2 r s]
      rfl
    have told := jour.trans (stationEvent_jour jours clocks .resetRecovered 0 _)
    rw [closed] at bit told ⊢
    refine ⟨rfl, rfl, rfl, entry, fun none => (nomatch carried.symm.trans none), fun x some => ?_, rfl, rfl, rfl, rfl, rfl, rfl,
      rfl, rfl, rfl, rfl, rfl, rfl⟩
    cases carried.symm.trans some
    exact ⟨PerBerth.get_all none, bit, told⟩

end Sys2Proof.Machine
end

section
/-! Proofs: the classification of addresses, and transfers that are held off or pass (O13). -/

namespace Sys2Proof.Machine

/-! ## Classification (R162) -/

theorem region_station_iff (s : State) (a : Nat) : s.region a = .station ↔ 16776192 ≤ a := by
  have inTable : ∀ (t : List WindowEntry) (k : Nat), regionIn k t a ≠ .station := by
    intro t
    induction t with
    | nil => intro k; nofun
    | cons e t ih =>
      intro k
      unfold regionIn
      split
      · nofun
      · exact ih (k + 1)
  unfold State.region
  split
  next page => exact iff_of_true rfl page
  next below => exact iff_of_false (inTable _ _) below

/-- R162: an address belongs to the first entry that covers it. -/
theorem regionIn_window_iff (t : List WindowEntry) (k a n : Nat) (e : WindowEntry) :
    regionIn k t a = .window n e ↔ ∃ before after, t = before ++ e :: after ∧ k + before.length = n ∧
      e.covers a = true ∧ ∀ c ∈ before, c.covers a ≠ true := by
  induction t generalizing k with
  | nil => exact iff_of_false nofun (by rintro ⟨_ | _, _, split, -⟩ <;> cases split)
  | cons c t ih =>
    unfold regionIn
    split
    next covers =>
      constructor
      · intro first
        cases first
        exact ⟨[], t, rfl, rfl, covers, nofun⟩
      · rintro ⟨before, after, split, number, -, none⟩
        cases before with
        | nil =>
          cases split
          rw [← number]
          rfl
        | cons x before =>
          cases split
          exact absurd covers (none c (List.mem_cons_self ..))
    next not =>
      rw [ih]
      constructor
      · rintro ⟨before, after, split, number, covers, none⟩
        refine ⟨c :: before, after, by rw [split]; rfl, ?_, covers, List.forall_mem_cons.mpr ⟨not, none⟩⟩
        rw [List.length_cons]
        omega
      · rintro ⟨before, after, split, number, covers, none⟩
        cases before with
        | nil =>
          cases split
          exact absurd covers not
        | cons x before =>
          cases split
          rw [List.length_cons] at number
          exact ⟨before, after, rfl, by omega, covers, fun y mem => none y (List.mem_cons_of_mem _ mem)⟩

theorem region_window_iff (s : State) (a n : Nat) (e : WindowEntry) : s.region a = .window n e ↔
    a < 16776192 ∧ ∃ before after, s.bus.table = before ++ e :: after ∧ before.length = n ∧ e.kind ≠ .none ∧
      e.base ≤ a ∧ a < e.base + e.size ∧ ∀ c ∈ before, ¬(c.kind ≠ .none ∧ c.base ≤ a ∧ a < c.base + c.size) := by
  unfold State.region
  split
  next page => exact iff_of_false nofun fun h => absurd h.1 (Nat.not_lt.mpr page)
  next below =>
    have under : a < 16776192 := Nat.lt_of_not_le below
    rw [regionIn_window_iff, and_iff_right under]
    simp only [ne_eq, covers_iff, Nat.zero_add, and_assoc]

theorem burstRegion_iff (s : State) {a len : Nat} {r : Region} (h : 1 ≤ len) : s.burstRegion a len = some r ↔
    a + 4 * len ≤ 16777216 ∧ ∀ i, i < len → s.region (a + 4 * i) = r := by
  have all : ((List.range len).all fun i => s.region (a + 4 * i) == s.region a) = true ↔
      ∀ i, i < len → s.region (a + 4 * i) = s.region a := by
    simp only [List.all_eq_true, List.mem_range, beq_iff_eq]
  unfold State.burstRegion
  dsimp only
  constructor
  · intro shared
    split at shared
    next within =>
      cases shared
      exact ⟨within.1, all.mp within.2⟩
    · cases shared
  · rintro ⟨top, same⟩
    have first : s.region a = r := same 0 h
    rw [if_pos ⟨top, all.mpr (by rw [first]; exact same)⟩, first]

/-! ## Acceptance (R161) -/

theorem exec_transferAccept {x : Transfer} (h : x.wellFormed = true) (s : State) :
    exec (.transferAccept x) s = .next (offerTransfer x s) := by
  show acceptTransfer x s = _
  unfold acceptTransfer
  rw [if_pos h]

theorem wellFormed_iff (x : Transfer) : x.wellFormed = true ↔ x.addr.toNat % 4 = 0 ∧ 1 ≤ x.len ∧ x.len ≤ 8 := by
  unfold Transfer.wellFormed
  rw [Bool.and_eq_true, Bool.and_eq_true, beq_iff_eq, decide_eq_true_iff, decide_eq_true_iff, and_assoc]

theorem offerTransfer_held {x : Transfer} {s : State} (h : s.resetLow = true ∨ s.outstanding x.tag = true) :
    offerTransfer x s = s := by
  unfold offerTransfer
  rw [if_pos (Bool.or_eq_true_iff.mpr h)]

theorem outstanding_cases (s : State) (k : Tag) : s.outstanding k = true ↔
    (∃ i ∈ s.bus.passList, i.tag = k) ∨ ∃ i, s.bus.face = some (.pass i) ∧ i.tag = k := by
  unfold State.outstanding
  rw [Bool.or_eq_true, List.any_eq_true]
  simp only [beq_iff_eq]
  refine or_congr .rfl ?_
  split
  next i face =>
    rw [face, beq_iff_eq]
    exact ⟨fun same => ⟨i, rfl, same⟩, fun ⟨_, same, tag⟩ => by cases same; exact tag⟩
  next no => exact iff_of_false Bool.false_ne_true fun ⟨i, face, _⟩ => no i face

/-! ## The transfer of a row's command (log 5) -/

theorem transfer_eq {x : Transfer} {t : Tag} {n : Nat} {ws : List Word} (tag : x.tag = t) (addr : x.addr.toNat = n)
    (access : x.access = .write ws) : x = { tag := t, addr := BitVec.ofNat 24 n, access := .write ws } := by
  obtain ⟨_, a, _⟩ := x
  cases tag
  cases access
  cases addr
  rw [BitVec.ofNat_toNat, BitVec.setWidth_eq]

theorem exec_request {c : Instr} {b : Berth} {k : BitVec 8} {t : BitVec 16} {rest : List Word}
    (h : request? c = some (b, k, t, rest)) (s : State) :
    exec c s = berthWrite b 0 (requestWord k.toNat t :: rest) s := by
  cases c <;> cases h <;> rfl

theorem burstRegion_first {s : State} {a len : Nat} {r : Region} (h : s.burstRegion a len = some r) :
    s.region a = r := by
  unfold State.burstRegion at h
  dsimp only at h
  split at h
  · exact Option.some.inj h
  · cases h

/-- A window command is the transfer at its place in the window. -/
theorem intoWindow_transfer {x : Transfer} {s : State} {e : WindowEntry} {w : Option WindowEntry} {f : Nat → Transfer}
    (found : w = some e) (same : x = f e.base) : intoWindow w f s = exec (.transferAccept x) s := by
  rw [found, same]
  rfl

/-- A berth page command is the transfer at its word of the page. -/
theorem berthWrite_transfer {x : Transfer} {s : State} {e : WindowEntry} {b : Berth} {n : Nat} {ws : List Word}
    (ok : s.TableOk) (mem : e ∈ s.bus.table) (kind : e.kind = .berthPage) (berth : e.berth = b.num)
    (tag : x.tag = .supervisor) (addr : x.addr.toNat = e.base + 4 * n) (access : x.access = .write ws) :
    berthWrite b n ws s = exec (.transferAccept x) s := by
  have found : s.berthWindow .berthPage b = some e := by
    rw [← kind]
    exact berthWindow_of_mem ok mem (by rw [kind]; nofun) berth
  exact intoWindow_transfer found (transfer_eq tag addr access)

/-! ## Transfers that pass (R166) -/

theorem acceptRead_plain_served {t : Tag} {s : State} (addr len : Nat) (h : t = .link → s.bus.firstCommit = true) :
    acceptRead t addr len .plain s = passOn (memoryRead t addr len) s :=
  if_neg fun ⟨link, no⟩ => Bool.false_ne_true (no.symm.trans (h link))

theorem acceptRead_station_served {t : Tag} {s : State} (addr len : Nat) (h : t = .link → s.bus.firstCommit = true) :
    acceptRead t addr len .station s = readStation t addr ((addr - Config.stationPageBase) / 4) len s :=
  if_neg fun ⟨link, no⟩ => Bool.false_ne_true (no.symm.trans (h link))

theorem acceptRead_window_served {t : Tag} {s : State} (addr len n : Nat) (e : WindowEntry)
    (h : t = .link → s.bus.firstCommit = true) : acceptRead t addr len (.window n e) s = readWindow t addr len e s :=
  if_neg fun ⟨link, no⟩ => Bool.false_ne_true (no.symm.trans (h link))

theorem readWindow_memory {e : WindowEntry} (t : Tag) (addr len : Nat) (s : State)
    (h : e.kind = .measure ∨ e.kind = .moduleStat ∨ e.kind = .journal) :
    readWindow t addr len e s = passOn (memoryRead t addr len) s := by
  unfold readWindow
  dsimp only
  rcases h with h | h | h <;> rw [h]

/-- Settles O13: classification by the first entry that covers an address, and the rows' commands as the transfers that
they are. -/
theorem transferHeldOffOrPasses : Obligations.TransferHeldOffOrPasses := by
  refine ⟨fun s a => ⟨region_station_iff s a, region_window_iff s a, fun len r => burstRegion_iff s⟩, fun x s wf held => ?_,
    wellFormed_iff, outstanding_cases, fun x s ws wf ok access => ⟨fun tag station => ?_, fun n e window at' offset => ?_⟩,
    fun x s ill => ?_, fun x s wf takes known => ⟨fun plain => ⟨fun ws access => ?_, fun len access served => ?_⟩,
      fun n e len window access kind served => ?_⟩⟩
  case refine_1 => rw [exec_transferAccept wf, offerTransfer_held held]
  case refine_2 =>
    have above := (region_station_iff s _).mp (burstRegion_first station)
    have aligned := ((wellFormed_iff x).mp wf).1
    have same : x = stationWrite ((x.addr.toNat - 16776192) / 4) ws :=
      transfer_eq tag (show _ = 16776192 + 4 * _ by omega) access
    exact congrArg (acceptTransfer · s) same
  case refine_3 =>
    obtain ⟨mem, kept, base, size⟩ := burstRegion_mem window
    have aligned := ((wellFormed_iff x).mp wf).1
    have placed : e.base % 256 = 0 := ((ok.2.1 e mem).resolve_left kept).1
    refine ⟨fun b w0 w1 w2 w3 tag kind berth place words => ?_, fun m tag kind record words => ?_,
      fun b tag kind berth within => ⟨?_, fun c k t rest request first words => ?_⟩⟩
    · have found := berthWindow_of_mem ok mem kept berth
      rw [kind] at found
      cases words
      have same := transfer_eq tag (show _ = e.base + 16 * (at' / 16) by omega) access
      exact (intoWindow_transfer (f := fun base =>
        { tag := .meter, addr := BitVec.ofNat 24 (base + 16 * (at' / 16)), access := .write [w0, w1, w2, w3] }) found same).symm
    · have found := findWindow_of_mem ok mem kept (by rw [kind]; exact ⟨nofun, nofun⟩)
      rw [kind] at found
      have same := transfer_eq tag (show _ = e.base + 32 * m.num by omega) access
      exact (intoWindow_transfer (f := fun base =>
        { tag := .link, addr := BitVec.ofNat 24 (base + 32 * m.num), access := .write ws }) found same).symm
    · exact (berthWrite_transfer ok mem kind berth tag (by omega) access).symm
    · rw [exec_request request]
      cases words
      exact (berthWrite_transfer ok mem kind berth tag (by omega) access).symm
  case refine_4 =>
    show acceptTransfer x s = _
    unfold acceptTransfer
    rw [ill]
    rfl
  case refine_5 =>
    rw [exec_transferAccept_takes wf takes, acceptNow_write known access plain]
    rfl
  case refine_6 =>
    rw [exec_transferAccept_takes wf takes, acceptNow_read known access plain, acceptRead_plain_served _ _ served]
    rfl
  case refine_7 =>
    rw [exec_transferAccept_takes wf takes, acceptNow_read known access window, acceptRead_window_served _ _ _ _ served]
    exact congrArg _ (readWindow_memory _ _ _ _ kind)

end Sys2Proof.Machine
end

section
/-! Proofs: the arbiter, the records of refused transfers, the memory face, and what no command changes (O14, O17 to O20). -/

namespace Sys2Proof.Machine

/-! ## The arbiter (R172, R173) -/

theorem waitingClaim_iff (s : State) (w : Writing) :
    waitingClaim s = some w ↔ s.jour.writing = some w ∧ w.granted = false := by
  refine ⟨waitingClaim_some, fun ⟨writes, waits⟩ => ?_⟩
  unfold waitingClaim
  rw [writes]
  simp only [waits, Bool.false_eq_true, if_false]

/-- Settles O14: the cases of the grant. -/
theorem arbiterGrantsFace : Obligations.ArbiterGrantsFace := by
  refine ⟨waitingClaim_iff, fun i s busy => ?_, fun i s idle empty free => ?_, fun i l s idle list turn => ?_,
    fun w s idle waits turn => ?_, grant_idle⟩
  · exact grant_busy _ busy
  · have list : s.bus.passList ++ [i] = [i] := by rw [empty]; rfl
    have granted := grant_pass
      { s with bus := { s.bus with passList := s.bus.passList ++ [i], resp := s.bus.resp.set i.tag none } } i [] idle list
      (.inl free)
    have left : { s.bus with
        passList := [], face := some (.pass i), passCount := min (s.bus.passCount + 1) 4, resp := s.bus.resp.set i.tag none } =
        { s.bus with
          face := some (.pass i), passCount := min (s.bus.passCount + 1) 4, resp := s.bus.resp.set i.tag none } := by
      rw [← empty]
    exact granted.trans (congrArg (fun u => { s with bus := u }) left)
  · exact grant_pass s i l idle list turn
  · exact grant_journal s w idle waits turn

/-! ## The refused-transfer records (R171) -/

theorem recordAddr (k : Tag) :
    (BitVec.ofNat 24 (Config.stationPageBase + 4 * (231 + k.num))).toNat = Config.stationPageBase + 4 * (231 + k.num) := by
  cases k <;> rfl

theorem stationWord_record (s : State) (k : Tag) : s.stationWord (231 + k.num) = some (s.bus.refused.get k).word := by
  cases k <;> rfl

theorem clearRecords_one (s : State) (k : Tag) : clearRecords (231 + k.num) 1 s =
    { s with bus := { s.bus with refused := s.bus.refused.set k ⟨0, .none⟩ } } := by
  cases k <;> rfl

theorem recordRead_wellFormed {x : Transfer} {k : Tag} (addr : x.addr.toNat = Config.stationPageBase + 4 * (231 + k.num))
    (access : x.access = .read 1) : x.wellFormed = true := by
  have one : x.len = 1 := by unfold Transfer.len; rw [access]
  have base : Config.stationPageBase = 16776192 := rfl
  exact (wellFormed_iff x).mpr ⟨by omega, by omega, by omega⟩

theorem readStation_record (a : Nat) (k : Tag) (s : State) : readStation .supervisor a (231 + k.num) 1 s =
    respond .supervisor (.done [(s.bus.refused.get k).word])
      { s with bus := { s.bus with refused := s.bus.refused.set k ⟨0, .none⟩ } } := by
  have fill : fillFrom s.stationWord (231 + k.num) 1 = [some (s.bus.refused.get k).word] :=
    congrArg ([·]) (stationWord_record s k)
  unfold readStation
  rw [fill, if_pos rfl, clearRecords_one]
  rfl

/-- Settles O17: the read lies in the station page, is answered at once, and covers one record. -/
theorem refusedRecordReadClears : Obligations.RefusedRecordReadClears := by
  refine ⟨fun _ => rfl, fun k s takes => ?_⟩
  obtain ⟨x, made⟩ : ∃ x : Transfer, x =
    { tag := .supervisor, addr := BitVec.ofNat 24 (Config.stationPageBase + 4 * (231 + k.num)), access := .read 1 } :=
    ⟨_, rfl⟩
  have tag : x.tag = .supervisor := by rw [made]
  have access : x.access = .read 1 := by rw [made]
  have one : x.len = 1 := by rw [made]; rfl
  have addr : x.addr.toNat = Config.stationPageBase + 4 * (231 + k.num) := by rw [made]; exact recordAddr k
  have region : s.burstRegion x.addr.toNat x.len = some .station := by
    rw [addr, one]
    exact stationRegion s _ 1 (by cases k <;> decide)
  have word : (x.addr.toNat - Config.stationPageBase) / 4 = 231 + k.num := by omega
  calc exec (.refusedRecordRead k) s
      = exec (.transferAccept x) s := by rw [made]; rfl
    _ = .next (acceptRead x.tag x.addr.toNat 1 .station s) := by
      rw [exec_transferAccept_takes (recordRead_wellFormed addr access) (by rw [tag]; exact takes),
        acceptNow_read (by rw [tag]; nofun) access region]
    _ = .next (readStation .supervisor x.addr.toNat (231 + k.num) 1 s) := by
      rw [acceptRead_station_served _ _ (by rw [tag]; nofun), word, tag]
    _ = _ := by
      rw [readStation_record]
      rfl

/-! ## The memory face (R172) -/

theorem readBack_length (m : List (Nat × Word)) (fill : List (Option Word)) (k : Nat) :
    (readBack m k fill).length = fill.length := by
  induction fill generalizing k with
  | nil => rfl
  | cons f rest ih => exact congrArg (· + 1) (ih (k + 1))

theorem readBack_get (m : List (Nat × Word)) (fill : List (Option Word)) (k i : Nat) (h : i < fill.length) :
    (readBack m k fill).getD i 0 = (fill.getD i none).getD (memRead m (k + i)) := by
  induction fill generalizing k i with
  | nil => exact absurd h (Nat.not_lt_zero i)
  | cons f rest ih =>
    cases i with
    | zero => rfl
    | succ i =>
      have next := ih (k + 1) i (Nat.lt_of_succ_lt_succ h)
      rw [show k + 1 + i = k + (i + 1) by omega] at next
      exact next

theorem faceDone_pass {s : State} {item : PassItem} (h : s.bus.face = some (.pass item)) :
    exec .memoryFaceDone s = .next (grant (carried item (freeFace s))) := by
  show Host.Outcome.next (faceDone s) = _
  unfold faceDone
  rw [h]

/-- Settles O18. -/
theorem memoryFaceCarriesTransfer : Obligations.MemoryFaceCarriesTransfer := by
  intro s item face
  rw [faceDone_pass face]
  refine ⟨fun ws load => ⟨memWriteBurst s.bus.mem (item.addr / 4) ws, ?_, fun ok => ?_⟩, fun before fill after load =>
    ⟨readBack s.bus.mem (item.addr / 4) fill, ?_, readBack_length .., readBack_get _ _ _⟩⟩
  · unfold carried
    rw [load]
    rfl
  · exact ⟨memWriteBurst_wf ws _ _ ok, fun i within => memRead_burst_inside ws _ _ i ok within,
      fun k outside => memRead_burst_outside ws _ _ k ok outside⟩
  · unfold carried
    rw [load]
    rfl

/-! ## What no command changes -/

theorem endTripHold_core (s : State) : s.SameCore (endTripHold s) := by
  have dead : s.SameCore (forBerths startDeadTime { s with tripHold := .stopped }) := ⟨rfl, rfl, rfl, rfl, rfl, rfl⟩
  exact dead.trans (forBerths_same tripIfClosed_same _).core

theorem startWrite_core (s : State) : s.SameCore (startWrite s) := by
  unfold startWrite
  split
  · exact .refl s
  · exact (withJour_core s _).trans (grant_busOnly _).core

theorem timedEffect_core (c : Instr) (s : State) : s.SameCore (timedEffect c s) := by
  unfold timedEffect
  split
  case h_1 => exact endTripHold_core s
  case h_2 m => exact (statusStale_same m s).core
  case h_3 m => exact (retryWaitEnd_same m s).core
  case h_6 b => exact (claimTimeout_same b s).core
  case h_7 b k => exact (slotStale_only b k s).core
  case h_9 b => exact ((updOsc_only b _ s).trans (evaluate_only b _)).core
  case h_11 b => exact ((updSeq_only b _ s).toSameStation.core).trans (checkEnergising_same b _).core
  case h_12 b => exact ((updSeq_only b _ s).trans (enterTripped_only b _ _)).core
  case h_13 b => exact ((updSeq_only b _ s).toSameStation.core).trans (deEnergised_same b _).core
  case h_14 b => exact (recomputeShares_only b s).core
  case h_15 b => exact ((updSeq_only b _ s).trans ((blankBerth_only b _).trans (recomputeShares_only b _))).core
  case h_16 b => exact ((enterState_only b _ s).trans (completeCurrent_only b _ _ _)).core
  case h_17 b => exact (controlledOpen_only b _ s).core
  case h_18 b => exact (overloadExpired_only b s).core
  case h_19 b => exact (controlledOpen_only b _ s).core
  case h_20 b => exact (closeDue_only b s).core
  case h_22 b => exact (tripPulseEnd_only b s).core
  case h_23 b => exact (closeFailed_only b s).core
  case h_24 b => exact (openFailed_only b s).core
  case h_26 => exact tick_core s
  case h_28 => exact heartbeatLost_core s
  case h_30 => exact startWrite_core s
  all_goals exact ⟨rfl, rfl, rfl, rfl, rfl, rfl⟩

theorem next_inj {s t : State} (h : (.next s : Result) = .next t) : t = s := (Host.Outcome.next.inj h).symm

theorem exec_rise_core {b : Berth} {s t : State} (h : execBreakerViewRise b s = .next t) : s.SameCore t := by
  have viewed : s.SameCore (setView b true s) := ⟨rfl, rfl, rfl, rfl, rfl, rfl⟩
  rw [next_inj h]
  split
  · exact .refl s
  · split
    · exact viewed
    · exact viewed.trans (breakerRise_same b _).core

theorem exec_fall_core {b : Berth} {s t : State} (h : execBreakerViewFall b s = .next t) : s.SameCore t := by
  have viewed : s.SameCore (setView b false s) := ⟨rfl, rfl, rfl, rfl, rfl, rfl⟩
  rw [next_inj h]
  split
  · exact .refl s
  · split
    · exact viewed
    · exact viewed.trans (breakerFall_only b _).core

theorem berthWrite_core {b : Berth} {n : Nat} {ws : List Word} {s t : State} (h : berthWrite b n ws s = .next t) :
    s.SameCore t := intoWindow_core h

/-- Every command but the resets and the ends of the memory face's work leaves the count, TIMEBASE, the reset line, the
waiting commands and plant memory alone. -/
theorem exec_core {c : Instr} {s t : State} (h : exec c s = .next t) :
    (∃ c0 c1 c2, c = .powerOnReset c0 c1 c2) ∨ c = .lineReset ∨ c = .lineResetRelease ∨ c = .memoryFaceDone ∨
      c = .journalClaimDone ∨ s.SameCore t := by
  cases timed : c.isTimed with
  | true =>
    rw [exec_timed timed] at h
    exact .inr (.inr (.inr (.inr (.inr (whenDue_core (timedEffect_core c s) h)))))
  | false =>
    cases c with
    | powerOnReset c0 c1 c2 => exact .inl ⟨c0, c1, c2, rfl⟩
    | lineReset => exact .inr (.inl rfl)
    | lineResetRelease => exact .inr (.inr (.inl rfl))
    | memoryFaceDone => exact .inr (.inr (.inr (.inl rfl)))
    | journalClaimDone => exact .inr (.inr (.inr (.inr (.inl rfl))))
    | breakerViewRise b => exact .inr (.inr (.inr (.inr (.inr (exec_rise_core h)))))
    | breakerViewFall b => exact .inr (.inr (.inr (.inr (.inr (exec_fall_core h)))))
    | measurementRecord b k w0 w1 w2 w3 =>
      exact .inr (.inr (.inr (.inr (.inr (intoWindow_core (show execMeasurementRecord b k w0 w1 w2 w3 s = _ from h))))))
    | moduleStatusRecord m ws =>
      exact .inr (.inr (.inr (.inr (.inr (intoWindow_core (show execModuleStatusRecord m ws s = _ from h))))))
    | journalCmdStart => exact .inr (.inr (.inr (.inr (.inr (acceptTransfer_core (x := asTransfer .journalCmdStart) h)))))
    | journalCmdStop => exact .inr (.inr (.inr (.inr (.inr (acceptTransfer_core (x := asTransfer .journalCmdStop) h)))))
    | journalCmdReset => exact .inr (.inr (.inr (.inr (.inr (acceptTransfer_core (x := asTransfer .journalCmdReset) h)))))
    | _ =>
      first
        | (cases timed; done)
        | exact .inr (.inr (.inr (.inr (.inr (acceptTransfer_core h)))))
        | exact .inr (.inr (.inr (.inr (.inr (berthWrite_core h)))))

theorem lineReset_mem (s : State) : (lineReset s).bus.mem = s.bus.mem := congrArg Work.mem (lineReset_work s)

theorem releaseReset_mem (s : State) : (releaseReset s).bus.mem = s.bus.mem := congrArg Work.mem (releaseReset_work s)

theorem powerOnReset_mem (c0 c1 c2 : Bool) (s : State) : (powerOnReset c0 c1 c2 s).bus.mem = s.bus.mem :=
  (congrArg Bus.mem (powerOnReset_same c0 c1 c2 s).bus :)

theorem exec_lineReset_cases {s t : State} (h : exec .lineReset s = .next t) : t = s ∨ t = lineReset s := by
  rw [next_inj h]
  split
  · exact .inl rfl
  · exact .inr rfl

theorem exec_release_cases {s t : State} (h : exec .lineResetRelease s = .next t) : t = s ∨ t = releaseReset s := by
  rw [next_inj h]
  split
  · exact .inr rfl
  · exact .inl rfl

/-- Settles O19. -/
theorem onlyTheFaceWritesMemory : Obligations.OnlyTheFaceWritesMemory := by
  intro c s t notFace notClaim h
  rcases exec_core h with ⟨c0, c1, c2, powerOn⟩ | reset | release | face | claim | core
  · rw [powerOn] at h
    rw [next_inj h, powerOnReset_mem]
  · rw [reset] at h
    rcases exec_lineReset_cases h with e | e <;> rw [e]
    exact lineReset_mem s
  · rw [release] at h
    rcases exec_release_cases h with e | e <;> rw [e]
    exact releaseReset_mem s
  · exact absurd face notFace
  · exact absurd claim notClaim
  · exact core.mem

/-! ## Time, the reset line and the waiting commands -/

/-- The count, TIMEBASE, the reset line and the waiting commands. -/
def State.time (s : State) : Word × Nat × Option Word × Bool × List Instr :=
  (s.now, s.tbPhase, s.tbValue, s.resetLow, s.pending)

theorem State.SameCore.time {s t : State} (h : s.SameCore t) : t.time = s.time := by
  unfold State.time
  rw [h.now, h.tbPhase, h.tbValue, h.resetLow, h.pending]

theorem faceDone_time (s : State) : (faceDone s).time = s.time := by
  unfold faceDone
  split
  next item _ =>
    have answered : (carried item (freeFace s)).time = s.time := by
      unfold carried
      split <;> rfl
    exact (grant_busOnly _).core.time.trans answered
  next => rfl

theorem claimCarried_time (s : State) : (claimCarried s).time = s.time := by
  have judged (r : Record) (u : State) : (judgeReady r u).time = u.time := by
    unfold judgeReady
    dsimp only
    split <;> split <;> rfl
  unfold claimCarried
  split
  · rfl
  · split
    · rfl
    · unfold completeWrite
      split
      · rfl
      · exact judged _ _

theorem claimDone_time (s : State) : (claimDone s).time = s.time := by
  unfold claimDone
  split
  · refine (grant_busOnly _).core.time.trans ?_
    split
    · exact claimCarried_time _
    · rfl
  · rfl

theorem lineReset_time (s : State) :
    (lineReset s).now = s.now ∧ (lineReset s).tbPhase = s.tbPhase ∧ (lineReset s).tbValue = s.tbValue ∧
      (lineReset s).pending = s.pending := by
  obtain ⟨xs, e, -⟩ := interrupted_eq s
  unfold lineReset
  rw [e]
  exact ⟨rfl, rfl, rfl, rfl⟩

theorem releaseReset_time (s : State) :
    (releaseReset s).now = s.now ∧ (releaseReset s).tbPhase = s.tbPhase ∧ (releaseReset s).tbValue = s.tbValue ∧
      (releaseReset s).pending = s.pending := by
  obtain ⟨qs, e, -⟩ := releaseReset_eq s
  have closed (u : State) : (closeAllCarried u).time = u.time := by
    rcases Option.eq_none_or_eq_some u.carried with carried | ⟨r, carried⟩
    · rw [closeAllCarried_none carried]
    · obtain ⟨l, n, p, e, -⟩ := closeAllCarried_some carried
      rw [e]
      rfl
  have time := closed { s with seq := qs, resetLow := false, tripHold := .running 100000 }
  rw [← e] at time
  simp only [State.time, Prod.mk.injEq] at time
  obtain ⟨now, phase, value, -, pending⟩ := time
  exact ⟨now, phase, value, pending⟩

theorem leavesTime_of_time {c : Instr} {s t : State} (h : t.time = s.time) : t.pending = s.pending ∧
    ((∀ c0 c1 c2, c ≠ .powerOnReset c0 c1 c2) → t.now = s.now ∧ t.tbPhase = s.tbPhase ∧ t.tbValue = s.tbValue ∧
      (c ≠ .lineReset → c ≠ .lineResetRelease → t.resetLow = s.resetLow)) := by
  simp only [State.time, Prod.mk.injEq] at h
  obtain ⟨now, phase, value, low, pending⟩ := h
  exact ⟨pending, fun _ => ⟨now, phase, value, fun _ _ => low⟩⟩

/-- Settles O20. -/
theorem commandsLeaveTimeAndQueue : Obligations.CommandsLeaveTimeAndQueue := by
  intro c s t h
  rcases exec_core h with ⟨c0, c1, c2, powerOn⟩ | reset | release | face | claim | core
  · rw [powerOn] at h
    rw [next_inj h]
    exact ⟨(powerOnReset_same c0 c1 c2 s).pending, fun other => absurd powerOn (other c0 c1 c2)⟩
  · rw [reset] at h
    rcases exec_lineReset_cases h with e | e <;> rw [e]
    · exact leavesTime_of_time rfl
    · obtain ⟨now, phase, value, pending⟩ := lineReset_time s
      exact ⟨pending, fun _ => ⟨now, phase, value, fun other => absurd reset other⟩⟩
  · rw [release] at h
    rcases exec_release_cases h with e | e <;> rw [e]
    · exact leavesTime_of_time rfl
    · obtain ⟨now, phase, value, pending⟩ := releaseReset_time s
      exact ⟨pending, fun _ => ⟨now, phase, value, fun _ other => absurd release other⟩⟩
  · rw [face] at h
    rw [next_inj h]
    exact leavesTime_of_time (faceDone_time s)
  · rw [claim] at h
    rw [next_inj h]
    exact leavesTime_of_time (claimDone_time s)
  · exact leavesTime_of_time core.time

end Sys2Proof.Machine
end

section
/-! Proofs: the words that stand for a read (R122, R167, R176), their layout and codes (O16). -/

namespace Sys2Proof.Machine

/-! ## Fields of a word (R191) -/

theorem put_eq (lo len v : Nat) : put lo len v = BitVec.ofNat 32 (v % 2 ^ len * 2 ^ lo) := by
  unfold put
  rw [Nat.shiftLeft_eq]

theorem putInt_eq (lo len : Nat) (x : Int) : putInt lo len x = BitVec.ofNat 32 ((x % 2 ^ len).toNat * 2 ^ lo) := by
  have pos : (0 : Int) < 2 ^ len := by positivity
  have low := Int.emod_lt_of_pos x pos
  have small : (x % 2 ^ len).toNat < 2 ^ len := by
    have cast : ((2 ^ len : Nat) : Int) = 2 ^ len := by push_cast; rfl
    have := Int.emod_nonneg x pos.ne'
    omega
  unfold putInt
  rw [put_eq, Nat.mod_eq_of_lt small]

theorem putBit_eq (lo : Nat) (f : Bool) : putBit lo f = if f = true then BitVec.ofNat 32 (2 ^ lo) else 0 := by
  unfold putBit
  rw [Nat.one_shiftLeft]

theorem or_fold_bit (ws : List Word) (a : Word) (i : Nat) :
    (ws.foldl (· ||| ·) a).getLsbD i = (a.getLsbD i || ws.any fun y => y.getLsbD i) := by
  induction ws generalizing a with
  | nil => exact (Bool.or_false _).symm
  | cons w ws ih => rw [List.foldl_cons, ih, BitVec.getLsbD_or, List.any_cons, Bool.or_assoc]

theorem fields_bit (ws : List Word) (i : Nat) : (fields ws).getLsbD i = ws.any fun y => y.getLsbD i := by
  unfold fields
  rw [or_fold_bit]
  simp

theorem field_eq (w : Word) (lo len : Nat) : field w lo len = w.toNat / 2 ^ lo % 2 ^ len := by
  unfold field
  rw [BitVec.extractLsb'_toNat, Nat.shiftRight_eq_div_pow]

/-! ## Codes (11.2, 11.3) -/

theorem ofCode_iff (n : Nat) (k : RequestKind) : RequestKind.ofCode? n = some k ↔ n = k.code := by
  constructor
  · intro h
    unfold RequestKind.ofCode? at h
    split at h <;> cases h <;> rfl
  · rintro rfl
    cases k <;> rfl

theorem sourceUnavailable_iff (fresh : Bool) (o : Osc) : o.sourceUnavailable fresh = true ↔
    o.running = true ∧ (o.requested = .trackSlip ∨ o.requested = .trackLock) ∧ fresh = false := by
  have tracking (m : OscMode) : m.isTracking = true ↔ m = .trackSlip ∨ m = .trackLock := by cases m <;> decide
  unfold Osc.sourceUnavailable
  rw [Bool.and_eq_true, Bool.and_eq_true, tracking, Bool.not_eq_true', and_assoc]

theorem serves_iff_standing (x : Module) (b : Berth) : x.serves b = true ↔ ∃ r, x.standing = .assigned b r := by
  unfold Module.serves
  rw [beq_iff_eq]
  cases x.standing with
  | assigned c r => exact ⟨fun same => ⟨r, by cases same; rfl⟩, fun ⟨_, same⟩ => by cases same; rfl⟩
  | _ => exact iff_of_false nofun nofun

/-! ## Answers to reads (R166, R167) -/

theorem fill_getD (f : Nat → Option Word) (n len : Nat) :
    (fillFrom f n len).map (·.getD 0) = (List.range len).map fun i => (f (n + i)).getD 0 := by
  unfold fillFrom
  rw [List.map_map]
  rfl

theorem answerRead_all (t : Tag) (a n len : Nat) {f : Nat → Option Word} (s : State)
    (h : ∀ i, i < len → (f (n + i)).isSome = true) : answerRead t a (fillFrom f n len) s =
      respond t (.done ((List.range len).map fun i => (f (n + i)).getD 0)) s := by
  rcases answerRead_cases t a (fillFrom f n len) s with ⟨-, answered⟩ | ⟨missing, -⟩
  · rw [answered, fill_getD]
  · obtain ⟨i, mem, same⟩ := List.mem_map.mp missing
    have some := h i (List.mem_range.mp mem)
    rw [same] at some
    cases some

theorem answerRead_some (t : Tag) (a n len : Nat) {f : Nat → Option Word} (s : State)
    (h : ∃ i, i < len ∧ f (n + i) = none) : ∃ before span after,
      (List.range len).map (fun i => f (n + i)) = before.map some ++ span ++ after.map some ∧
        span.head? = some none ∧ span.getLast? = some none ∧ answerRead t a (fillFrom f n len) s =
          passOn { tag := t, addr := a + 4 * before.length, load := .read before span after } s := by
  obtain ⟨i, within, missing⟩ := h
  have mem : none ∈ fillFrom f n len := List.mem_map.mpr ⟨i, List.mem_range.mpr within, missing⟩
  obtain ⟨before, span, after, split, head, last, item⟩ := spanRead_splits t a _ mem
  refine ⟨before, span, after, split, head, last, ?_⟩
  rcases answerRead_cases t a (fillFrom f n len) s with ⟨all, -⟩ | ⟨-, passed⟩
  · exact absurd (all none mem) Bool.false_ne_true
  · rw [passed, item]

theorem readWindow_moduleCmd {e : WindowEntry} (t : Tag) (a len : Nat) (s : State) (h : e.kind = .moduleCmd) :
    readWindow t a len e s =
      respond t (.done ((List.range len).map fun i => s.cmdWord ((a - e.base) / 4 + i))) s := by
  unfold readWindow
  dsimp only
  rw [h]
  exact answerRead_all t a _ len (f := fun k => some (s.cmdWord k)) s fun _ _ => rfl

theorem readWindow_berthPage {e : WindowEntry} {b : Berth} (t : Tag) (a len : Nat) (s : State) (h : e.kind = .berthPage)
    (berth : e.berth = b.num) :
    readWindow t a len e s = answerRead t a (fillFrom (s.pageWord b) ((a - e.base) / 4) len) s := by
  unfold readWindow
  dsimp only
  rw [h, berth, berth_ofNat_num]

theorem pageWord_memory {n : Nat} (s : State) (b : Berth) (h : n < 8) : s.pageWord b n = none := if_pos h

theorem pageWord_status {n : Nat} (s : State) (b : Berth) (h : 8 ≤ n) : s.pageWord b n = some (s.berthWord b n) :=
  if_neg (Nat.not_lt.mpr h)

/-- R167: a read of a berth page from word `k` on, below 8: words of memory up to 7, then the sequencer's. -/
theorem pageFill (s : State) (b : Berth) {k : Nat} (len : Nat) (h : k < 8) : fillFrom (s.pageWord b) k len =
    List.replicate (min len (8 - k)) none ++
      ((List.range (len - (8 - k))).map fun i => s.berthWord b (8 + i)).map some := by
  apply List.ext_getElem
  · simp only [fillFrom, List.length_map, List.length_range, List.length_append, List.length_replicate]
    omega
  · intro i inFill inParts
    have filled : (fillFrom (s.pageWord b) k len)[i] = s.pageWord b (k + i) := by simp [fillFrom]
    rw [filled]
    by_cases memory : i < min len (8 - k)
    · rw [List.getElem_append_left (by rw [List.length_replicate]; exact memory), List.getElem_replicate]
      exact pageWord_memory s b (by omega)
    · have within : i < len := by simpa [fillFrom] using inFill
      rw [List.getElem_append_right (by rw [List.length_replicate]; omega), pageWord_status s b (by omega)]
      simp only [List.getElem_map, List.getElem_range, List.length_replicate]
      rw [show 8 + (i - min len (8 - k)) = k + i by omega]

theorem leadingWords_memory {n : Nat} (l : List (Option Word)) (h : 0 < n) :
    leadingWords (List.replicate n none ++ l) = [] ∧
      dropLeading (List.replicate n none ++ l) = List.replicate n none ++ l := by
  obtain ⟨n, rfl⟩ := Nat.exists_eq_add_of_lt h
  rw [Nat.zero_add, List.replicate_succ]
  exact ⟨rfl, rfl⟩

theorem leadingWords_some (l : List Word) {r : List (Option Word)} (h : leadingWords r = []) (d : dropLeading r = r) :
    leadingWords (l.map some ++ r) = l ∧ dropLeading (l.map some ++ r) = r := by
  induction l with
  | nil => exact ⟨h, d⟩
  | cons v l ih => exact ⟨congrArg (v :: ·) ih.1, ih.2⟩

/-- R167: the span of a burst that begins in memory and ends with substituted words. -/
theorem spanRead_memory (t : Tag) (a : Nat) {n : Nat} (ws : List Word) (h : 0 < n) :
    spanRead t a (List.replicate n none ++ ws.map some) =
      { tag := t, addr := a, load := .read [] (List.replicate n none) ws } := by
  have start := leadingWords_memory (ws.map some) h
  have back : (List.replicate n none ++ ws.map some).reverse = ws.reverse.map some ++ List.replicate n none := by
    rw [List.reverse_append, List.reverse_replicate, List.map_reverse]
  have stop := leadingWords_memory [] h
  rw [List.append_nil] at stop
  have ends := leadingWords_some ws.reverse stop.1 stop.2
  unfold spanRead
  simp only [start.1, start.2, back, ends.1, ends.2, List.reverse_replicate, List.reverse_reverse, List.length_nil,
    Nat.mul_zero, Nat.add_zero]

theorem answerRead_page (t : Tag) (a : Nat) {k len : Nat} (s : State) (b : Berth) (h : k < 8) (some : 1 ≤ len) :
    answerRead t a (fillFrom (s.pageWord b) k len) s = passOn
      { tag := t, addr := a
        load := .read [] (List.replicate (min len (8 - k)) none)
          ((List.range (len - (8 - k))).map fun i => s.berthWord b (8 + i)) } s := by
  have first : none ∈ fillFrom (s.pageWord b) k len :=
    List.mem_map.mpr ⟨0, List.mem_range.mpr some, pageWord_memory s b h⟩
  rcases answerRead_cases t a (fillFrom (s.pageWord b) k len) s with ⟨all, -⟩ | ⟨-, passed⟩
  · exact absurd (all none first) Bool.false_ne_true
  · rw [passed, pageFill s b len h, spanRead_memory t a _ (by omega)]

/-! ## The station page (R171, R176) -/

theorem perTag_ext {α : Type} {p q : PerTag α} (h : ∀ k, p.get k = q.get k) : p = q := by
  obtain ⟨a, b, c, d⟩ := p
  obtain ⟨a', b', c', d'⟩ := q
  have s := h .supervisor
  have m := h .meter
  have l := h .link
  have u := h .unknown
  cases s
  cases m
  cases l
  cases u
  rfl

theorem clearRecords_succ (n len : Nat) (s : State) : clearRecords n (len + 1) s =
    if 231 ≤ n + len ∧ n + len ≤ 234 then
      { clearRecords n len s with bus := { (clearRecords n len s).bus with
        refused := (clearRecords n len s).bus.refused.set (Tag.ofNat (n + len - 231)) ⟨0, .none⟩ } }
    else clearRecords n len s := by
  unfold clearRecords
  rw [List.range_succ, List.foldl_append]
  rfl

theorem tag_ofNat_iff {j : Nat} (h : j ≤ 3) (k : Tag) : Tag.ofNat j = k ↔ j = k.num := by
  interval_cases j <;> cases k <;> decide

theorem tag_num_le (k : Tag) : k.num ≤ 3 := by cases k <;> decide

/-- R171: the records that a read covers are cleared, and no others. -/
theorem clearRecords_get (n len : Nat) (s : State) (k : Tag) : (clearRecords n len s).bus.refused.get k =
    if n ≤ 231 + k.num ∧ 231 + k.num < n + len then ⟨0, .none⟩ else s.bus.refused.get k := by
  have small := tag_num_le k
  induction len with
  | zero => exact (if_neg (by omega)).symm
  | succ len ih =>
    rw [clearRecords_succ]
    split
    next record =>
      dsimp only
      have own := tag_ofNat_iff (j := n + len - 231) (by omega) k
      by_cases same : Tag.ofNat (n + len - 231) = k
      · rw [same, PerTag.get_set_self, if_pos (by have := own.mp same; omega)]
      · have other : n + len - 231 ≠ k.num := fun e => same (own.mpr e)
        rw [PerTag.get_set_ne _ _ _ _ (Ne.symm same), ih]
        exact if_congr (by omega) rfl rfl
    next outside =>
      rw [ih]
      exact if_congr (by omega) rfl rfl

theorem readStation_eq (t : Tag) (a n len : Nat) {s u : State}
    (only : u = { s with bus := { s.bus with refused := u.bus.refused } })
    (cleared : ∀ k : Tag, u.bus.refused.get k =
      if t = .supervisor ∧ n ≤ 231 + k.num ∧ 231 + k.num < n + len then ⟨0, .none⟩ else s.bus.refused.get k) :
    readStation t a n len s = answerRead t a (fillFrom s.stationWord n len) u := by
  have same : (if t = .supervisor then clearRecords n len s else s) = u := by
    split
    next host =>
      obtain ⟨r, e⟩ := clearRecords_refused n len s
      have records : r = u.bus.refused := by
        refine perTag_ext fun k => ?_
        have got := clearRecords_get n len s k
        rw [e] at got
        rw [cleared k, got]
        exact if_congr (and_iff_right host).symm rfl rfl
      rw [e, only, records]
    next other =>
      have records : s.bus.refused = u.bus.refused :=
        perTag_ext fun k => by rw [cleared k, if_neg fun h => other h.1]
      rw [only, ← records]
  unfold readStation
  dsimp only
  rw [same]

theorem module_ofNat_some {n : Nat} (h : n < 8) : (ModuleId.ofNat? n).isSome = true := by
  interval_cases n <;> rfl

theorem berth_ofNat_some {n : Nat} (h : n < 3) : (Berth.ofNat? n).isSome = true := by
  interval_cases n <;> rfl

/-- R176: which words of the station page are answered by substitution. -/
theorem stationWord_isSome (s : State) (n : Nat) : (s.stationWord n).isSome = true ↔
    n = 217 ∨ 222 ≤ n ∧ n ≤ 228 ∨ 230 ≤ n ∧ n ≤ 251 ∨ n = 254 ∨ n = 255 := by
  unfold State.stationWord
  split
  next => exact iff_of_true rfl (by omega)
  split
  next => exact iff_of_true rfl (by omega)
  split
  next => exact iff_of_true rfl (by omega)
  split
  next => exact iff_of_true rfl (by omega)
  split
  next => exact iff_of_true rfl (by omega)
  split
  next => exact iff_of_true rfl (by omega)
  split
  next => exact iff_of_true rfl (by omega)
  split
  next modules => exact iff_of_true (Option.isSome_map.trans (module_ofNat_some (by omega))) (by omega)
  split
  next counters => exact iff_of_true (Option.isSome_map.trans (berth_ofNat_some (by omega))) (by omega)
  split
  next => exact iff_of_true rfl (by omega)
  split
  next => exact iff_of_true rfl (by omega)
  next => exact iff_of_false nofun (by omega)

theorem module_summary_eq (r : Module) : r.summary = fields
    [putBit 0 r.present, put 1 2 r.standing.code, put 3 2 ((r.standing.berth?.map Berth.num).getD 0),
      put 5 3 ((r.standing.run?.map RunState.code).getD 0), put 8 2 r.mode.code, putBit 10 r.fit, putBit 11 r.stale,
      put 12 2 ((r.latest.map fun y => y.state.code).getD 0), put 16 5 (r.rating / 100), put 24 8 r.badCount] := by
  unfold Module.summary
  rcases r.standing.berth? with _ | _ <;> rcases r.standing.run? with _ | _ <;> rcases r.latest with _ | _ <;> rfl

theorem stationWord_module (s : State) (m : ModuleId) : s.stationWord (235 + m.num) = some (s.mods.get m).summary := by
  cases m <;> rfl

theorem stationWord_counters (s : State) (b : Berth) (i : Nat) (h : i < 3) :
    s.stationWord (243 + 3 * b.num + i) = some ((s.meas.get b).counters.word i) := by
  interval_cases i <;> cases b <;> rfl

/-! ## The berth status (R122) -/

theorem wordAt_range (l : List Word) {n : Nat} (h : l.length ≤ n) :
    (List.range n).map (fun i => wordAt l i) = l ++ List.replicate (n - l.length) 0 := by
  apply List.ext_getElem
  · simp only [List.length_map, List.length_range, List.length_append, List.length_replicate]
    omega
  · intro i inRange inParts
    rw [List.getElem_map, List.getElem_range]
    unfold wordAt
    by_cases within : i < l.length
    · rw [List.getElem_append_left within, List.getD_eq_getElem _ _ within]
    · rw [List.getElem_append_right (by omega), List.getElem_replicate, List.getD_eq_default _ _ (by omega)]

theorem profileWords_eq (p : Option ShipProfile) : profileWords p =
    [(p.map (·.shipCode)).getD 0,
      (p.map fun p => fields [put 0 16 p.callNumber.toNat, put 16 8 (p.demand / 100), put 24 2 p.reserve]).getD 0,
      (p.map fun p => fields [put 0 16 p.nominalFreq, put 16 16 p.nominalVolt]).getD 0] := by
  cases p <;> rfl

theorem phasorWords_eq (p : Option Phasor) : phasorWords p =
    (p.map fun p => [put 0 32 p.freq, put 0 32 p.volt, put 0 32 p.phase, p.stamp]).getD [0, 0, 0, 0] := by
  cases p <;> rfl

theorem feederWords_eq (f : Option Feeder) : feederWords f =
    (f.map fun f => [putInt 0 32 f.power, put 0 32 f.epoch.toNat, f.register, f.stamp]).getD [0, 0, 0, 0] := by
  cases f <;> rfl

theorem phasorWords_length (p : Option Phasor) : (phasorWords p).length = 4 := by cases p <;> rfl

theorem feederWords_length (f : Option Feeder) : (feederWords f).length = 4 := by cases f <;> rfl

theorem profileWords_length (p : Option ShipProfile) : (profileWords p).length = 3 := by cases p <;> rfl

theorem berthStatus_length (s : State) (b : Berth) : (s.berthStatus b).length = 42 := by
  unfold State.berthStatus requestWords rampWords oscWords syncWords
  simp only [List.length_append, List.length_cons, List.length_nil, profileWords_length, phasorWords_length,
    feederWords_length]

theorem berthWords_eq (s : State) (b : Berth) : ((List.range 56).map fun i => s.berthWord b (8 + i)) =
    s.berthStatus b ++ List.replicate 14 0 := by
  have word (i : Nat) : s.berthWord b (8 + i) = wordAt (s.berthStatus b) i := by
    unfold State.berthWord
    rw [Nat.add_sub_cancel_left]
  simp only [word]
  rw [wordAt_range _ (by rw [berthStatus_length]; decide), berthStatus_length]

theorem requestWords_eq (q : Seq) : requestWords q =
    [(q.current.map fun r => fields [put 0 4 r.kind.code, put 16 16 r.tag.toNat]).getD 0,
      fields
        [put 0 4 q.last.kind.toNat, putBit 4 q.last.overtaken.isSome, put 8 4 q.last.outcome.code,
          put 12 4 (causeCode q.last.cause), put 16 16 q.last.tag.toNat],
      fields [put 0 16 ((q.last.overtaken.getD 0).toNat), put 16 16 q.count.toNat]] := by
  unfold requestWords
  cases q.current <;> rfl

theorem claimTimer_eq (s : State) (b : Berth) :
    s.claimTimer b = ((s.claims.find? fun c => c.berth == b).map (·.timer)).getD .stopped := by
  unfold State.claimTimer
  cases s.claims.find? fun c => c.berth == b <;> rfl

theorem deadTimeInstant_eq (now : Word) (t : Timer) :
    deadTimeInstant now t = if t.isRunning = true then now + BitVec.ofNat 32 t.left else 0 := by
  cases t <;> rfl

theorem lastAngle_eq (u : Sync) : u.lastAngle = (u.lastClose.bind (·.angle)).getD 0 := by
  unfold Sync.lastAngle
  cases u.lastClose <;> rfl

theorem lastTime_eq (u : Sync) : u.lastTime = (u.lastClose.map (·.timeUs)).getD 0 := by
  unfold Sync.lastTime
  cases u.lastClose <;> rfl

theorem syncWords_eq (s : State) (b : Berth) : syncWords s b =
    [syncMarks s b,
      fields [putInt 0 16 ((s.sync.get b).window.voltDiff.getD 0), putInt 16 16 ((s.sync.get b).window.slip.getD 0)],
      fields [put 0 16 ((s.sync.get b).residual.getD 0), put 16 16 (s.sync.get b).closeCount.toNat],
      ((s.sync.get b).prediction.map (·.coincidence)).getD 0, ((s.sync.get b).prediction.map (·.due)).getD 0,
      if (s.sync.get b).deadTime.isRunning = true then s.now + BitVec.ofNat 32 (s.sync.get b).deadTime.left else 0,
      putInt 0 32 (((s.sync.get b).lastClose.bind (·.angle)).getD 0),
      put 0 32 (((s.sync.get b).lastClose.map (·.timeUs)).getD 0)] := by
  unfold syncWords
  dsimp only
  rw [deadTimeInstant_eq, lastAngle_eq, lastTime_eq]
  cases (s.sync.get b).prediction <;> rfl

theorem streamWord_eq (m : Meas) : streamWord m = fields
    [put 0 2 m.ship.fresh.code, put 2 2 m.shore.fresh.code, put 4 2 m.feeder.fresh.code, putBit 8 m.baselineSet,
      putBit 9 m.base.isSome, put 16 8 m.expected.toNat, put 24 8 ((m.base.map fun x => x.epoch.toNat).getD 0)] := by
  unfold streamWord
  cases m.base <;> rfl

theorem sessionNumber_eq (s : State) (b : Berth) :
    (s.sessionNumber b).toNat = ((s.sessions.get b).map fun x => x.number.toNat).getD 0 := by
  unfold State.sessionNumber
  cases s.sessions.get b <;> rfl

end Sys2Proof.Machine
end

section
/-! Proofs: the answers to substituted reads, their layout and codes, together (O16). -/

namespace Sys2Proof.Machine

/-! ## The parts of the statement -/

theorem moduleCmd_read {x : Transfer} {s : State} {n len : Nat} {e : WindowEntry} (wf : x.wellFormed = true)
    (takes : s.Takes x.tag) (known : x.tag ≠ .unknown) (served : x.tag = .link → s.bus.firstCommit = true)
    (access : x.access = .read len) (region : s.burstRegion x.addr.toNat x.len = some (.window n e)) :
    exec (.transferAccept x) s = .next (readWindow x.tag x.addr.toNat len e s) := by
  rw [exec_transferAccept_takes wf takes, acceptNow_read known access region, acceptRead_window_served _ _ _ _ served]

theorem berthPage_status_read {e : WindowEntry} {b : Berth} (t : Tag) (a len : Nat) (s : State)
    (kind : e.kind = .berthPage) (berth : e.berth = b.num) (h : 8 ≤ (a - e.base) / 4) : readWindow t a len e s =
      respond t (.done ((List.range len).map fun i => s.berthWord b ((a - e.base) / 4 + i))) s := by
  have words (i : Nat) : s.pageWord b ((a - e.base) / 4 + i) = some (s.berthWord b ((a - e.base) / 4 + i)) :=
    pageWord_status s b (by omega)
  rw [readWindow_berthPage t a len s kind berth, answerRead_all t a _ len s fun i _ => by rw [words]; rfl]
  simp only [words, Option.getD_some]

theorem read_len {x : Transfer} {len : Nat} (wf : x.wellFormed = true) (access : x.access = .read len) : 1 ≤ len := by
  have some := ((wellFormed_iff x).mp wf).2.1
  unfold Transfer.len at some
  rw [access] at some
  exact some

theorem station_read {x : Transfer} {s u : State} {n len : Nat} (wf : x.wellFormed = true)
    (takes : s.Takes x.tag) (known : x.tag ≠ .unknown) (served : x.tag = .link → s.bus.firstCommit = true)
    (access : x.access = .read len) (region : s.burstRegion x.addr.toNat x.len = some .station)
    (word : n = (x.addr.toNat - 16776192) / 4)
    (only : u = { s with bus := { s.bus with refused := u.bus.refused } })
    (cleared : ∀ k : Tag, u.bus.refused.get k =
      if x.tag = .supervisor ∧ n ≤ 231 + k.num ∧ 231 + k.num < n + len then ⟨0, .none⟩ else s.bus.refused.get k) :
    exec (.transferAccept x) s = .next (answerRead x.tag x.addr.toNat (fillFrom s.stationWord n len) u) := by
  rw [exec_transferAccept_takes wf takes, acceptNow_read known access region,
    acceptRead_station_served _ _ served, ← readStation_eq x.tag x.addr.toNat n len only cleared, word]
  rfl

/-- R122: the words of a berth page from word 8 on. -/
theorem berthPage_words (s : State) (b : Berth) : ((List.range 56).map fun i => s.berthWord b (8 + i)) =
    [contextWord s b, (s.seq.get b).entry] ++ profileWords (s.seq.get b).profile ++ requestWords (s.seq.get b) ++
      rampWords s b ++ oscWords (s.shipFresh b) (s.osc.get b) ++ syncWords s b ++
      phasorWords (s.meas.get b).ship.latest ++ phasorWords (s.meas.get b).shore.latest ++
      feederWords (s.meas.get b).feeder.latest ++
      [streamWord (s.meas.get b), put 0 32 (s.sessionNumber b).toNat] ++ List.replicate 14 0 := berthWords_eq s b

/-- Settles O16: the codes are those of the definitions, a read is answered by the window it lies in, and a berth page's
words are laid out as its parts are. -/
theorem substitutedReadsAnswerSnapshot : Obligations.SubstitutedReadsAnswerSnapshot := by
  refine ⟨fun lo len v x f w ws i => ⟨put_eq .., putInt_eq .., putBit_eq .., fields_bit .., field_eq ..⟩, ?codes,
    fun x s n e len wf takes known served access region => ⟨fun kind => ?_, fun b kind berth => ⟨fun status => ?_,
      fun k word below => ?_⟩⟩,
    fun x s u n len wf takes known served access region word only cleared => ⟨fun all => ?_, fun missing => ?_⟩,
    fun s => ⟨stationWord_isSome s, rfl, rfl, rfl, rfl, rfl, rfl, rfl, rfl, rfl, fun k => ?_, fun m => ?_,
      fun b c counters => ?_, ?_, rfl⟩,
    fun s b q m o u hq hm ho hu => ?_⟩
  case codes =>
    refine ⟨rfl, rfl, rfl, rfl, rfl, rfl, ?_, ofCode_iff, rfl, rfl, rfl, rfl, rfl, rfl, rfl, rfl,
      fun n => ⟨rfl, rfl, rfl⟩, fun b r => ⟨rfl, rfl, rfl⟩, serves_iff_standing, rfl, rfl, rfl, rfl, rfl, rfl, rfl, rfl,
      fun v => rfl, rfl, rfl, rfl, sourceUnavailable_iff⟩
    intro f mem
    rcases List.mem_cons.mp mem with code | mem
    · rw [code]
      rfl
    · rw [List.mem_singleton.mp mem]
      rfl
  case refine_1 =>
    rw [moduleCmd_read wf takes known served access region, readWindow_moduleCmd _ _ _ s kind]
    rfl
  case refine_2 =>
    rw [moduleCmd_read wf takes known served access region, berthPage_status_read _ _ _ s kind berth status]
    rfl
  case refine_3 =>
    rw [moduleCmd_read wf takes known served access region, readWindow_berthPage _ _ _ s kind berth, ← word,
      answerRead_page _ _ s b below (read_len wf access)]
  case refine_4 =>
    have same : u.bus.resp = s.bus.resp := by rw [only]
    rw [station_read wf takes known served access region word only cleared, answerRead_all _ _ _ _ u all, ← same]
    rfl
  case refine_5 =>
    obtain ⟨before, span, after, split, head, last, answered⟩ := answerRead_some x.tag x.addr.toNat n len u missing
    rw [station_read wf takes known served access region word only cleared]
    exact ⟨before, span, after, split, head, last, congrArg _ answered⟩
  case refine_6 => exact stationWord_record s k
  case refine_7 => rw [stationWord_module, module_summary_eq]
  case refine_8 =>
    rw [counters]
    have second := stationWord_counters s b 1 (by decide)
    have third := stationWord_counters s b 2 (by decide)
    rw [show 243 + 3 * b.num + 1 = 244 + 3 * b.num by omega] at second
    rw [show 243 + 3 * b.num + 2 = 245 + 3 * b.num by omega] at third
    exact ⟨stationWord_counters s b 0 (by decide), second, third⟩
  case refine_9 =>
    show some s.page.commitWord = _
    unfold Page.commitWord
    cases s.page.result.sect <;> rfl
  case refine_10 =>
    rw [berthPage_words, profileWords_eq, requestWords_eq, syncWords_eq, phasorWords_eq, phasorWords_eq, feederWords_eq,
      streamWord_eq, sessionNumber_eq, hq, hm, ho, hu]
    unfold rampWords
    rw [claimTimer_eq]
    rfl

end Sys2Proof.Machine
end

section
/-! Proofs: the writes of the journal (O21, O22). -/

namespace Sys2Proof.Machine

/-! ## When a write begins (R152) -/

theorem canWrite_iff (s : State) : s.canWrite = true ↔ s.jour.channel = .started ∧ s.jour.writing = none ∧
    s.jour.queue ≠ [] ∧ s.bus.firstCommit = true ∧ s.jour.ring.isSome = true ∧
    unconsumed s.jour.len s.jour.produce s.jour.consume + 1 ≠ s.jour.len := by
  unfold State.canWrite State.ringConfigured
  simp only [Bool.and_eq_true, beq_iff_eq, Option.isNone_iff_eq_none, Bool.not_eq_true', List.isEmpty_eq_false_iff,
    bne_iff_ne, and_assoc, ne_eq]

theorem isEvent_iff (r : Record) : r.isEvent = true ↔ ∃ code q ws, r.body = .event code q ws := by
  unfold Record.isEvent
  cases r.body with
  | event code q ws => exact iff_of_true rfl ⟨code, q, ws, rfl⟩
  | _ => exact iff_of_false nofun nofun

theorem isUrgent_iff (r : Record) : r.isUrgent = true ↔
    (∃ ws, r.body = .sessionClose ws) ∨ ∃ q ws, r.body = .event .tripped q ws := by
  unfold Record.isUrgent
  cases r.body with
  | event code q ws =>
    cases code with
    | tripped => exact iff_of_true rfl (.inr ⟨q, ws, rfl⟩)
    | _ => exact iff_of_false nofun (by rintro (⟨_, h⟩ | ⟨_, _, h⟩) <;> cases h)
  | sessionClose ws => exact iff_of_true rfl (.inl ⟨ws, rfl⟩)
  | _ => exact iff_of_false nofun (by rintro (⟨_, h⟩ | ⟨_, _, h⟩) <;> cases h)

theorem payload_length (lost : Nat) (b : Body) : (b.payload lost).length = 11 := by
  have padded (ws : List Word) : (padTo 11 ws).length = 11 := by
    unfold padTo
    rw [List.length_take, List.length_append, List.length_replicate]
    omega
  cases b <;> exact padded _

theorem recordWords_length (r : Record) (seq : Word) (lost : Nat) : (r.words seq lost).length = 15 := by
  unfold Record.words
  rw [List.length_append, payload_length]
  rfl

/-- Settles O21. -/
theorem journalWriteStarts : Obligations.JournalWriteStarts := by
  refine ⟨canWrite_iff, fun ws i code q => rfl, rfl, isEvent_iff, fun r seq lost words laid => ⟨fun ws body => ?_,
    fun i body => ?_, fun code q ws body => ?_⟩, fun s r rest can queue => ?_⟩
  case refine_1 =>
    rw [laid]
    unfold Record.words Record.word0
    rcases body with body | body | body <;> rw [body] <;> cases r.berth <;> rfl
  case refine_2 =>
    rw [laid]
    unfold Record.words Record.word0
    rw [body]
    cases r.berth <;> rfl
  case refine_3 =>
    rw [laid]
    unfold Record.words Record.word0
    rw [body]
    cases r.berth <;> rfl
  case refine_4 =>
    let lost := if r.isEvent = true then s.jour.lost else 0
    let ws := r.words s.jour.nextSeq lost
    have length : ws.length = 15 := recordWords_length ..
    have first : (ws ++ [chainValue s.jour.chain ws]).take 15 = ws := by
      rw [List.take_append_of_le_length (by omega), List.take_of_length_le (by omega)]
    refine ⟨⟨ws ++ [chainValue s.jour.chain ws], chainValue s.jour.chain ws, lost, 1, false⟩, ?_, ?_, first, rfl, ?_, ?_, rfl, rfl, rfl⟩
    · have started : exec .journalWriteStart s = .next (startWrite s) := exec_due rfl can
      rw [started]
      unfold startWrite
      rw [queue]
    · rw [List.length_append, length]
      rfl
    · rw [first]
      rfl
    · rw [List.getD_append_right _ _ _ _ (by omega), length]
      rfl

/-! ## What a claim carries (R152) -/

theorem journalBase_of_table {s : State} (ok : s.TableOk) (commit : s.bus.firstCommit = true) :
    ∃ e ∈ s.bus.table, e.kind = .journal ∧ s.journalBase = e.base := by
  obtain ⟨-, -, -, -, kinds⟩ := ok
  obtain ⟨c, mem, kind⟩ := kinds commit .journal (by decide)
  unfold State.journalBase
  cases found : findWindow s.bus.table .journal with
  | some e => exact ⟨e, (findWindow_mem found).1, (findWindow_mem found).2, rfl⟩
  | none =>
    unfold findWindow at found
    rw [List.find?_eq_none] at found
    exact absurd (beq_iff_eq.mpr kind) (found c mem)

theorem put_word (v : Nat) : put 0 32 v = BitVec.ofNat 32 v := by
  rw [put_eq]
  apply BitVec.eq_of_toNat_eq
  simp

/-- The state in which the next claim is made, or the write completes: the face's words stand in memory. -/
def carriedClaim (a : Nat) (ws : List Word) (s : State) : State :=
  freeFace { s with bus := { s.bus with mem := memWriteBurst s.bus.mem (a / 4) ws } }

theorem exec_claimDone {s : State} {a : Nat} {ws : List Word} {live : Bool} (h : s.bus.face = some (.journal a ws live)) :
    exec .journalClaimDone s = .next (grant (if live then claimCarried (carriedClaim a ws s) else carriedClaim a ws s)) := by
  show Host.Outcome.next (claimDone s) = _
  unfold claimDone
  rw [h]
  rfl

/-- R152: what the completed write of the head record leaves before the announcement is judged. -/
def afterWrite (w : Writing) (rest : List Record) (s : State) : State :=
  { s with
    jour := { s.jour with
      queue := rest, writing := none, produce := (s.jour.produce + 1) % s.jour.len
      nextSeq := s.jour.nextSeq + 1, chain := w.chain, lost := s.jour.lost - w.lostTaken
      channel := if s.jour.channel = .stopPending then .stopped else s.jour.channel } }

theorem claimCarried_completes {s : State} {w : Writing} {r : Record} {rest : List Record}
    (writes : s.jour.writing = some w) (last : w.claim = 3) (queue : s.jour.queue = r :: rest) :
    claimCarried s = judgeReady r (afterWrite w rest s) := by
  unfold claimCarried completeWrite
  rw [writes]
  dsimp only
  rw [if_neg (by omega), queue]
  rfl

/-- R157: a completed record starts the coalescing timer where the first is awaited. -/
def coalesced (s : State) : State :=
  if s.jour.coalescing = .waitingFirst then
    { s with jour := { s.jour with coalescing := .running, coalTimer := .running (s.jour.coalTimeMs * Config.msUs) } }
  else s

theorem coalesced_rest (s : State) : ∃ c t, coalesced s = { s with jour := { s.jour with coalescing := c, coalTimer := t } } := by
  unfold coalesced
  split
  · exact ⟨_, _, rfl⟩
  · exact ⟨s.jour.coalescing, s.jour.coalTimer, rfl⟩

theorem judgeReady_announces {r : Record} {s : State}
    (h : s.jour.threshold ≤ unconsumed s.jour.len s.jour.produce s.jour.consume ∨ r.isUrgent = true) :
    judgeReady r s = signalReady (coalesced s) := by
  obtain ⟨c, t, e⟩ := coalesced_rest s
  have same : judgeReady r s = if (coalesced s).jour.threshold ≤ unconsumed (coalesced s).jour.len
      (coalesced s).jour.produce (coalesced s).jour.consume ∨ r.isUrgent = true then signalReady (coalesced s)
      else coalesced s := rfl
  rw [same, e]
  exact if_pos h

theorem judgeReady_waits {r : Record} {s : State}
    (few : unconsumed s.jour.len s.jour.produce s.jour.consume < s.jour.threshold) (calm : r.isUrgent = false) :
    judgeReady r s = coalesced s := by
  obtain ⟨c, t, e⟩ := coalesced_rest s
  have same : judgeReady r s = if (coalesced s).jour.threshold ≤ unconsumed (coalesced s).jour.len
      (coalesced s).jour.produce (coalesced s).jour.consume ∨ r.isUrgent = true then signalReady (coalesced s)
      else coalesced s := rfl
  rw [same, e]
  exact if_neg fun h => h.elim (Nat.not_le.mpr few) fun urgent => Bool.false_ne_true (calm.symm.trans urgent)

theorem judgeReady_rest (r : Record) (s : State) : ∃ c t p, judgeReady r s =
    { s with
      jour := { s.jour with coalescing := c, coalTimer := t }, page := { s.page with summary := p } } := by
  obtain ⟨c, t, e⟩ := coalesced_rest s
  by_cases h : s.jour.threshold ≤ unconsumed s.jour.len s.jour.produce s.jour.consume ∨ r.isUrgent = true
  · rw [judgeReady_announces h, e]
    exact ⟨_, _, _, rfl⟩
  · obtain ⟨few, calm⟩ := not_or.mp h
    rw [judgeReady_waits (Nat.lt_of_not_le few) (Bool.eq_false_iff.mpr calm), e]
    exact ⟨_, _, s.page.summary, rfl⟩

/-- R152: a ring in order has room for the record that is being written. -/
theorem unconsumed_after {s : State} (writes : s.jour.writing.isSome = true) (ok : s.RingOk) :
    unconsumed s.jour.len ((s.jour.produce + 1) % s.jour.len) s.jour.consume =
        unconsumed s.jour.len s.jour.produce s.jour.consume + 1 ∧
      unconsumed s.jour.len ((s.jour.produce + 1) % s.jour.len) s.jour.consume + 1 ≤ s.jour.len := by
  obtain ⟨g, ring⟩ : ∃ g, s.jour.ring = some g := by
    rw [State.ringOk_iff, writes] at ok
    exact Option.isSome_iff_exists.mp ok.configured
  obtain ⟨-, -, produce, consume, -, room⟩ := (State.ringOk_configured ring).mp ok
  rw [len_of_ring ring]
  have more := unconsumed_succ produce consume (room writes)
  have left := room writes
  exact ⟨more, by omega⟩

/-- Settles O22: the third claim's end is `afterWrite` with the announcement judged. -/
theorem journalClaimsCarryRecord : Obligations.JournalClaimsCarryRecord := by
  refine ⟨fun l p c => unconsumed_eq, fun j => ?_, fun s => journalBase_of_table, fun s w g ring => ⟨fun claim => ?_,
    fun claim => ?_, fun claim => ?_⟩, fun s w a ws face writes early => ?_, fun s w a ws r rest face writes last queue => ?_,
    isUrgent_iff, fun s a ws face => ?_⟩
  case refine_1 =>
    unfold Journal.len
    cases j.ring <;> rfl
  case refine_2 =>
    unfold claimBurst
    rw [claim]
    rfl
  case refine_3 =>
    unfold claimBurst
    rw [claim]
    rfl
  case refine_4 =>
    unfold claimBurst
    rw [claim, put_word, len_of_ring ring, ring]
    rfl
  case refine_5 =>
    rw [exec_claimDone face]
    have next : claimCarried (carriedClaim a ws s) =
        { carriedClaim a ws s with
          jour := { s.jour with writing := some { w with claim := w.claim + 1, granted := false } } } := by
      unfold claimCarried
      rw [show (carriedClaim a ws s).jour.writing = some w from writes]
      exact if_pos early
    rw [if_pos rfl, next]
    rfl
  case refine_6 =>
    let v := afterWrite w rest (carriedClaim a ws s)
    obtain ⟨c, t, p, e⟩ := judgeReady_rest r v
    refine ⟨judgeReady r v, ?_, ?_⟩
    · rw [exec_claimDone face, if_pos rfl, claimCarried_completes (s := carriedClaim a ws s) writes last queue]
    · refine ⟨by rw [e]; rfl, by rw [e]; rfl, by rw [e]; rfl, by rw [e]; rfl, by rw [e]; rfl, by rw [e]; rfl, by rw [e]; rfl,
        by rw [e]; rfl, by rw [e]; rfl, fun ok => ?_, fun h => ?_, fun few calm => ?_⟩
      · rw [e]
        exact unconsumed_after (by rw [writes]; rfl) ok
      · obtain ⟨c', t', e'⟩ := coalesced_rest v
        rw [judgeReady_announces (s := v) h, e']
        exact ⟨rfl, setSummary_bit _ _, rfl, rfl⟩
      · rw [judgeReady_waits (s := v) few calm]
        refine ⟨?_, fun first => ?_, fun later => ?_⟩
        · obtain ⟨c', t', e'⟩ := coalesced_rest v
          rw [e']
          rfl
        · have started : coalesced v = _ := if_pos first
          rw [started]
          exact ⟨rfl, rfl⟩
        · have kept : coalesced v = v := if_neg later
          rw [kept]
          exact ⟨rfl, rfl⟩
  case refine_7 =>
    rw [exec_claimDone face]
    rfl

end Sys2Proof.Machine
end

section
/-! Proofs: the checks of a measurement record (O23, O24). -/

namespace Sys2Proof.Machine

/-! ## Identity and timestamp (R61, R62) -/

theorem halves_sum (w0 w1 w2 w3 : Word) : checkSum [w0, w1, w2, w3] =
    (field w0 0 16 + field w0 16 16 + field w1 0 16 + field w1 16 16 + field w2 0 16 + field w2 16 16 +
      field w3 0 16 + field w3 16 16) % 65536 := by
  unfold checkSum
  simp only [List.foldl_cons, List.foldl_nil, Nat.zero_add]

theorem slotKind_isSome {n : Nat} (h : n < 4) : (SlotKind.ofCode? n).isSome = true ↔ n ≠ 0 := by
  interval_cases n <;> decide

theorem field_lt (w : Word) (lo len : Nat) : field w lo len < 2 ^ len := (w.extractLsb' lo len).isLt

theorem identityOk_iff (b : Berth) (w0 w1 w2 w3 : Word) : identityOk b (parseMeas w0 w1 w2 w3) = true ↔
    (field w0 0 16 + field w0 16 16 + field w1 0 16 + field w1 16 16 + field w2 0 16 + field w2 16 16 +
      field w3 0 16 + field w3 16 16) % 65536 = 0 ∧ field w0 2 2 = b.num ∧ field w0 0 2 ≠ 0 := by
  have kind := slotKind_isSome (field_lt w0 0 2)
  unfold identityOk parseMeas
  dsimp only
  rw [Bool.and_eq_true, Bool.and_eq_true, beq_iff_eq, beq_iff_eq, kind, halves_sum, and_assoc]

theorem timeOk_iff (now stamp : Word) (us : Nat) : timeOk now stamp us = true ↔ (stamp - now).toInt.natAbs ≤ us :=
  decide_eq_true_iff

theorem stalenessUs_eq (s : State) (b : Berth) : s.stalenessUs b = (s.params.get b).stalenessMs * 1000 := rfl

/-! ## Where a record's checks lead (R60) -/

theorem takeMeasurement_bad {b : Berth} {w0 w1 w2 w3 : Word} (s : State)
    (h : identityOk b (parseMeas w0 w1 w2 w3) = false) :
    takeMeasurement b w0 w1 w2 w3 s = s.updMeas b fun m =>
      { m with counters := { m.counters with badRecord := min (m.counters.badRecord + 1) 65535 } } := by
  unfold takeMeasurement
  dsimp only
  rw [h]
  rfl

theorem takeMeasurement_untimely {b : Berth} {w0 w1 w2 w3 : Word} {s : State}
    (h : identityOk b (parseMeas w0 w1 w2 w3) = true) (late : timeOk s.now w1 (s.stalenessUs b) = false) :
    takeMeasurement b w0 w1 w2 w3 s = s.updMeas b fun m =>
      { m with counters := { m.counters with timeBad := min (m.counters.timeBad + 1) 65535 } } := by
  unfold takeMeasurement
  dsimp only
  rw [h, show (parseMeas w0 w1 w2 w3).stamp = w1 from rfl, late]
  rfl

theorem takeMeasurement_discarded {b : Berth} {w0 w1 w2 w3 : Word} {s : State}
    (h : identityOk b (parseMeas w0 w1 w2 w3) = true) (timely : timeOk s.now w1 (s.stalenessUs b) = true)
    (late : applySeq b (w0.extractLsb' 8 8) s = none) :
    takeMeasurement b w0 w1 w2 w3 s = s.updMeas b fun m =>
      { m with counters := { m.counters with outOfOrder := min (m.counters.outOfOrder + 1) 65535 } } := by
  unfold takeMeasurement
  dsimp only
  rw [h, show (parseMeas w0 w1 w2 w3).stamp = w1 from rfl, timely,
    show (parseMeas w0 w1 w2 w3).seq = w0.extractLsb' 8 8 from rfl, late]
  rfl

theorem takeMeasurement_taken {b : Berth} {w0 w1 w2 w3 : Word} {s u : State} {k : SlotKind}
    (h : identityOk b (parseMeas w0 w1 w2 w3) = true) (timely : timeOk s.now w1 (s.stalenessUs b) = true)
    (ordered : applySeq b (w0.extractLsb' 8 8) s = some u) (kind : SlotKind.ofCode? (field w0 0 2) = some k) :
    takeMeasurement b w0 w1 w2 w3 s = takeValues b k (parseMeas w0 w1 w2 w3) u := by
  unfold takeMeasurement
  dsimp only
  rw [h, show (parseMeas w0 w1 w2 w3).stamp = w1 from rfl, timely,
    show (parseMeas w0 w1 w2 w3).seq = w0.extractLsb' 8 8 from rfl, ordered,
    show (parseMeas w0 w1 w2 w3).kind = some k from kind]
  rfl

theorem exec_measurement {b : Berth} {e : WindowEntry} {k : Nat} {s : State} (w0 w1 w2 w3 : Word)
    (h : s.MeterOpen b e k) : exec (.measurementRecord b k w0 w1 w2 w3) s =
      .next (passOn (writeItem .meter (e.base + 16 * k) [w0, w1, w2, w3]) (takeMeasurement b w0 w1 w2 w3 s)) := by
  obtain ⟨ok, window, takes, place⟩ := h
  exact measurementRecord_next s b e k w0 w1 w2 w3 ok window takes place

/-! ## The counters of identity and timestamp (R60) -/

/-- The first two counters of a berth's stream are as they were. -/
def State.KeepsChecks (b : Berth) (s t : State) : Prop :=
  (t.meas.get b).counters.badRecord = (s.meas.get b).counters.badRecord ∧
    (t.meas.get b).counters.timeBad = (s.meas.get b).counters.timeBad

theorem State.KeepsChecks.refl (b : Berth) (s : State) : s.KeepsChecks b s := ⟨rfl, rfl⟩

theorem State.KeepsChecks.trans {b : Berth} {s t u : State} (h : s.KeepsChecks b t) (k : t.KeepsChecks b u) :
    s.KeepsChecks b u := ⟨k.1.trans h.1, k.2.trans h.2⟩

theorem keepsChecks_of_meas {b : Berth} {s t : State} (h : t.meas = s.meas) : s.KeepsChecks b t := by
  unfold State.KeepsChecks
  rw [h]
  exact ⟨rfl, rfl⟩

theorem updMeas_keepsChecks (b : Berth) (f : Meas → Meas) (s : State)
    (bad : ∀ m, (f m).counters.badRecord = m.counters.badRecord) (time : ∀ m, (f m).counters.timeBad = m.counters.timeBad) :
    s.KeepsChecks b (s.updMeas b f) := by
  unfold State.KeepsChecks
  rw [State.updMeas_self]
  exact ⟨bad _, time _⟩

theorem noteGap_keepsChecks (b : Berth) (s : State) : s.KeepsChecks b (noteGap b s) := keepsChecks_of_meas rfl

theorem applySeq_keepsChecks {b : Berth} {q : BitVec 8} {s t : State} (h : applySeq b q s = some t) :
    s.KeepsChecks b t := by
  have moved : s.KeepsChecks b (moveExpected b q s) :=
    updMeas_keepsChecks b (fun m => { m with baselineSet := true, expected := q + 1 }) s (fun _ => rfl) fun _ => rfl
  unfold applySeq at h
  split at h
  · cases h; exact moved
  · cases h; exact moved
  next d _ =>
    cases h
    exact (moved.trans (updMeas_keepsChecks b
      (fun m => { m with counters := { m.counters with gap := sat16 (m.counters.gap + d) } }) _ (fun _ => rfl)
      fun _ => rfl)).trans (noteGap_keepsChecks b _)
  · cases h

theorem compareReading_meas (b : Berth) (base : RegisterBase) (f : Feeder) (s : State) :
    (compareReading b base f s).meas = s.meas := by
  unfold compareReading
  split
  · rfl
  · exact emitEvent_meas ..

theorem takeReading_keepsChecks (b : Berth) (f : Feeder) (s : State) : s.KeepsChecks b (takeReading b f s) := by
  unfold takeReading
  dsimp only
  refine State.KeepsChecks.trans ?_ (updMeas_keepsChecks b _ _ (fun _ => rfl) fun _ => rfl)
  split
  · exact .refl b s
  · exact keepsChecks_of_meas (compareReading_meas ..)

theorem takeValues_keepsChecks (b : Berth) (k : SlotKind) (r : MeasRecord) (s : State) :
    s.KeepsChecks b (takeValues b k r s) := by
  have implausible : s.KeepsChecks b (countFailure b (fun c => { c with implausible := sat16 (c.implausible + 1) }) s) :=
    updMeas_keepsChecks b (fun m => { m with counters := { m.counters with implausible := sat16 (m.counters.implausible + 1) } })
      s (fun _ => rfl) fun _ => rfl
  have updated (f : Meas → Meas) (same : ∀ m, (f m).counters = m.counters) (u : State) : u.KeepsChecks b (u.updMeas b f) :=
    updMeas_keepsChecks b f u (fun m => by rw [same]) fun m => by rw [same]
  unfold takeValues
  split
  · split
    · exact (updated (fun m => { m with ship := m.ship.refresh (s.stalenessUs b) (some r.phasor) }) (fun _ => rfl) s).trans
        (keepsChecks_of_meas (evaluate_meas b _))
    · exact implausible
  · split
    · exact (updated (fun m => { m with shore := m.shore.refresh (s.stalenessUs b) (some r.phasor) }) (fun _ => rfl) s).trans
        (keepsChecks_of_meas ((evaluate_meas b _).trans (checkEnergising_meas b _)))
    · exact implausible
  · split
    · unfold acceptFeeder
      dsimp only
      exact ((updated (fun m => { m with feeder := m.feeder.refresh (s.stalenessUs b) (some r.feeder) }) (fun _ => rfl) s).trans
        (takeReading_keepsChecks b r.feeder _)).trans
        (keepsChecks_of_meas ((compareRelease_meas b _ _).trans (feederAccepted_meas b _)))
    · unfold acceptFeederFault
      dsimp only
      have counted : s.KeepsChecks b (countFailure b (fun c => { c with meterStatus := sat16 (c.meterStatus + 1) }) s) :=
        updMeas_keepsChecks b
          (fun m => { m with counters := { m.counters with meterStatus := sat16 (m.counters.meterStatus + 1) } }) s
          (fun _ => rfl) fun _ => rfl
      have fresh := counted.trans (updated (fun m => { m with feeder := m.feeder.refresh (s.stalenessUs b) none })
        (fun _ => rfl) _)
      split
      · exact fresh
      · exact fresh.trans (keepsChecks_of_meas (feederAccepted_meas b _))

theorem takeMeasurement_keepsChecks {b : Berth} {w0 w1 w2 w3 : Word} {s : State}
    (h : identityOk b (parseMeas w0 w1 w2 w3) = true) (timely : timeOk s.now w1 (s.stalenessUs b) = true) :
    s.KeepsChecks b (takeMeasurement b w0 w1 w2 w3 s) := by
  cases ordered : applySeq b (w0.extractLsb' 8 8) s with
  | none =>
    rw [takeMeasurement_discarded h timely ordered]
    exact updMeas_keepsChecks b _ s (fun _ => rfl) fun _ => rfl
  | some u =>
    have kinds := (slotKind_isSome (field_lt w0 0 2)).mpr ((identityOk_iff b w0 w1 w2 w3).mp h).2.2
    obtain ⟨k, kind⟩ := Option.isSome_iff_exists.mp kinds
    rw [takeMeasurement_taken h timely ordered kind]
    exact (applySeq_keepsChecks ordered).trans (takeValues_keepsChecks b k _ u)

/-- Settles O23. -/
theorem recordIdentityAndTimestampChecked : Obligations.RecordIdentityAndTimestampChecked := by
  intro b e k w0 w1 w2 w3 s opened
  have identity := identityOk_iff b w0 w1 w2 w3
  rw [exec_measurement w0 w1 w2 w3 opened]
  refine ⟨fun bad => ?_, fun sum berth kind => ⟨fun late => ?_, fun near => ?_⟩⟩
  · have failed : identityOk b (parseMeas w0 w1 w2 w3) = false := by
      rw [Bool.eq_false_iff, Ne, identity]
      rintro ⟨sum, berth, kind⟩
      rcases bad with bad | bad | bad
      · exact bad sum
      · exact bad berth
      · exact kind bad
    rw [takeMeasurement_bad s failed]
  · have untimely : timeOk s.now w1 (s.stalenessUs b) = false := by
      rw [Bool.eq_false_iff, Ne, timeOk_iff]
      exact Nat.not_le.mpr late
    rw [takeMeasurement_untimely (identity.mpr ⟨sum, berth, kind⟩) untimely]
  · have kept := takeMeasurement_keepsChecks (identity.mpr ⟨sum, berth, kind⟩) ((timeOk_iff _ _ _).mpr near)
    exact ⟨_, rfl, kept.1, kept.2⟩

/-! ## The sequence check (R63) -/

theorem applySeq_baseline {b : Berth} {s : State} (q : BitVec 8) (h : (s.meas.get b).baselineSet = false) :
    applySeq b q s = some (moveExpected b q s) := by
  have check : (s.meas.get b).seqCheck q = .baseline := by
    unfold Meas.seqCheck
    rw [h]
    rfl
  unfold applySeq
  rw [check]

theorem seqCheck_set {m : Meas} (q : BitVec 8) (h : m.baselineSet = true) : m.seqCheck q =
    if (q - m.expected).toNat = 0 then .inOrder
    else if (q - m.expected).toNat ≤ 127 then .gap (q - m.expected).toNat else .late := by
  unfold Meas.seqCheck
  rw [h]
  rfl

theorem applySeq_inOrder {b : Berth} {s : State} {q : BitVec 8} (h : (s.meas.get b).baselineSet = true)
    (next : (q - (s.meas.get b).expected).toNat = 0) : applySeq b q s = some (moveExpected b q s) := by
  unfold applySeq
  rw [seqCheck_set q h, if_pos next]

theorem applySeq_gap {b : Berth} {s : State} {q : BitVec 8} (h : (s.meas.get b).baselineSet = true)
    (ahead : (q - (s.meas.get b).expected).toNat ≠ 0) (near : (q - (s.meas.get b).expected).toNat ≤ 127) :
    applySeq b q s = some (noteGap b (countFailure b
      (fun c => { c with gap := sat16 (c.gap + (q - (s.meas.get b).expected).toNat) }) (moveExpected b q s))) := by
  unfold applySeq
  rw [seqCheck_set q h, if_neg ahead, if_pos near]

theorem applySeq_late {b : Berth} {s : State} {q : BitVec 8} (h : (s.meas.get b).baselineSet = true)
    (late : 128 ≤ (q - (s.meas.get b).expected).toNat) : applySeq b q s = none := by
  unfold applySeq
  rw [seqCheck_set q h, if_neg (by omega), if_neg (by omega)]

/-- Settles O24. -/
theorem recordSequenceChecked : Obligations.RecordSequenceChecked := by
  refine ⟨fun b w0 w1 w2 w3 now us => ⟨identityOk_iff b w0 w1 w2 w3, timeOk_iff now w1 us⟩, stalenessUs_eq,
    fun b q s => ⟨applySeq_baseline q, fun set => ⟨applySeq_inOrder set, fun ahead near => ?_, applySeq_late set⟩,
      fun e k w0 w1 w2 w3 opened seq identity timely late => ?_⟩⟩
  · have taken := applySeq_gap (q := q) set (by omega) near
    refine ⟨_, taken, applySeq_only b q taken, ?_, ?_⟩
    · unfold noteGap countFailure moveExpected State.updSession State.setSession
      dsimp only
      rw [State.updMeas_self, State.updMeas_self]
      rfl
    · unfold noteGap State.updSession State.setSession
      rw [PerBerth.get_set_self]
      rfl
  · rw [seq] at late
    rw [exec_measurement w0 w1 w2 w3 opened, takeMeasurement_discarded identity timely late]

end Sys2Proof.Machine
end

section
/-! Proofs: what an oscillator does with a ship phasor, and where its slot goes stale (R48 to R54). -/

namespace Sys2Proof.Machine

namespace Osc

/-- R53: the effective mode after the end of a HOLD, where it ends. -/
def prior (o : Osc) : OscMode :=
  if o.effective = .hold ∧ (o.requested = .trackSlip ∨ o.requested = .trackLock) then o.beforeHold.getD .hold
  else o.effective

theorem isTracking_iff (m : OscMode) : m.isTracking = true ↔ m = .trackSlip ∨ m = .trackLock := by cases m <;> decide

/-- R53: a HOLD under a tracking mode ends in the mode before it, which is not HOLD. -/
theorem endHold_eq {o : Osc} (ok : o.Ok) : o.endHold true =
    { o with effective := o.prior, beforeHold := if o.prior = .hold then o.beforeHold else none } := by
  obtain ⟨-, kept, notHold, -⟩ := ok
  by_cases ends : o.effective = .hold ∧ (o.requested = .trackSlip ∨ o.requested = .trackLock)
  · obtain ⟨m, before⟩ := Option.isSome_iff_exists.mp (kept.mpr ends.1)
    have other : m ≠ .hold := fun same => notHold (by rw [before, same])
    have mode : o.prior = m := by
      unfold prior
      rw [if_pos ends, before]
      rfl
    have tracks := (isTracking_iff _).mpr ends.2
    unfold endHold
    rw [if_pos ⟨ends.1, tracks, rfl⟩, mode, if_neg other, before]
  · have mode : o.prior = o.effective := if_neg ends
    have stays : o.endHold true = o := if_neg fun h => ends ⟨h.1, (isTracking_iff _).mp h.2.1⟩
    rw [stays, mode]
    split
    · rfl
    next not =>
      have none : o.beforeHold = none := by
        rw [← Option.not_isSome_iff_eq_none, kept]
        exact not
      rw [← none]

theorem governing_fresh (o : Osc) : o.governing true = o.requested := by
  unfold governing
  rw [Bool.not_true, Bool.and_false]
  rfl

/-- R50, R54: what the switch and the lock flag make of a phase error, where no switch is open but to the mode asked for. -/
structure Judged (d : Int) (o x : Osc) : Prop where
  rest : x = { o with effective := x.effective, beforeHold := x.beforeHold, lock := x.lock }
  effective : x.effective = if o.requested = .trackLock ∧ o.effective ≠ .hold ∧ d.natAbs ≤ 364 ∨
    o.requested ≠ .trackLock ∧ o.distance ≤ 10000000 then o.requested else o.effective
  beforeHold : x.beforeHold = if x.effective = .hold then o.beforeHold else none
  lock : x.lock = true ↔ x.effective = .trackLock ∧ d.natAbs ≤ if o.lock = true then 910 else 364

theorem judgeLock_other {o : Osc} (d : Int) (h : o.effective ≠ .trackLock) : o.judgeLock d = o := if_neg h

theorem judgeLock_locked {o : Osc} (d : Int) (h : o.effective = .trackLock) : o.judgeLock d =
    { o with lock := if o.lock then decide (d.natAbs ≤ 910) else decide (d.natAbs ≤ 364) } := if_pos h

theorem settleLock_other {o : Osc} (d : Int)
    (h : ¬(o.requested = .trackLock ∧ o.effective ≠ .trackLock ∧ o.effective ≠ .hold ∧ d.natAbs ≤ 364)) :
    o.settleLock d = o := if_neg h

theorem settles_fresh_iff {o : Osc} (run : o.running = true) : o.settles true = true ↔
    o.requested ≠ o.effective ∧ o.requested ≠ .trackLock ∧ o.distance ≤ 10000000 := by
  unfold settles
  rw [governing_fresh, run]
  simp only [Bool.true_and, beq_self_eq_true, Bool.and_true, Bool.and_eq_true, bne_iff_ne, decide_eq_true_eq, ne_eq,
    and_assoc]
  rfl

/-- The lock flag at an effective mode that stays. -/
theorem judged_of_stays {d : Int} {o : Osc} (kept : o.beforeHold.isSome = true ↔ o.effective = .hold)
    (locked : o.lock = true → o.effective = .trackLock)
    (stays : (if o.requested = .trackLock ∧ o.effective ≠ .hold ∧ d.natAbs ≤ 364 ∨
      o.requested ≠ .trackLock ∧ o.distance ≤ 10000000 then o.requested else o.effective) = o.effective) :
    Judged d o (o.judgeLock d) := by
  have before : o.beforeHold = if o.effective = .hold then o.beforeHold else none := by
    split
    · rfl
    next not => exact Option.not_isSome_iff_eq_none.mp fun some => not (kept.mp some)
  by_cases lock : o.effective = .trackLock
  · rw [judgeLock_locked d lock]
    refine ⟨rfl, stays.symm, before, ?_⟩
    dsimp only
    rw [and_iff_right lock]
    split <;> exact decide_eq_true_iff
  · rw [judgeLock_other d lock]
    exact ⟨rfl, stays.symm, before, iff_of_false (fun on => lock (locked on)) fun h => lock h.1⟩

theorem judged {d : Int} {o : Osc} (run : o.running = true) (asked : o.requested ≠ .hold)
    (kept : o.beforeHold.isSome = true ↔ o.effective = .hold) (locked : o.lock = true → o.effective = .trackLock) :
    Judged d o (((o.settle true).settleLock d).judgeLock d) := by
  by_cases settles : o.settles true = true
  · obtain ⟨other, notLock, near⟩ := (settles_fresh_iff run).mp settles
    have done : o.settle true = { o with effective := o.requested, beforeHold := none, lock := false } := if_pos settles
    have unlocked : ({ o with effective := o.requested, beforeHold := none, lock := false } : Osc).settleLock d =
        { o with effective := o.requested, beforeHold := none, lock := false } := settleLock_other d fun h => notLock h.1
    rw [done, unlocked, judgeLock_other d notLock]
    refine ⟨rfl, (if_pos (.inr ⟨notLock, near⟩)).symm, ?_, iff_of_false nofun fun h => notLock h.1⟩
    exact (if_neg asked).symm
  · have same : o.settle true = o := if_neg settles
    rw [same]
    by_cases locks : o.requested = .trackLock ∧ o.effective ≠ .trackLock ∧ o.effective ≠ .hold ∧ d.natAbs ≤ 364
    · obtain ⟨asks, unlocked, notHold, near⟩ := locks
      have done : o.settleLock d = { o with effective := .trackLock, lock := true } := if_pos ⟨asks, unlocked, notHold, near⟩
      have wide : d.natAbs ≤ 910 := by omega
      have none : o.beforeHold = none := Option.not_isSome_iff_eq_none.mp fun some => notHold (kept.mp some)
      rw [done, judgeLock_locked d rfl]
      refine ⟨rfl, ?_, none, ?_⟩
      · have first : o.requested = .trackLock ∧ o.effective ≠ .hold ∧ d.natAbs ≤ 364 ∨
            o.requested ≠ .trackLock ∧ o.distance ≤ 10000000 := .inl ⟨asks, notHold, near⟩
        rw [if_pos first]
        exact asks.symm
      · refine iff_of_true (decide_eq_true wide) ⟨rfl, ?_⟩
        split <;> omega
    · rw [settleLock_other d locks]
      refine judged_of_stays kept locked ?_
      split
      next moves =>
        rcases moves with ⟨asks, notHold, near⟩ | ⟨notLock, near⟩
        · by_contra other
          exact locks ⟨asks, fun same => other (asks.trans same.symm), notHold, near⟩
        · by_contra other
          exact settles ((settles_fresh_iff run).mpr ⟨other, notLock, near⟩)
      next => rfl

end Osc

/-- R47: the target of the mode asked for, at a fresh ship phasor. -/
theorem targetOf_fresh {o : Osc} {e : OscEnv} {p : Phasor} {d target : Int} (asked : o.requested ≠ .hold)
    (ship : e.ship = some p) (error : o.lastError = some d)
    (fixed : o.requested = .nominal ∨ o.requested = .island → target = e.nominal)
    (slip : o.requested = .trackSlip → target = (p.freq : Int) + e.slip)
    (lock : o.requested = .trackLock → target = (p.freq : Int) - max (-100) (min 100 (Int.tdiv (d * 720) 65536))) :
    o.targetOf e o.requested = (max 45000 (min 65000 target)).toNat * 1000000 := by
  cases mode : o.requested with
  | nominal => rw [fixed (.inl mode)]; rfl
  | island => rw [fixed (.inr mode)]; rfl
  | trackSlip =>
    unfold Osc.targetOf
    rw [ship, slip mode]
    rfl
  | trackLock =>
    unfold Osc.targetOf
    rw [ship, error, lock mode]
    rfl
  | hold => exact absurd mode asked

/-- R48 to R50, R53, R54: an accepted ship phasor. -/
theorem takePhasor_spec {o : Osc} {e : OscEnv} {p : Phasor} {d target : Int} (ok : o.Ok) (run : o.running = true)
    (ship : e.ship = some p) (error : d = o.phaseError p e.now)
    (fixed : o.requested = .nominal ∨ o.requested = .island → target = e.nominal)
    (slip : o.requested = .trackSlip → target = (p.freq : Int) + e.slip)
    (lock : o.requested = .trackLock → target = (p.freq : Int) - max (-100) (min 100 (Int.tdiv (d * 720) 65536))) :
    ∃ y : Osc, y = { o with
        lastError := some d, effective := o.prior, beforeHold := if o.prior = .hold then o.beforeHold else none
        target := (max 45000 (min 65000 target)).toNat * 1000000
        gliding := o.freq != (max 45000 (min 65000 target)).toNat * 1000000 } ∧
      Osc.Judged d y (o.takePhasor e p) := by
  let error' : Osc := { o with lastError := some d }
  have ok' : error'.Ok := ok.congr rfl rfl rfl rfl
  have ended : error'.endHold true = { o with
      lastError := some d, effective := o.prior, beforeHold := if o.prior = .hold then o.beforeHold else none } :=
    Osc.endHold_eq ok'
  obtain ⟨asked, kept, notHold, locked⟩ := (ok'.endHold true)
  have target' := targetOf_fresh (o := error'.endHold true) asked ship (by rw [ended])
    (by rw [ended]; exact fixed) (by rw [ended]; exact slip) (by rw [ended]; exact lock)
  have taken : o.takePhasor e p =
      (((((error'.endHold true).retarget e).settle true).settleLock d).judgeLock d) := by
    unfold Osc.takePhasor
    rw [if_neg (by rw [run]; nofun), ← error]
  refine ⟨(error'.endHold true).retarget e, ?_, ?_⟩
  · unfold Osc.retarget
    rw [ship, Option.isSome_some, Osc.governing_fresh, target', ended]
  · rw [taken]
    exact Osc.judged (by rw [ended]; exact run) asked kept locked

end Sys2Proof.Machine
end

section
/-! Proofs: a berth that becomes ENERGISED, and a feeder record's judgement (R104, R115 to R117). -/

namespace Sys2Proof.Machine

/-! ## Becoming ENERGISED (R104) -/

theorem moduleMask_congr {s t : State} (b : Berth) (h : ∀ m, (t.mods.get m).standing = (s.mods.get m).standing) :
    t.moduleMask b = s.moduleMask b := by
  have serves (m : ModuleId) : (t.mods.get m).serves b = (s.mods.get m).serves b := by
    unfold Module.serves
    rw [h m]
  unfold State.moduleMask
  simp only [serves]

/-- A berth stands in a state still after the mark of its first ENERGISED is set. -/
theorem State.Stands.marked {b : Berth} {new : BerthState} {s t t' : State} (h : s.Stands b new t)
    (inputs : t.SameInputs t') (mark : ∃ f, t'.seq.get b = { t.seq.get b with firstEnergised := f })
    (osc : t'.osc = t.osc) (mods : t'.mods = t.mods) : s.Stands b new t' := by
  obtain ⟨f, e⟩ := mark
  have nominal : t'.nominalFreq b = t.nominalFreq b := by unfold State.nominalFreq; rw [e]
  have env : t'.oscEnv b = t.oscEnv b := by
    unfold State.oscEnv State.shipFresh
    rw [nominal, inputs.meas, inputs.params, inputs.now]
  have healthy : t'.healthy b = t.healthy b := by unfold State.healthy State.sumRatings; rw [mods]
  have loads (x : Timer) : t'.overloadAfter b x = t.overloadAfter b x := by
    unfold State.overloadAfter State.overloaded State.feederPower State.feederFresh
    rw [healthy, inputs.meas, inputs.prot]
  have back (x : Timer) : t'.reverseAfter b x = t.reverseAfter b x := by
    unfold State.reverseAfter State.reversed State.feederPower State.feederFresh
    rw [inputs.meas, inputs.prot]
  exact
    { state := by rw [e]; exact h.state
      entry := by rw [e]; exact h.entry
      volt := by rw [e]; exact h.volt
      setpoint := by rw [e]; exact h.setpoint
      level := by rw [e]; exact h.level
      direction := by rw [e]; exact h.direction
      staleHold := by rw [e]; exact h.staleHold
      lostHold := by rw [e]; exact h.lostHold
      energise := by rw [e]; exact h.energise
      syncT := by rw [e]; exact h.syncT
      parallel := by rw [e]; exact h.parallel
      overload := by rw [e, loads]; exact h.overload
      reverse := by rw [e, back]; exact h.reverse
      osc := by rw [osc, nominal, env]; exact h.osc
      mode := by rw [osc]; exact h.mode
      modules := by rw [mods]; exact h.modules
      blanking := fun ok m before after => by
        rw [mods] at after
        have blanked := h.blanking ok m before after
        unfold State.Blanked at blanked ⊢
        rw [mods, e]
        exact blanked }

theorem completeCurrent_stands {b : Berth} {new : BerthState} {s t : State} (o : ReqOutcome) (c : Option Cause)
    (h : s.Stands b new t) : s.Stands b new (completeCurrent b o c t) := stands_complete b new o c s t h

/-- R133: the SESSION_OPEN of a first ENERGISED. -/
def openRecord (b : Berth) (p : ShipProfile) (s : State) : Record :=
  { berth := some b, session := nextSessionNumber s.sessionCounter, time := s.clock.time
    body := .sessionOpen
      [p.shipCode, fields [put 0 16 p.callNumber.toNat, put 16 2 p.reserve], put 0 32 p.demand,
        put 0 32 p.nominalFreq, put 0 32 p.nominalVolt, s.clock.time.day, put 0 32 s.clock.time.second,
        fields [put 0 2 s.band, put 8 8 s.clock.inForce.intervalMin]] }

/-- R133: the session that a first ENERGISED opens. -/
def openedSession (p : ShipProfile) (s : State) : Session :=
  { number := nextSessionNumber s.sessionCounter, shipCode := p.shipCode, callNumber := p.callNumber
    demand := p.demand, opened := s.clock.time, totals := Energies.zero, peak := 0, intervals := 0
    interruptions := 0, parallels := 0, gaps := 0, trips := 0
    acc := { start := s.clock.time, energy := Energies.zero, gap := false, timeStep := false, metrology := false } }

/-- R104: CONNECTED, told where SESSION_OPEN has been produced and the sessions are `xs`. -/
def tellConnected (b : Berth) (p : ShipProfile) (xs : PerBerth (Option Session)) (s : State) : State :=
  emitEvent .connected 0 (some b) [p.shipCode, put 0 16 p.callNumber.toNat, s.moduleMask b]
    { admitBilling b (openRecord b p s) s with sessions := xs }

theorem tellConnected_jour {b : Berth} {p : ShipProfile} {s t : State} (xs : PerBerth (Option Session))
    (jour : t.jour = s.jour) (clock : t.clock = s.clock) (counter : t.sessionCounter = s.sessionCounter)
    (mask : t.moduleMask b = s.moduleMask b) : (tellConnected b p xs t).jour = (tellConnected b p xs s).jour := by
  have record : openRecord b p t = openRecord b p s := by
    unfold openRecord State.band
    rw [clock, counter]
  unfold tellConnected
  rw [record, mask]
  have same : ({ admitBilling b (openRecord b p s) s with sessions := xs } : State).Quiet
      { admitBilling b (openRecord b p s) t with sessions := xs } := by
    refine quiet_of (admitBilling_jour jour b _) ?_ rfl
    rw [admitBilling_onlyQueue b _ s, admitBilling_onlyQueue b _ t]
    exact clock
  exact emitEvent_jour same _ _ _ _

/-- The state of a first ENERGISED, before its request completes: the session is open and CONNECTED is told. -/
theorem firstEnergised_spec {b : Berth} {s : State} {p : ShipProfile} (h : (s.seq.get b).profile = some p) :
    ∃ l n z, firstEnergised b s =
      { s with
        seq := s.seq.set b { s.seq.get b with firstEnergised := true }
        sessions := s.sessions.set b (some (openedSession p s))
        sessionCounter := nextSessionNumber s.sessionCounter, jour := { s.jour with queue := l, lost := n }
        page := { s.page with summary := z } } ∧
      (firstEnergised b s).jour = (tellConnected b p (s.sessions.set b (some (openedSession p s))) s).jour := by
  let r := openRecord b p s
  let u : State :=
    { s with
      seq := s.seq.set b { s.seq.get b with firstEnergised := true }
      sessions := s.sessions.set b (some (openedSession p s)), sessionCounter := nextSessionNumber s.sessionCounter }
  have opened : firstEnergised b s = emitEvent .connected 0 (some b)
      [p.shipCode, put 0 16 p.callNumber.toNat, (admitBilling b r u).moduleMask b] (admitBilling b r u) := by
    unfold firstEnergised
    rw [h]
    rfl
  have billed := admitBilling_onlyQueue b r u
  have mask : (admitBilling b r u).moduleMask b = s.moduleMask b := by rw [billed]; rfl
  have same : ({ admitBilling b r s with sessions := u.sessions } : State).Quiet (admitBilling b r u) := by
    refine quiet_of (admitBilling_jour (s := s) (t := u) rfl b r) ?_ ?_
    · rw [billed]
      exact (congrArg State.clock (admitBilling_onlyQueue b r s)).symm
    · rw [billed]
      rfl
  obtain ⟨l, n, z, e⟩ := emitEvent_rest .connected 0 (some b)
    [p.shipCode, put 0 16 p.callNumber.toNat, (admitBilling b r u).moduleMask b] (admitBilling b r u)
  refine ⟨l, n, z, ?_, ?_⟩
  · rw [opened, e, billed]
    rfl
  · rw [opened, mask]
    exact emitEvent_jour same _ _ _ _

theorem Seq.Completes.congr {q r x : Seq} {o : ReqOutcome} {c : Option Cause} (h : r.Completes o c x)
    (current : r.current = q.current) (last : r.last = q.last) (count : r.count = q.count) : q.Completes o c x := by
  unfold Seq.Completes at h ⊢
  rw [current, last, count] at h
  exact h

/-- The state in which the request of a berth that becomes ENERGISED completes. -/
def energisedMid (b : Berth) (s : State) : State :=
  if ((enterState b .energised s).seq.get b).firstEnergised then enterState b .energised s
  else firstEnergised b (enterState b .energised s)

theorem becomeEnergised_eq (b : Berth) (s : State) :
    becomeEnergised b s = completeCurrent b .done none (energisedMid b s) := rfl

theorem energisedMid_cases (b : Berth) (s : State) : energisedMid b s = enterState b .energised s ∨
    ∃ p, ((enterState b .energised s).seq.get b).profile = some p ∧
      energisedMid b s = firstEnergised b (enterState b .energised s) := by
  unfold energisedMid
  split
  · exact .inl rfl
  · rcases Option.eq_none_or_eq_some ((enterState b .energised s).seq.get b).profile with none | ⟨p, some⟩
    · refine .inl ?_
      unfold firstEnergised
      rw [none]
    · exact .inr ⟨p, some, rfl⟩

theorem energisedMid_stands (b : Berth) (s : State) : s.Stands b .energised (energisedMid b s) := by
  have stands := enterState_stands b .energised s
  rcases energisedMid_cases b s with e | ⟨p, profile, e⟩ <;> rw [e]
  · exact stands
  · obtain ⟨l, n, z, first, -⟩ := firstEnergised_spec profile
    rw [first]
    exact stands.marked ⟨rfl, rfl, rfl, rfl⟩ ⟨true, PerBerth.get_set_self ..⟩ rfl rfl

theorem energisedMid_completes (b : Berth) (s : State) (o : ReqOutcome) (c : Option Cause) :
    (s.seq.get b).Completes o c ((completeCurrent b o c (energisedMid b s)).seq.get b) := by
  have entered : (enterState b .energised s).seq.get b = enteredSeq b .energised s := by
    rw [enterState_seq, PerBerth.get_set_self]
  rcases energisedMid_cases b s with e | ⟨p, profile, e⟩ <;> rw [e]
  · exact entered_completes entered
  · obtain ⟨l, n, z, first, -⟩ := firstEnergised_spec profile
    have seq : (firstEnergised b (enterState b .energised s)).seq.get b =
        { enteredSeq b .energised s with firstEnergised := true } := by
      rw [first, ← entered]
      exact PerBerth.get_set_self ..
    have done := (completeCurrent_seq b o c (firstEnergised b (enterState b .energised s))).1
    exact done.congr (by rw [seq]; exact enteredSeq_current b .energised s) (by rw [seq]; exact enteredSeq_last b .energised s)
      (by rw [seq]; exact enteredSeq_count b .energised s)

/-- R104, R135: a berth in ENERGISING becomes ENERGISED. -/
theorem becomeEnergised_becomes {b : Berth} {s : State} (h : (s.seq.get b).state = .energising) :
    s.BecomesEnergised b (becomeEnergised b s) := by
  have sessions : (enterState b .energised s).sessions = s.sessions := by
    rw [enterState_sessions, enteredSessions_other b .energised s (by rw [h]; nofun)]
  have entered : (enterState b .energised s).seq.get b = enteredSeq b .energised s := by
    rw [enterState_seq, PerBerth.get_set_self]
  have quiet := enterState_quiet b .energised s
  rw [becomeEnergised_eq]
  refine ⟨becomeEnergised_same b s, completeCurrent_stands _ _ (energisedMid_stands b s), energisedMid_completes b s _ _,
    fun later => ?_, fun p first profile => ?_⟩
  · have mid : energisedMid b s = enterState b .energised s := by
      unfold energisedMid
      rw [entered, enteredSeq_firstEnergised, later]
      rfl
    rw [mid]
    exact ⟨(enterState_only b .energised s).trans (completeCurrent_only b _ _ _),
      (completeCurrent_sessions b _ _ _).trans sessions, (completeCurrent_quiet b _ _ _).jour.trans quiet.jour⟩
  · have mid : energisedMid b s = firstEnergised b (enterState b .energised s) := by
      unfold energisedMid
      rw [entered, enteredSeq_firstEnergised, first]
      rfl
    obtain ⟨l, n, z, made, jour⟩ :=
      firstEnergised_spec (b := b) (s := enterState b .energised s) (p := p) (by rw [entered]; exact profile)
    rw [← mid] at made jour
    have only := enterState_only b .energised s
    have clock := only.clock
    have counter := only.counter
    have session : openedSession p (enterState b .energised s) = openedSession p s := by
      unfold openedSession
      rw [clock, counter]
    have ended : (completeCurrent b .done none (energisedMid b s)).sessions =
        s.sessions.set b (some (openedSession p s)) := by
      rw [completeCurrent_sessions, made, ← session, ← sessions]
    refine ⟨?_, ?_, ?_, ?_⟩
    · obtain ⟨_, _, last⟩ := (completeCurrent_seq b .done none (energisedMid b s)).2
      rw [last, made]
      dsimp only
      rw [PerBerth.get_set_self]
    · rw [(completeCurrent_only b .done none (energisedMid b s)).counter, made, ← counter]
    · rw [(completeCurrent_quiet b _ _ _).jour, jour, ended, session, sessions]
      exact tellConnected_jour _ quiet.jour clock counter
        (moduleMask_congr b fun m => (enterState_mode b .energised s m).1)
    · rw [ended, PerBerth.get_set_self]
      rfl

end Sys2Proof.Machine
end

section
/-! Proofs: a measurement record that is taken (O25). -/

namespace Sys2Proof.Machine

/-! ## A feeder record's judgement (R115 to R117) -/

theorem wantDir_congr {q x : Seq} (state : x.state = q.state) (setpoint : x.setpoint = q.setpoint)
    (target : x.target = q.target) (stale : x.staleHold = q.staleHold) (lost : x.lostHold = q.lostHold) :
    x.wantDir = q.wantDir := by
  unfold Seq.wantDir
  rw [state, setpoint, target, stale, lost]

theorem refreshDirection_mods (b : Berth) (s : State) (m : ModuleId) : (refreshDirection b s).mods.get m =
    { s.mods.get m with blankExpiry := ((refreshDirection b s).mods.get m).blankExpiry } := by
  by_cases serves : (s.mods.get m).serves b = true
  · rw [refreshDirection_get b s m serves]
  · obtain ⟨ms, driven, e⟩ := refreshDirection_spec b s
    rw [e]
    exact (driven.2 m (Bool.eq_false_iff.mpr serves)).symm ▸ rfl

/-- R29: a change of the ramp's direction is a blanking event of the berth's modules, and nothing else is. -/
theorem refreshDirection_blanks (b : Berth) {s u : State} (mods : u.mods = s.mods) (now : u.now = s.now)
    (prot : u.prot = s.prot) (dir : (u.seq.get b).dir = (s.seq.get b).dir) {t : State}
    (same : t.mods = (refreshDirection b u).mods) (turned : (t.seq.get b).dir = (u.seq.get b).wantDir) :
    s.BlanksModules b t := by
  intro m serves _
  have at_ := refreshDirection_get b u m (by rw [mods]; exact serves)
  unfold State.Blanked
  rw [same, at_, mods, now, prot, turned, dir]
  dsimp only
  refine if_congr ⟨fun turn => .inr (.inr turn), fun h => ?_⟩ rfl rfl
  rcases h with mode | step | turn
  · exact absurd rfl mode
  · rw [Int.sub_self] at step
    exact absurd step (Nat.not_lt_zero _)
  · exact turn

theorem feederAccepted_judged (b : Berth) (s : State) : s.FeederJudged b (feederAccepted b s) := by
  let u := s.updSeq b fun q => { q with staleHold := false }
  obtain ⟨ms, driven, e⟩ := refreshDirection_spec b u
  have own : u.seq.get b = { s.seq.get b with staleHold := false } := State.updSeq_self ..
  have seq : (feederAccepted b s).seq.get b =
      ((u.seq.get b).directed).judged ((refreshDirection b u).overloaded b) ((refreshDirection b u).reversed b)
        ((refreshDirection b u).feederFresh b) ((refreshDirection b u).prot.overloadMs * Config.msUs) := by
    unfold feederAccepted
    rw [judge_eq]
    dsimp only
    rw [PerBerth.get_set_self, e]
    dsimp only
    rw [PerBerth.get_set_self]
  have turned : ((feederAccepted b s).seq.get b).dir = (u.seq.get b).wantDir := by rw [seq]; rfl
  have want : ((feederAccepted b s).seq.get b).wantDir = (u.seq.get b).wantDir := by rw [seq]; rfl
  refine ⟨?_, ?_, ?_, ?_, fun m => ?_⟩
  · rw [want, own]
    rw [seq, own]
    rfl
  · have kept := congrArg State.osc e
    exact kept
  · have kept := congrArg State.sync e
    exact kept
  · exact refreshDirection_blanks b (s := s) (u := u) rfl rfl rfl (by rw [own]) rfl turned
  · exact refreshDirection_mods b u m

/-- The judgement reads contexts, oscillators, units, modules, the time and PROTECTION only. -/
theorem State.FeederJudged.of {b : Berth} {s u t : State} (h : u.FeederJudged b t) (seq : u.seq = s.seq)
    (osc : u.osc = s.osc) (sync : u.sync = s.sync) (mods : u.mods = s.mods) (now : u.now = s.now)
    (prot : u.prot = s.prot) : s.FeederJudged b t := by
  unfold State.FeederJudged State.BlanksModules State.Blanked at h ⊢
  rw [seq, osc, sync, mods, now, prot] at h
  exact h

theorem feederAccepted_quiet (b : Berth) (s : State) : s.Quiet (feederAccepted b s) :=
  ((quiet_of rfl rfl rfl : s.Quiet (s.updSeq b fun q => { q with staleHold := false })).trans
    (refreshDirection_quiet b _)).trans (judge_quiet b _)

theorem feederAccepted_sessions (b : Berth) (s : State) : (feederAccepted b s).sessions = s.sessions := by
  obtain ⟨ms, -, e⟩ := refreshDirection_spec b (s.updSeq b fun q => { q with staleHold := false })
  show (refreshDirection b _).sessions = _
  rw [e]
  rfl

/-! ## The release comparison (R110) -/

theorem compareRelease_sessions (b : Berth) (power : Int) (s : State) :
    (compareRelease b power s).sessions = s.sessions := by
  unfold compareRelease
  split
  next out =>
    rw [controlledOpen_sessions, enteredSessions_other]
    · rfl
    · rw [State.updSeq_self, out.1]
      nofun
  next => rfl

theorem compareRelease_quiet (b : Berth) (power : Int) (s : State) : s.Quiet (compareRelease b power s) := by
  unfold compareRelease
  split
  · exact controlledOpen_quiet b _ s
  · exact .refl s

/-! ## The register (R68 to R70) -/

/-- What a reading changes: the measurement record, the open session, the holding queue and the event summary. -/
theorem compareReading_rest (b : Berth) (y : RegisterBase) (f : Feeder) (s : State) : ∃ xs l n z,
    compareReading b y f s = { s with
      sessions := xs, jour := { s.jour with queue := l, lost := n }, page := { s.page with summary := z } } := by
  unfold compareReading
  split
  · exact ⟨_, s.jour.queue, s.jour.lost, s.page.summary, rfl⟩
  · obtain ⟨l, n, z, e⟩ := emitEvent_rest .meterRestart 0 (some b)
      [put 0 8 y.epoch.toNat, y.value, put 0 8 f.epoch.toNat, f.register] s
    exact ⟨s.sessions, l, n, z, e⟩

/-- R68: the record of a berth after a reading. -/
def Meas.reading (f : Feeder) (us : Nat) (m : Meas) : Meas :=
  { m with base := some { value := f.register, epoch := f.epoch }, bridge := .running us, staleBetween := false }

theorem takeReading_none {b : Berth} {s : State} (f : Feeder) (h : (s.meas.get b).base = none) :
    takeReading b f s = s.updMeas b (Meas.reading f (s.clock.inForce.bridgeS * 1000000)) := by
  unfold takeReading
  rw [h]
  rfl

theorem takeReading_some {b : Berth} {s : State} {y : RegisterBase} (f : Feeder) (h : (s.meas.get b).base = some y) :
    takeReading b f s =
      (compareReading b y f s).updMeas b (Meas.reading f ((compareReading b y f s).clock.inForce.bridgeS * 1000000)) := by
  unfold takeReading
  rw [h]
  rfl

theorem takeReading_rest (b : Berth) (f : Feeder) (s : State) : ∃ xs l n z, takeReading b f s =
    { s with
      meas := s.meas.set b ((s.meas.get b).reading f (s.clock.inForce.bridgeS * 1000000))
      sessions := xs, jour := { s.jour with queue := l, lost := n }, page := { s.page with summary := z } } := by
  rcases Option.eq_none_or_eq_some (s.meas.get b).base with none | ⟨y, some⟩
  · rw [takeReading_none f none]
    exact ⟨s.sessions, s.jour.queue, s.jour.lost, s.page.summary, rfl⟩
  · obtain ⟨xs, l, n, z, e⟩ := compareReading_rest b y f s
    rw [takeReading_some f some, e]
    exact ⟨xs, l, n, z, rfl⟩

theorem bands_upd (e : PerBand (BitVec 64)) (n : Nat) (rise : BitVec 64) : e.upd n (· + rise) =
    ⟨if n = 0 then e.band0 + rise else e.band0, if n = 1 then e.band1 + rise else e.band1,
      if n = 2 then e.band2 + rise else e.band2, if 3 ≤ n then e.band3 + rise else e.band3⟩ := by
  rcases n with _ | _ | _ | n
  · rfl
  · rfl
  · rfl
  · have top : 3 ≤ n + 3 := Nat.le_add_left 3 n
    rw [if_neg (by omega), if_neg (by omega), if_neg (by omega), if_pos (by omega)]
    rfl

theorem accrue_eq (e : Energies) (wh : Word) (m : Meas) (n : Nat) (rise : BitVec 64) (h : rise = wh.setWidth 64) :
    e.accrue wh (m.assignment n) =
      if m.bridge.isRunning = true then
        { e with
          bands := ⟨if n = 0 then e.bands.band0 + rise else e.bands.band0,
            if n = 1 then e.bands.band1 + rise else e.bands.band1,
            if n = 2 then e.bands.band2 + rise else e.bands.band2,
            if 3 ≤ n then e.bands.band3 + rise else e.bands.band3⟩
          bridged := if m.staleBetween = true then e.bridged + rise else e.bridged }
      else { e with unattributed := e.unattributed + rise } := by
  unfold Meas.assignment
  rw [h]
  split
  · rw [← bands_upd]
    cases m.staleBetween <;> rfl
  · rfl

/-! ## A feeder record that is taken -/

/-- The state of an accepted feeder record before the release comparison. -/
def feederMid (b : Berth) (f : Feeder) (s : State) : State :=
  feederAccepted b (takeReading b f (s.updMeas b fun m =>
    { m with feeder := { fresh := .fresh, latest := some f, timer := .running ((s.params.get b).stalenessMs * 1000) } }))

theorem acceptFeeder_eq (b : Berth) (f : Feeder) (s : State) :
    acceptFeeder b f s = compareRelease b f.power (feederMid b f s) := rfl

theorem feederMid_only (b : Berth) (f : Feeder) (s : State) : s.OnlyBerth b (feederMid b f s) :=
  ((updMeas_only b _ s).trans (takeReading_only b f _)).trans (feederAccepted_only b _)

theorem feederMid_meas (b : Berth) (f : Feeder) (s : State) : (feederMid b f s).meas.get b = { s.meas.get b with
    feeder := { fresh := .fresh, latest := some f, timer := .running ((s.params.get b).stalenessMs * 1000) }
    base := some { value := f.register, epoch := f.epoch }
    bridge := .running (s.clock.inForce.bridgeS * 1000000), staleBetween := false } := by
  unfold feederMid
  obtain ⟨xs, l, n, z, e⟩ := takeReading_rest b f (s.updMeas b fun m =>
    { m with feeder := { fresh := .fresh, latest := some f, timer := .running ((s.params.get b).stalenessMs * 1000) } })
  rw [feederAccepted_meas, e]
  dsimp only
  rw [PerBerth.get_set_self, State.updMeas_self]
  rfl

theorem feederMid_judged (b : Berth) (f : Feeder) (s : State) : s.FeederJudged b (feederMid b f s) := by
  unfold feederMid
  obtain ⟨xs, l, n, z, e⟩ := takeReading_rest b f (s.updMeas b fun m =>
    { m with feeder := { fresh := .fresh, latest := some f, timer := .running ((s.params.get b).stalenessMs * 1000) } })
  exact (feederAccepted_judged b _).of (by rw [e]; rfl) (by rw [e]; rfl) (by rw [e]; rfl) (by rw [e]; rfl) (by rw [e]; rfl)
    (by rw [e]; rfl)

theorem acceptFeeder_sessions (b : Berth) (f : Feeder) (s : State) : (acceptFeeder b f s).sessions =
    (takeReading b f (s.updMeas b fun m => { m with
      feeder := { fresh := .fresh, latest := some f, timer := .running ((s.params.get b).stalenessMs * 1000) } })).sessions :=
  (compareRelease_sessions b _ _).trans (feederAccepted_sessions b _)

theorem acceptFeeder_jour (b : Berth) (f : Feeder) (s : State) : (acceptFeeder b f s).jour =
    (takeReading b f (s.updMeas b fun m => { m with
      feeder := { fresh := .fresh, latest := some f, timer := .running ((s.params.get b).stalenessMs * 1000) } })).jour :=
  (compareRelease_quiet b _ _).jour.trans (feederAccepted_quiet b _).jour

theorem acceptFeeder_first {b : Berth} {s : State} (f : Feeder) (h : (s.meas.get b).base = none) :
    (acceptFeeder b f s).sessions = s.sessions ∧ (acceptFeeder b f s).jour = s.jour := by
  rw [acceptFeeder_sessions, acceptFeeder_jour, takeReading_none]
  · exact ⟨rfl, rfl⟩
  · rw [State.updMeas_self]
    exact h

theorem compareReading_restart {y : RegisterBase} {f : Feeder} (b : Berth) (s : State) (h : y.epoch ≠ f.epoch) :
    compareReading b y f s =
      emitEvent .meterRestart 0 (some b) [put 0 8 y.epoch.toNat, y.value, put 0 8 f.epoch.toNat, f.register] s := if_neg h

theorem compareReading_accrues {y : RegisterBase} {f : Feeder} (b : Berth) (s : State) (h : y.epoch = f.epoch) :
    compareReading b y f s = accrue b (f.register - y.value) ((s.meas.get b).assignment s.band) s := if_pos h

theorem acceptFeeder_restart {b : Berth} {s : State} {f : Feeder} {y : RegisterBase} (h : (s.meas.get b).base = some y)
    (epoch : y.epoch ≠ f.epoch) : (acceptFeeder b f s).sessions = s.sessions ∧ (acceptFeeder b f s).jour =
      (emitEvent .meterRestart 0 (some b) [put 0 8 y.epoch.toNat, y.value, put 0 8 f.epoch.toNat, f.register] s).jour := by
  rw [acceptFeeder_sessions, acceptFeeder_jour, takeReading_some (y := y) f (by rw [State.updMeas_self]; exact h),
    compareReading_restart b _ epoch]
  refine ⟨emitEvent_sessions .., ?_⟩
  exact emitEvent_jour (s := s) (quiet_of rfl rfl rfl : s.Quiet (s.updMeas b _)) _ _ _ _

theorem acceptFeeder_accrues {b : Berth} {s : State} {f : Feeder} {y : RegisterBase} (h : (s.meas.get b).base = some y)
    (epoch : y.epoch = f.epoch) : (acceptFeeder b f s).jour = s.jour ∧ (acceptFeeder b f s).sessions.get b =
      (s.sessions.get b).map fun x => { x with acc := { x.acc with
        energy := x.acc.energy.accrue (f.register - y.value) ((s.meas.get b).assignment s.band) } } := by
  rw [acceptFeeder_sessions, acceptFeeder_jour, takeReading_some (y := y) f (by rw [State.updMeas_self]; exact h),
    compareReading_accrues b _ epoch, State.updMeas_self]
  refine ⟨rfl, ?_⟩
  unfold accrue State.updSession State.setSession
  exact PerBerth.get_set_self ..

end Sys2Proof.Machine
end

section
/-! Proofs: a measurement record that is taken, told by its slot (O25). -/

namespace Sys2Proof.Machine

/-! ## Conditions of the feeder slot (R115, R116) -/

theorem feederFresh_iff (b : Berth) (s : State) : s.feederFresh b = true ↔ (s.meas.get b).feeder.fresh = .fresh := by
  unfold State.feederFresh
  exact beq_iff_eq

theorem overloaded_iff (b : Berth) (s : State) : s.overloaded b = true ↔
    ∃ f, (s.meas.get b).feeder.latest = some f ∧ (s.healthy b : Int) < f.power := by
  unfold State.overloaded State.feederPower
  cases (s.meas.get b).feeder.latest <;> simp

theorem reversed_iff (b : Berth) (s : State) : s.reversed b = true ↔
    ∃ f, (s.meas.get b).feeder.latest = some f ∧ f.power < -(s.prot.reverseKw : Int) := by
  unfold State.reversed State.feederPower
  cases (s.meas.get b).feeder.latest <;> simp

/-- R103: what the energising check asks of the shore phasor. -/
theorem energiseCheck_iff (b : Berth) (s : State) : s.energiseCheck b = true ↔
    (s.meas.get b).shore.fresh = .fresh ∧ ∃ p, (s.meas.get b).shore.latest = some p ∧
      ((p.volt : Int) - s.nominalVolt b).natAbs * 100 ≤ 5 * s.nominalVolt b := by
  unfold State.energiseCheck
  dsimp only
  rw [Bool.and_eq_true, beq_iff_eq]
  refine and_congr_right fun _ => ?_
  rcases (s.meas.get b).shore.latest with none | p
  · exact ⟨nofun, nofun⟩
  · exact decide_eq_true_iff.trans ⟨fun near => ⟨p, rfl, near⟩, fun ⟨_, same, near⟩ => Option.some.inj same ▸ near⟩

/-! ## A ship phasor -/

/-- What an oscillator is given where its berth's ship phasor has just come. -/
theorem refreshed_oscEnv (b : Berth) (p : Phasor) (x : Timer) (s : State) :
    (s.updMeas b fun m => { m with ship := { fresh := .fresh, latest := some p, timer := x } }).oscEnv b =
      { nominal := s.nominalFreq b, slip := (s.params.get b).slipTarget, ship := some p, now := s.now } := by
  unfold State.oscEnv State.shipFresh
  rw [State.updMeas_self]
  rfl

/-- The oscillator of a berth whose ship phasor has come. -/
def State.oscAfter (b : Berth) (p : Phasor) (s : State) : Osc :=
  (s.osc.get b).takePhasor
    { nominal := s.nominalFreq b, slip := (s.params.get b).slipTarget, ship := some p, now := s.now } p

theorem acceptShip_eq (b : Berth) (p : Phasor) (s : State) :
    acceptShip b p s = evaluate b (((s.updMeas b fun m =>
      { m with
        ship := { fresh := .fresh, latest := some p, timer := .running ((s.params.get b).stalenessMs * 1000) } }).updOsc
          b fun _ => s.oscAfter b p).updSync b fun u =>
        { u with prev := some p, residual := u.prev.map fun q => residualOf q p }) := by
  unfold State.oscAfter
  rw [← refreshed_oscEnv b p (.running ((s.params.get b).stalenessMs * 1000)) s]
  rfl

theorem oscAfter_spec {b : Berth} {p : Phasor} {s : State} {o : Osc} {d target : Int} (h : o = s.osc.get b)
    (run : o.running = true) (ok : o.Ok) (error : d = Int.tdiv (o.lead p s.now) 30517578125)
    (fixed : o.requested = .nominal ∨ o.requested = .island → target = s.nominalFreq b)
    (slip : o.requested = .trackSlip → target = (p.freq : Int) + (s.params.get b).slipTarget)
    (lock : o.requested = .trackLock →
      target = (p.freq : Int) - max (-100) (min 100 (Int.tdiv (d * 720) 65536))) :
    s.oscAfter b p = { o with
      lastError := some d, target := (max 45000 (min 65000 target)).toNat * 1000000, gliding := (s.oscAfter b p).gliding
      effective := (s.oscAfter b p).effective, beforeHold := (s.oscAfter b p).beforeHold, lock := (s.oscAfter b p).lock } ∧
    ((s.oscAfter b p).gliding = true ↔ o.freq ≠ (s.oscAfter b p).target) ∧
    (s.oscAfter b p).effective = (if o.requested = .trackLock ∧ o.prior ≠ .hold ∧ d.natAbs ≤ 364 ∨
        o.requested ≠ .trackLock ∧ (o.freq - (s.oscAfter b p).target) + ((s.oscAfter b p).target - o.freq) ≤ 10000000
      then o.requested else o.prior) ∧
    (s.oscAfter b p).beforeHold = (if (s.oscAfter b p).effective = .hold then o.beforeHold else none) ∧
    ((s.oscAfter b p).lock = true ↔
      (s.oscAfter b p).effective = .trackLock ∧ d.natAbs ≤ if o.lock = true then 910 else 364) := by
  obtain ⟨y, given, judged⟩ := takePhasor_spec
    (e := { nominal := s.nominalFreq b, slip := (s.params.get b).slipTarget, ship := some p, now := s.now })
    ok run rfl error fixed slip lock
  rw [h] at judged
  rw [show (s.osc.get b).takePhasor _ p = s.oscAfter b p from rfl] at judged
  have rest := judged.rest
  have at_target : (s.oscAfter b p).target = y.target := by rw [rest]
  have at_glide : (s.oscAfter b p).gliding = y.gliding := by rw [rest]
  refine ⟨?_, ?_, ?_, ?_, ?_⟩
  · rw [at_glide]
    exact rest.trans (by rw [given])
  · rw [at_glide, at_target, given]
    exact bne_iff_ne
  · have effective := judged.effective
    rw [at_target]
    rw [given] at effective ⊢
    exact effective
  · have before := judged.beforeHold
    rw [given] at before
    rw [before]
    by_cases held : (s.oscAfter b p).effective = .hold
    · rw [if_pos held, if_pos held]
      have prior : o.prior = .hold := by
        rw [judged.effective] at held
        split at held
        · exact absurd ((show o.requested = .hold by rw [given] at held; exact held)) ok.1
        · rw [given] at held
          exact held
      exact if_pos prior
    · rw [if_neg held, if_neg held]
  · have locks := judged.lock
    rw [given] at locks
    exact locks


/-! ## A shore phasor (R104) -/

theorem evaluate_idle {b : Berth} {s : State} (h : (s.seq.get b).state.isWatching = false) : evaluate b s = s := by
  unfold evaluate
  dsimp only
  rw [h]
  rfl

theorem checkEnergising_fails {b : Berth} {s : State} (h : ¬((s.seq.get b).state = .energising ∧
    (s.seq.get b).volt = .nominal ∧ s.energiseCheck b = true)) : checkEnergising b s = s := if_neg h

theorem checkEnergising_passes {b : Berth} {s : State} (state : (s.seq.get b).state = .energising)
    (volt : (s.seq.get b).volt = .nominal) (check : s.energiseCheck b = true) :
    checkEnergising b s = becomeEnergised b s := if_pos ⟨state, volt, check⟩

/-- A berth stands in a state told from before its shore slot was refreshed as well. -/
theorem State.Stands.of_shore {b : Berth} {new : BerthState} {x : Slot Phasor} {s t : State}
    (h : (s.updMeas b fun m => { m with shore := x }).Stands b new t) : s.Stands b new t := by
  have slot : (s.updMeas b fun m => { m with shore := x }).feederFresh b = s.feederFresh b := by
    unfold State.feederFresh
    rw [State.updMeas_self]
  exact
    { state := h.state, entry := h.entry, volt := h.volt, setpoint := h.setpoint, level := h.level
      direction := h.direction, staleHold := by rw [← slot]; exact h.staleHold, lostHold := h.lostHold
      energise := h.energise, syncT := h.syncT, parallel := h.parallel, overload := h.overload, reverse := h.reverse
      osc := h.osc, mode := h.mode, modules := h.modules, blanking := h.blanking }

theorem State.BecomesEnergised.of_shore {b : Berth} {x : Slot Phasor} {s t : State} (same : s.SameStation t)
    (h : (s.updMeas b fun m => { m with shore := x }).BecomesEnergised b t) : s.BecomesEnergised b t := by
  obtain ⟨-, stands, done, later, first⟩ := h
  refine ⟨same, stands.of_shore, done, fun again => ?_, fun p new profile => ?_⟩
  · obtain ⟨only, rest⟩ := later again
    exact ⟨(updMeas_only b _ s).trans only, rest⟩
  · obtain ⟨mark, counter, jour, opened⟩ := first p new profile
    refine ⟨mark, counter, ?_, opened⟩
    exact jour.trans (tellConnected_jour t.sessions rfl rfl rfl rfl)

/-- A shore phasor in the slot of berth `b`. -/
def State.withShore (b : Berth) (p : Phasor) (s : State) : State :=
  s.updMeas b fun m => { m with
    shore := { fresh := .fresh, latest := some p, timer := .running ((s.params.get b).stalenessMs * 1000) } }

theorem acceptShore_eq (b : Berth) (p : Phasor) (s : State) :
    acceptShore b p s = evaluate b (checkEnergising b (s.withShore b p)) := rfl

theorem withShore_check (b : Berth) (p : Phasor) (s : State) : (s.withShore b p).energiseCheck b = true ↔
    ((p.volt : Int) - s.nominalVolt b).natAbs * 100 ≤ 5 * s.nominalVolt b := by
  rw [energiseCheck_iff]
  unfold State.withShore
  rw [State.updMeas_self]
  exact ⟨fun ⟨_, _, same, near⟩ => Option.some.inj same ▸ near, fun near => ⟨rfl, p, rfl, near⟩⟩

theorem acceptShore_meas (b : Berth) (p : Phasor) (s : State) : (acceptShore b p s).meas = (s.withShore b p).meas := by
  rw [acceptShore_eq, evaluate_meas, checkEnergising_meas]

theorem acceptShore_elsewhere {b : Berth} {p : Phasor} {s : State}
    (h : (s.seq.get b).state ≠ .energising ∨ (s.seq.get b).volt ≠ .nominal) :
    acceptShore b p s = evaluate b (s.withShore b p) := by
  rw [acceptShore_eq, checkEnergising_fails]
  rintro ⟨state, volt, -⟩
  exact h.elim (· state) (· volt)

theorem acceptShore_energises {b : Berth} {p : Phasor} {s : State} (state : (s.seq.get b).state = .energising)
    (volt : (s.seq.get b).volt = .nominal)
    (near : ((p.volt : Int) - s.nominalVolt b).natAbs * 100 ≤ 5 * s.nominalVolt b) :
    s.BecomesEnergised b (acceptShore b p s) := by
  have becomes : (s.withShore b p).BecomesEnergised b (becomeEnergised b (s.withShore b p)) :=
    becomeEnergised_becomes state
  have e : acceptShore b p s = becomeEnergised b (s.withShore b p) := by
    rw [acceptShore_eq, checkEnergising_passes (s := s.withShore b p) state volt ((withShore_check b p s).mpr near), evaluate_idle]
    rw [becomes.2.1.state]
    rfl
  rw [e]
  exact becomes.of_shore (e ▸ acceptShore_same b p s)

theorem acceptShore_waits {b : Berth} {p : Phasor} {s : State} (state : (s.seq.get b).state = .energising)
    (far : 5 * s.nominalVolt b < ((p.volt : Int) - s.nominalVolt b).natAbs * 100) :
    acceptShore b p s = s.withShore b p := by
  rw [acceptShore_eq, checkEnergising_fails fun h => Nat.not_lt.mpr ((withShore_check b p s).mp h.2.2) far, evaluate_idle]
  rw [show ((s.withShore b p).seq.get b).state = .energising from state]
  rfl

/-! ## The release comparison (R110) -/

theorem acceptFeeder_released {b : Berth} {f : Feeder} {s : State}
    (h : (s.seq.get b).state = .parallelOut ∧ f.power < (s.params.get b).releaseKw) :
    (feederMid b f s).Opens b .loadReturned (acceptFeeder b f s) ∧ (feederMid b f s).Opened b (acceptFeeder b f s) := by
  have state : ((feederMid b f s).seq.get b).state = (s.seq.get b).state := by rw [(feederMid_judged b f s).1]
  have e : acceptFeeder b f s = controlledOpen b .loadReturned (feederMid b f s) := by
    rw [acceptFeeder_eq]
    unfold compareRelease
    rw [state, (feederMid_only b f s).params]
    exact if_pos h
  rw [e]
  exact controlledOpen_opens b _ _ (by rw [state, h.1]; rfl)

theorem acceptFeeder_kept {b : Berth} {f : Feeder} {s : State}
    (h : ¬((s.seq.get b).state = .parallelOut ∧ f.power < (s.params.get b).releaseKw)) :
    acceptFeeder b f s = feederMid b f s := by
  have state : ((feederMid b f s).seq.get b).state = (s.seq.get b).state := by rw [(feederMid_judged b f s).1]
  rw [acceptFeeder_eq]
  unfold compareRelease
  rw [state, (feederMid_only b f s).params]
  exact if_neg h

/-! ## A feeder record with status fault (R64) -/

/-- R64: the record of a berth whose feeder record tells of a status fault. -/
def Meas.faulted (limitUs : Nat) (m : Meas) : Meas :=
  { m with
    feeder := { m.feeder with fresh := .fresh, timer := .running limitUs }
    counters := { m.counters with meterStatus := min (m.counters.meterStatus + 1) 65535 } }

theorem acceptFeederFault_eq (b : Berth) (s : State) : acceptFeederFault b s =
    if s.feederFresh b = true then s.updMeas b (Meas.faulted ((s.params.get b).stalenessMs * 1000))
    else feederAccepted b (s.updMeas b (Meas.faulted ((s.params.get b).stalenessMs * 1000))) := by
  have counted : (countFailure b (fun c => { c with meterStatus := sat16 (c.meterStatus + 1) }) s).updMeas b
      (fun m => { m with feeder := m.feeder.refresh ((s.params.get b).stalenessMs * 1000) none }) =
      s.updMeas b (Meas.faulted ((s.params.get b).stalenessMs * 1000)) := by
    unfold countFailure State.updMeas
    rw [PerBerth.get_set_self, PerBerth.set_set]
    rfl
  rw [← counted]
  rfl

theorem acceptFeederFault_fresh {b : Berth} {s : State} (h : s.feederFresh b = true) : acceptFeederFault b s =
    s.updMeas b (Meas.faulted ((s.params.get b).stalenessMs * 1000)) := by
  rw [acceptFeederFault_eq, if_pos h]

theorem acceptFeederFault_stale {b : Berth} {s : State} (h : ¬s.feederFresh b = true) : acceptFeederFault b s =
    feederAccepted b (s.updMeas b (Meas.faulted ((s.params.get b).stalenessMs * 1000))) := by
  rw [acceptFeederFault_eq, if_neg h]

theorem acceptFeederFault_meas (b : Berth) (s : State) :
    (acceptFeederFault b s).meas.get b = (s.meas.get b).faulted ((s.params.get b).stalenessMs * 1000) := by
  rw [acceptFeederFault_eq]
  split
  · exact State.updMeas_self ..
  · rw [feederAccepted_meas]
    exact State.updMeas_self ..

theorem acceptFeederFault_sessions (b : Berth) (s : State) : (acceptFeederFault b s).sessions = s.sessions := by
  rw [acceptFeederFault_eq]
  split
  · rfl
  · exact feederAccepted_sessions b _

theorem acceptFeederFault_jour (b : Berth) (s : State) : (acceptFeederFault b s).jour = s.jour := by
  rw [acceptFeederFault_eq]
  split
  · rfl
  · exact (feederAccepted_quiet b _).jour

/-! ## The values of a record (R64) -/

theorem plausible_iff (p : Phasor) : plausible p = true ↔ 45000 ≤ p.freq ∧ p.freq ≤ 65000 := decide_eq_true_iff

theorem parseMeas_phasor (w0 w1 w2 w3 : Word) : (parseMeas w0 w1 w2 w3).phasor =
    ⟨field w2 0 16, field w2 16 16, field w3 0 16, w1⟩ := rfl

theorem parseMeas_feeder (w0 w1 w2 w3 : Word) : (parseMeas w0 w1 w2 w3).feeder =
    ⟨(w2.extractLsb' 0 16).toInt, w2.extractLsb' 16 8, w3, w1⟩ := by
  have power : signed16 (field w2 0 16) = (w2.extractLsb' 0 16).toInt := by
    unfold signed16 field
    rw [BitVec.ofNat_toNat, BitVec.setWidth_eq]
  unfold parseMeas
  rw [power]

/-- R64: an implausible phasor is counted. -/
theorem takeValues_implausible {b : Berth} {k : SlotKind} {r : MeasRecord} (s : State)
    (h : k = .shipPhasor ∨ k = .shorePhasor) (bad : r.phasor.freq < 45000 ∨ 65000 < r.phasor.freq) :
    takeValues b k r s = s.updMeas b fun m =>
      { m with counters := { m.counters with implausible := min (m.counters.implausible + 1) 65535 } } := by
  have not : ¬plausible r.phasor = true := by
    rw [plausible_iff]
    omega
  rcases h with rfl | rfl <;> exact if_neg not

theorem takeValues_ship {b : Berth} {r : MeasRecord} (s : State) (low : 45000 ≤ r.phasor.freq)
    (high : r.phasor.freq ≤ 65000) : takeValues b .shipPhasor r s = acceptShip b r.phasor s :=
  if_pos ((plausible_iff _).mpr ⟨low, high⟩)

theorem takeValues_shore {b : Berth} {r : MeasRecord} (s : State) (low : 45000 ≤ r.phasor.freq)
    (high : r.phasor.freq ≤ 65000) : takeValues b .shorePhasor r s = acceptShore b r.phasor s :=
  if_pos ((plausible_iff _).mpr ⟨low, high⟩)

theorem takeValues_feeder {b : Berth} {r : MeasRecord} (s : State) (h : r.meterStatus = 0) :
    takeValues b .feederPower r s = acceptFeeder b r.feeder s := if_pos h

theorem takeValues_feederFault {b : Berth} {r : MeasRecord} (s : State) (h : r.meterStatus ≠ 0) :
    takeValues b .feederPower r s = acceptFeederFault b s := if_neg h

/-- Settles O25. -/
theorem measurementRecordAccepted : Obligations.MeasurementRecordAccepted := by
  refine ⟨fun b s => ⟨fun p => ?_, fun p v given => ?_, fun f => ?_, ?_, feederFresh_iff b s, overloaded_iff b s,
    reversed_iff b s, fun dur n fresh x => ?_⟩, fun b e k w0 w1 w2 w3 s u opened identity timely ordered => ?_⟩
  · refine ⟨s.oscAfter b p, acceptShip_eq b p s, acceptShip_only b p s, fun stopped => if_pos stopped, ?_⟩
    intro o d target prior own run ok error mode fixed slip lock
    rw [mode]
    exact oscAfter_spec own run ok error fixed slip lock
  · subst given
    exact ⟨acceptShore_same b p s, acceptShore_meas b p s, acceptShore_elsewhere,
      fun state volt => ⟨acceptShore_energises state volt, acceptShore_waits state⟩⟩
  · have meas : (acceptFeeder b f s).meas = (feederMid b f s).meas := by rw [acceptFeeder_eq, compareRelease_meas]
    refine ⟨by rw [meas]; exact feederMid_meas b f s, acceptFeeder_only b f s,
      ⟨feederMid b f s, meas.symm, feederMid_only b f s, feederMid_judged b f s, acceptFeeder_released,
        acceptFeeder_kept⟩, acceptFeeder_first f, fun y => acceptFeeder_restart, fun y base epoch => ?_⟩
    obtain ⟨jour, session⟩ := acceptFeeder_accrues base epoch
    refine ⟨jour, fun rise given => ?_⟩
    rw [session]
    simp only [accrue_eq _ _ _ _ _ given]
  · refine ⟨acceptFeederFault_meas b s, fun fresh => ?_, fun stale => ?_, acceptFeederFault_sessions b s,
      acceptFeederFault_jour b s, acceptFeederFault_only b s⟩
    · rw [acceptFeederFault_meas, acceptFeederFault_fresh ((feederFresh_iff b s).mpr fresh)]
      rfl
    · rw [acceptFeederFault_stale (mt (feederFresh_iff b s).mp stale)]
      exact (feederAccepted_judged b _).of rfl rfl rfl rfl rfl rfl
  · refine ⟨rfl, rfl, rfl, ?_⟩
    rintro (rfl | rfl) <;> exact ⟨rfl, rfl⟩
  · have taken {k : SlotKind} := takeMeasurement_taken (k := k) identity timely ordered
    rw [exec_measurement w0 w1 w2 w3 opened]
    refine ⟨fun kind low high => ?_, fun kind low high => ?_, fun kind bad => ?_, fun kind well => ?_, fun kind fault => ?_⟩
    · rw [taken (k := .shipPhasor) (by rw [kind]; rfl), takeValues_ship u low high, parseMeas_phasor]
    · rw [taken (k := .shorePhasor) (by rw [kind]; rfl), takeValues_shore u low high, parseMeas_phasor]
    · rcases kind with kind | kind
      · rw [taken (k := .shipPhasor) (by rw [kind]; rfl), takeValues_implausible u (.inl rfl) bad]
      · rw [taken (k := .shorePhasor) (by rw [kind]; rfl), takeValues_implausible u (.inr rfl) bad]
    · rw [taken (k := .feederPower) (by rw [kind]; rfl), takeValues_feeder u well, parseMeas_feeder]
    · rw [taken (k := .feederPower) (by rw [kind]; rfl), takeValues_feederFault u fault]

end Sys2Proof.Machine
end

section
/-! Proofs: a measurement slot that goes stale (O26). -/

namespace Sys2Proof.Machine

/-! ## The window where a phasor is stale (R79) -/

theorem evalWindow_c1_iff (b : Berth) (s : State) : (s.evalWindow b).c1 = true ↔
    (s.meas.get b).ship.fresh = .fresh ∧ (s.meas.get b).shore.fresh = .fresh := by
  unfold State.evalWindow
  dsimp only
  rw [Bool.and_eq_true, beq_iff_eq, beq_iff_eq]

theorem evalWindow_fails {b : Berth} {s : State} (h : (s.evalWindow b).c1 = false) : (s.evalWindow b).holds = false := by
  have holds : (s.evalWindow b).holds = ((s.evalWindow b).c1 && (s.evalWindow b).c2 && (s.evalWindow b).c3 &&
    (s.evalWindow b).c4 && (s.evalWindow b).c5) := rfl
  rw [holds, h]
  rfl

theorem evaluate_matching {b : Berth} {s : State} (state : (s.seq.get b).state = .matching)
    (fails : (s.evalWindow b).holds = false) :
    evaluate b s = s.updSync b fun u => { u with window := s.evalWindow b } := by
  unfold evaluate
  rw [state]
  dsimp only
  rw [fails]
  rfl

theorem evaluate_armed {b : Berth} {s : State} (state : (s.seq.get b).state = .armed)
    (fails : (s.evalWindow b).holds = false) :
    evaluate b s = enterState b .matching
      (s.updSync b fun u => { u with window := s.evalWindow b, prediction := none, closeDue := .stopped }) := by
  have dropped : (s.updSync b fun u => { u with window := s.evalWindow b }).updSync b dropPrediction =
      s.updSync b fun u => { u with window := s.evalWindow b, prediction := none, closeDue := .stopped } := by
    unfold State.updSync
    dsimp only
    rw [PerBerth.get_set_self, PerBerth.set_set]
    rfl
  unfold evaluate
  rw [state, ← dropped]
  dsimp only
  rw [fails]
  rfl

theorem predict_page (b : Berth) (s : State) : (predict b s).page = s.page := by
  unfold predict
  split <;> rfl

theorem evaluate_page (b : Berth) (s : State) : (evaluate b s).page = s.page := by
  unfold evaluate
  dsimp only
  split
  · split
    · rw [predict_page]
      split
      · exact enterState_page b _ _
      · rfl
    · split
      · exact enterState_page b _ _
      · rfl
  · rfl

/-- A berth back in MATCHING keeps its Synchronising Unit but for the window and the prediction. -/
theorem evaluate_armed_sync {b : Berth} {s : State} (state : (s.seq.get b).state = .armed)
    (fails : (s.evalWindow b).holds = false) : (evaluate b s).sync.get b =
      { s.sync.get b with window := s.evalWindow b, prediction := none, closeDue := .stopped } := by
  rw [evaluate_armed state fails, enterState_sync, PerBerth.get_set_self, enteredSync_in b _ _ (.inl rfl),
    State.updSync_self]

/-! ## An oscillator whose ship phasor is gone (R52) -/

namespace Osc

theorem target_blind {o : Osc} {e : OscEnv} (asked : o.requested ≠ .hold) (blind : e.ship = none)
    (free : o.effective.isTracking = false) : o.targetOf e (o.governing e.ship.isSome) =
      if o.requested.isTracking = true ∧ o.effective = .hold then o.freq
      else (max 45000 (min 65000 e.nominal)) * 1000000 := by
  have bounded : boundFreq e.nominal = (max 45000 (min 65000 e.nominal)) * 1000000 := by
    unfold boundFreq Config.freqMin Config.freqMax Config.freqUnit
    omega
  rw [blind, ← bounded]
  unfold governing
  cases tracks : o.requested.isTracking
  · rw [if_neg nofun]
    rw [if_neg (by rintro ⟨h, -⟩; cases h)]
    cases requested : o.requested <;> rw [requested] at tracks asked
    case nominal | island => rfl
    case hold => exact absurd rfl asked
    case trackSlip | trackLock => cases tracks
  · rw [show (true && !Option.isSome (none : Option Phasor)) = true from rfl, if_pos rfl]
    cases effective : o.effective <;> rw [effective] at free
    case nominal | island => rw [if_neg (by rintro ⟨-, h⟩; cases h)]; rfl
    case hold => exact (if_pos ⟨rfl, rfl⟩).symm
    case trackSlip | trackLock => cases free

theorem retarget_blind {o : Osc} {e : OscEnv} (asked : o.requested ≠ .hold) (blind : e.ship = none)
    (free : o.effective.isTracking = false) :
    o.retarget e = { o with target := (o.retarget e).target, gliding := (o.retarget e).gliding } ∧
      ((o.retarget e).gliding = true ↔ o.freq ≠ (o.retarget e).target) ∧
      (o.retarget e).target = if o.requested.isTracking = true ∧ (o.retarget e).effective = .hold then o.freq
        else (max 45000 (min 65000 e.nominal)) * 1000000 :=
  ⟨rfl, bne_iff_ne, target_blind asked blind free⟩

theorem goStale_spec {o : Osc} {e : OscEnv} (ok : o.Ok) (run : o.running = true) (blind : e.ship = none) :
    o.goStale e = { o with
      effective := if o.effective.isTracking = true then .hold else o.effective
      beforeHold := if o.effective.isTracking = true then some o.effective else o.beforeHold
      lock := false, target := (o.goStale e).target, gliding := (o.goStale e).gliding } ∧
    ((o.goStale e).gliding = true ↔ o.freq ≠ (o.goStale e).target) ∧
    (o.goStale e).target = if o.requested.isTracking = true ∧ (o.goStale e).effective = .hold then o.freq
      else (max 45000 (min 65000 e.nominal)) * 1000000 := by
  obtain ⟨asked, -, -, locks⟩ := ok
  unfold goStale
  rw [if_neg (by rw [run]; nofun)]
  cases tracks : o.effective.isTracking
  · rw [if_neg nofun, if_neg nofun, if_neg nofun]
    obtain ⟨rest, glides, target⟩ := retarget_blind asked blind tracks
    have unlocked : o.lock = false := Bool.eq_false_iff.mpr fun lock => by
      rw [locks lock] at tracks
      cases tracks
    refine ⟨?_, glides, target⟩
    rw [← unlocked]
    exact rest
  · rw [if_pos rfl, if_pos rfl, if_pos rfl]
    exact retarget_blind (o := { o with effective := .hold, beforeHold := some o.effective, lock := false }) asked blind rfl

end Osc

/-! ## What standing in a state asks of the state before -/

/-- Standing in a state is told from the state, voltage, holds and direction of the context, and from time, oscillators,
modules and PROTECTION, the feeder's freshness and the presence of the supervisor. -/
theorem State.Stands.of_context {b : Berth} {new : BerthState} {s u t : State} (h : u.Stands b new t)
    (state : ∀ c, (u.seq.get c).state = (s.seq.get c).state)
    (volt : voltOnEntry new (u.seq.get b).volt = voltOnEntry new (s.seq.get b).volt)
    (stale : (u.seq.get b).staleHold = (s.seq.get b).staleHold) (held : (u.seq.get b).lostHold = (s.seq.get b).lostHold)
    (dir : (u.seq.get b).dir = (s.seq.get b).dir) (now : u.now = s.now) (fresh : u.feederFresh b = s.feederFresh b)
    (lost : u.isLost = s.isLost) (osc : u.osc = s.osc) (mods : u.mods = s.mods) (prot : u.prot = s.prot) :
    s.Stands b new t where
  state := h.state
  entry := h.entry.trans now
  volt := h.volt.trans volt
  setpoint := h.setpoint
  level := h.level
  direction := h.direction
  staleHold := by rw [← stale, ← fresh]; exact h.staleHold
  lostHold := by rw [← held, ← lost]; exact h.lostHold
  energise := h.energise
  syncT := h.syncT
  parallel := h.parallel
  overload := h.overload
  reverse := h.reverse
  osc := by rw [← osc]; exact h.osc
  mode := h.mode
  modules := h.modules
  blanking := fun ok m before after => by
    have ok' : u.ModesOk := fun k => by
      rw [mods, commandedMode_congr (s := s) (t := u) state]
      exact ok k
    have blanked := h.blanking ok' m (by rw [mods]; exact before) after
    unfold State.Blanked at blanked ⊢
    rw [mods, dir, now, prot] at blanked
    exact blanked

theorem State.Stands.of_inputs {b : Berth} {new : BerthState} {s u t : State} (h : u.Stands b new t) (seq : u.seq = s.seq)
    (now : u.now = s.now) (fresh : u.feederFresh b = s.feederFresh b) (lost : u.isLost = s.isLost) (osc : u.osc = s.osc)
    (mods : u.mods = s.mods) (prot : u.prot = s.prot) : s.Stands b new t := by
  refine h.of_context (fun c => ?_) ?_ ?_ ?_ ?_ now fresh lost osc mods prot <;> rw [seq]

/-! ## The three slots -/

/-- The state of a berth whose ship slot has gone stale, before its window is evaluated. -/
def shipStaleMid (b : Berth) (s : State) : State :=
  ((setSummary (.measureStale b) (s.updMeas b fun m =>
    { m with ship := { m.ship with fresh := .stale, timer := .stopped } })).updOsc b fun _ =>
      (s.osc.get b).goStale { s.oscEnv b with ship := none }).updSync b fun u => { u with prev := none, residual := none }

theorem slotStale_ship (b : Berth) (s : State) : slotStale b .shipPhasor s = evaluate b (shipStaleMid b s) := by
  have env : (setSummary (.measureStale b) (s.updMeas b fun m => { m with ship := m.ship.goStale })).oscEnv b =
      { s.oscEnv b with ship := none } := by
    unfold State.oscEnv State.shipFresh
    rw [setSummary_meas, State.updMeas_self]
    rfl
  unfold shipStaleMid
  rw [← env]
  rfl

theorem shipStaleMid_meas (b : Berth) (s : State) : (shipStaleMid b s).meas.get b =
    { s.meas.get b with ship := { (s.meas.get b).ship with fresh := .stale, timer := .stopped } } := by
  unfold shipStaleMid
  rw [State.updSync_meas, State.updOsc_meas, setSummary_meas, State.updMeas_self]

theorem shipStaleMid_fails (b : Berth) (s : State) : ((shipStaleMid b s).evalWindow b).holds = false :=
  evalWindow_fails (Bool.eq_false_iff.mpr fun c1 => by
    have fresh := ((evalWindow_c1_iff b _).mp c1).1
    rw [shipStaleMid_meas] at fresh
    cases fresh)

theorem shipStaleMid_sync (b : Berth) (s : State) :
    (shipStaleMid b s).sync.get b = { s.sync.get b with prev := none, residual := none } := State.updSync_self ..

theorem predict_sync (b : Berth) (s : State) : ∃ p d, (predict b s).sync.get b =
    { s.sync.get b with prediction := p, closeDue := d } := by
  unfold predict
  split
  · exact ⟨_, _, State.updSync_self ..⟩
  · exact ⟨_, _, rfl⟩

theorem shipStale_sync (b : Berth) (s : State) :
    ((slotStale b .shipPhasor s).sync.get b).prev = none ∧ ((slotStale b .shipPhasor s).sync.get b).residual = none := by
  rw [slotStale_ship]
  have fails := shipStaleMid_fails b s
  have sync := shipStaleMid_sync b s
  by_cases watching : ((shipStaleMid b s).seq.get b).state.isWatching = true
  · rcases List.mem_pair.mp ((isWatching_iff _).mp watching) with state | state
    · rw [evaluate_matching state fails, State.updSync_self, sync]
      exact ⟨rfl, rfl⟩
    · rw [evaluate_armed_sync state fails, sync]
      exact ⟨rfl, rfl⟩
  · rw [evaluate_idle (Bool.eq_false_iff.mpr watching), sync]
    exact ⟨rfl, rfl⟩

theorem shipStale_armed {b : Berth} {s : State} (h : (s.seq.get b).state = .armed) :
    ((slotStale b .shipPhasor s).seq.get b).state = .matching ∧ ((slotStale b .shipPhasor s).sync.get b).prediction = none ∧
      ((slotStale b .shipPhasor s).sync.get b).closeDue = .stopped := by
  have fails := shipStaleMid_fails b s
  have state : ((shipStaleMid b s).seq.get b).state = .armed := h
  rw [slotStale_ship, evaluate_armed_sync state fails, evaluate_armed state fails]
  exact ⟨(enterState_stands b .matching _).state, rfl, rfl⟩

/-- The state of a berth whose shore slot has gone stale, before its window is evaluated. -/
def shoreStaleMid (b : Berth) (s : State) : State :=
  setSummary (.measureStale b) (s.updMeas b fun m =>
    { m with shore := { m.shore with fresh := .stale, timer := .stopped } })

theorem slotStale_shore (b : Berth) (s : State) : slotStale b .shorePhasor s = evaluate b (shoreStaleMid b s) := rfl

theorem shoreStaleMid_meas (b : Berth) (s : State) : (shoreStaleMid b s).meas.get b =
    { s.meas.get b with shore := { (s.meas.get b).shore with fresh := .stale, timer := .stopped } } := by
  unfold shoreStaleMid
  rw [setSummary_meas, State.updMeas_self]

theorem shoreStaleMid_c1 (b : Berth) (s : State) : ((shoreStaleMid b s).evalWindow b).c1 = false :=
  Bool.eq_false_iff.mpr fun c1 => by
    have fresh := ((evalWindow_c1_iff b _).mp c1).2
    rw [shoreStaleMid_meas] at fresh
    cases fresh

theorem shoreStale_armed {b : Berth} {s : State} (h : (s.seq.get b).state = .armed) :
    s.Stands b .matching (slotStale b .shorePhasor s) ∧ (slotStale b .shorePhasor s).sync.get b = { s.sync.get b with
      window := (shoreStaleMid b s).evalWindow b, prediction := none, closeDue := .stopped } := by
  have fails := evalWindow_fails (shoreStaleMid_c1 b s)
  have state : ((shoreStaleMid b s).seq.get b).state = .armed := h
  rw [slotStale_shore]
  refine ⟨?_, evaluate_armed_sync state fails⟩
  rw [evaluate_armed state fails]
  refine (enterState_stands b .matching _).of_inputs rfl rfl ?_ rfl rfl rfl rfl
  show (((shoreStaleMid b s).meas.get b).feeder.fresh == .fresh) = _
  rw [shoreStaleMid_meas]
  rfl

theorem shoreStale_matching {b : Berth} {s : State} (h : (s.seq.get b).state = .matching) :
    slotStale b .shorePhasor s = (shoreStaleMid b s).updSync b fun u => { u with window := (shoreStaleMid b s).evalWindow b } :=
  evaluate_matching (s := shoreStaleMid b s) h (evalWindow_fails (shoreStaleMid_c1 b s))

/-- An evaluation of the window reads nothing that storing its result changes. -/
theorem evalWindow_stored (b : Berth) (w : WindowResult) (s : State) :
    (s.updSync b fun u => { u with window := w }).evalWindow b = s.evalWindow b := by
  unfold State.evalWindow
  rw [State.updSync_self]
  rfl


/-- The state of a berth whose feeder slot has gone stale, before its sequencer is told. -/
def feederStaleMid (b : Berth) (s : State) : State :=
  noteGap b (setSummary (.measureStale b) (s.updMeas b fun m =>
    { m with
      feeder := { m.feeder with fresh := .stale, timer := .stopped }
      staleBetween := m.staleBetween || m.base.isSome }))

theorem slotStale_feeder (b : Berth) (s : State) : slotStale b .feederPower s = feederWentStale b (feederStaleMid b s) := rfl

theorem feederStaleMid_meas (b : Berth) (s : State) : (feederStaleMid b s).meas.get b = { s.meas.get b with
    feeder := { (s.meas.get b).feeder with fresh := .stale, timer := .stopped }
    staleBetween := (s.meas.get b).staleBetween || (s.meas.get b).base.isSome } := by
  unfold feederStaleMid noteGap
  rw [State.updSession_meas, setSummary_meas, State.updMeas_self]

theorem feederStaleMid_session (b : Berth) (s : State) : (feederStaleMid b s).sessions.get b =
    (s.sessions.get b).map fun x =>
      { x with gaps := min (x.gaps + 1) 65535, acc := { x.acc with gap := true } } := by
  unfold feederStaleMid noteGap State.updSession State.setSession
  exact PerBerth.get_set_self ..

/-- R117: what a sequencer makes of a feeder slot that is stale. -/
theorem feederWentStale_spec {b : Berth} {s : State} (h : s.feederFresh b = false) :
    ∃ ms q, feederWentStale b s = { s with mods := ms, seq := s.seq.set b q } ∧
      q = { s.seq.get b with
        staleHold := (s.seq.get b).staleHold || (s.seq.get b).state.isParallel, dir := q.wantDir
        overload := (s.seq.get b).overload.hold, reverse := (s.seq.get b).reverse.hold } ∧
      s.BlanksModules b (feederWentStale b s) := by
  have held : holdIfStale b s = { s with seq := s.seq.set b ((s.seq.get b).holding true) } := by
    rw [holdIfStale_eq, h]
    rfl
  have own : (holdIfStale b s).seq.get b = (s.seq.get b).holding true := by
    rw [held]
    exact PerBerth.get_set_self ..
  obtain ⟨ms, -, turned⟩ := refreshDirection_spec b (holdIfStale b s)
  have whole : feederWentStale b s = { s with
      mods := ms
      seq := s.seq.set b { ((s.seq.get b).holding true).directed with
        overload := (s.seq.get b).overload.hold, reverse := (s.seq.get b).reverse.hold } } := by
    unfold feederWentStale holdTimers State.updSeq
    rw [turned, own, held]
    dsimp only
    rw [PerBerth.get_set_self, PerBerth.set_set, PerBerth.set_set]
    rfl
  refine ⟨ms, _, whole, ?_, ?_⟩
  · unfold Seq.holding Seq.directed
    rw [Bool.and_true]
    rfl
  · refine refreshDirection_blanks b (u := holdIfStale b s) (by rw [held]) (by rw [held]) (by rw [held]) ?_ rfl ?_
    · rw [own]
      rfl
    · rw [own, whole]
      dsimp only
      rw [PerBerth.get_set_self]
      rfl

theorem wantDir_held {q : Seq} (h : q.staleHold = true) : q.wantDir = .level := by
  unfold Seq.wantDir
  rw [h]
  rfl

/-- Settles O26. -/
theorem slotGoesStale : Obligations.SlotGoesStale := by
  refine ⟨fun m => ⟨rfl, rfl, rfl⟩, fun b k s expired => ?_⟩
  refine ⟨slotStale b k s, exec_due rfl ((Timer.isDue_iff _).mpr expired), slotStale_only b k s, ?_, ?_, ?_, ?_⟩
  · cases k with
    | shipPhasor =>
      rw [slotStale_ship]
      exact (keepsBits_of_page (evaluate_page b _)) _ (setSummary_bit ..)
    | shorePhasor =>
      rw [slotStale_shore]
      exact (keepsBits_of_page (evaluate_page b _)) _ (setSummary_bit ..)
    | feederPower =>
      obtain ⟨ms, q, whole, -⟩ := feederWentStale_spec (b := b) (s := feederStaleMid b s) (by
        unfold State.feederFresh
        rw [feederStaleMid_meas]
        rfl)
      rw [slotStale_feeder, whole]
      exact setSummary_bit ..
  · rintro rfl
    obtain ⟨prev, residual⟩ := shipStale_sync b s
    refine ⟨⟨(s.osc.get b).goStale { s.oscEnv b with ship := none }, slotStale_ship b s, fun stopped => if_pos stopped,
      fun o own run ok => ?_⟩, ?_, prev, residual, shipStale_armed⟩
    · subst own
      exact Osc.goStale_spec ok run rfl
    · rw [slotStale_ship, evaluate_meas, shipStaleMid_meas]
  · rintro rfl
    have c1 := shoreStaleMid_c1 b s
    refine ⟨?_, fun armed => ?_, fun matching => ?_, fun elsewhere => ?_⟩
    · rw [slotStale_shore, evaluate_meas, shoreStaleMid_meas]
    · obtain ⟨stands, sync⟩ := shoreStale_armed armed
      refine ⟨stands, ?_, ?_, ?_⟩ <;> rw [sync]
      · exact evalWindow_fails c1
      · exact c1
    · rw [shoreStale_matching matching, State.updSync_self, evalWindow_stored]
      exact ⟨rfl, rfl, c1, rfl⟩
    · rw [slotStale_shore, evaluate_idle (s := shoreStaleMid b s) elsewhere]
      exact ⟨rfl, rfl, rfl⟩
  · rintro rfl
    obtain ⟨ms, q, whole, seq, blanks⟩ := feederWentStale_spec (b := b) (s := feederStaleMid b s) (by
      unfold State.feederFresh
      rw [feederStaleMid_meas]
      rfl)
    have own : ((slotStale b .feederPower s).seq.get b) = q := by
      rw [slotStale_feeder, whole]
      exact PerBerth.get_set_self ..
    rw [own]
    refine ⟨?_, ?_, seq, fun n => rfl, fun n => rfl, rfl, ?_, ?_, blanks, fun parallel => ?_⟩
    · rw [slotStale_feeder, whole]
      exact feederStaleMid_meas b s
    · rw [slotStale_feeder, whole]
      exact feederStaleMid_session b s
    · rw [slotStale_feeder, whole]
      rfl
    · rw [slotStale_feeder, whole]
      rfl
    · have state : (s.seq.get b).state.isParallel = true := by rcases parallel with h | h <;> rw [h] <;> rfl
      have held : q.staleHold = true := by
        rw [seq]
        exact (Bool.or_eq_true _ _).mpr (.inr state)
      have dir : q.dir = q.wantDir := congrArg Seq.dir seq
      exact ⟨held, dir.trans (wantDir_held held)⟩

end Sys2Proof.Machine
end

section
/-! Proofs: expiries that only stop, and timers of the sequencer (O27, O35 to O38). -/

namespace Sys2Proof.Machine

theorem exec_expired {c : Instr} {s : State} (timed : c.isTimed = true) (t : Timer) (clock : isDue s c = t.isDue)
    (h : t = .running 0) : exec c s = .next (timedEffect c s) :=
  exec_due timed (clock.trans ((Timer.isDue_iff t).mpr h))

/-- Settles O27. -/
theorem expiriesThatOnlyStop : Obligations.ExpiriesThatOnlyStop := by
  intro s
  refine ⟨fun m => exec_expired rfl _ rfl, fun m x expiry past => ?_, fun b => exec_expired rfl _ rfl,
    fun b running gliding arrived => ?_, fun b => exec_expired rfl _ rfl, fun b => exec_expired rfl _ rfl,
    exec_expired rfl _ rfl, exec_expired rfl _ rfl⟩
  · exact exec_due rfl ((blankingOver_iff s.now _).mpr ⟨x, expiry, past⟩)
  · exact exec_due rfl ((hasArrived_iff _).mpr ⟨running, gliding, arrived⟩)

/-- An expiry of a timer that counts only where a test of the berth's state holds. -/
theorem exec_expired_in {c : Instr} {s : State} (timed : c.isTimed = true) (t : Timer) (p : Bool)
    (clock : isDue s c = (t.isDue && p)) (h : t = .running 0) (test : p = true) : exec c s = .next (timedEffect c s) :=
  exec_due timed (clock.trans ((Bool.and_eq_true _ _).mpr ⟨(Timer.isDue_iff t).mpr h, test⟩))

/-! ## Return to ENERGISED (R105, R88) -/

/-- A berth that enters a state and whose request then ends stands in it. -/
theorem entered_stands (b : Berth) (new : BerthState) (o : ReqOutcome) (c : Option Cause) (s : State) :
    s.Stands b new (completeCurrent b o c (enterState b new s)) :=
  completeCurrent_stands o c (enterState_stands b new s)

theorem entered_ends (b : Berth) (new : BerthState) (o : ReqOutcome) (c : Option Cause) (s : State) :
    (s.seq.get b).Completes o c ((completeCurrent b o c (enterState b new s)).seq.get b) :=
  entered_completes (by rw [enterState_seq, PerBerth.get_set_self])

theorem entered_only (b : Berth) (new : BerthState) (o : ReqOutcome) (c : Option Cause) (s : State) :
    s.OnlyBerth b (completeCurrent b o c (enterState b new s)) :=
  (enterState_only b new s).trans (completeCurrent_only b o c _)

theorem entered_sync (b : Berth) (new : BerthState) (o : ReqOutcome) (c : Option Cause) (s : State) :
    (completeCurrent b o c (enterState b new s)).sync.get b = enteredSync b new s := by
  rw [completeCurrent_sync, enterState_sync, PerBerth.get_set_self]

theorem moduleMode_eq (x : BerthState) : x.moduleMode =
    if x = .idle ∨ x = .waitingModules then .off else if x = .tripped then .blocked
    else if x = .parallelIn ∨ x = .parallelOut ∨ x = .opening then .follow else .form := by
  cases x <;> rfl

theorem voltOnEntry_eq (x : BerthState) (old : VoltRamp) : voltOnEntry x old =
    if x = .idle ∨ x = .waitingModules ∨ x = .tripped then .zero
    else if x = .energising then .rising 0
    else if x = .deEnergising then if old = .zero then .zero else .falling 0 else .nominal := by
  cases x <;> rfl

/-- Settles O35. -/
theorem timersReturnToEnergised : Obligations.TimersReturnToEnergised := by
  refine ⟨fun x old => ⟨?_, ?_, ?_, ?_, moduleMode_eq x, voltOnEntry_eq x old⟩, fun b s => ⟨fun expired watching => ?_,
    fun expired closing => ?_⟩⟩
  · rintro (rfl | rfl | rfl | rfl) <;> rfl
  · rintro (rfl | rfl | rfl) <;> rfl
  · rintro (rfl | rfl | rfl) <;> rfl
  · rintro rfl
    rfl
  · have watches : (s.seq.get b).state.isWatching = true := by rcases watching with h | h <;> rw [h] <;> rfl
    refine ⟨_, exec_expired_in rfl _ _ rfl expired watches, entered_only .., entered_stands .., entered_ends .., ?_⟩
    exact (entered_sync ..).trans (enteredSync_watch b _ s watches rfl nofun)
  · let u := s.updSync b fun u => { u with closeConfirm := .stopped }
    refine ⟨_, exec_expired_in rfl _ _ rfl expired (by rw [closing]; rfl), (updSync_only b _ s).trans (entered_only ..),
      (entered_stands b .energised .failed (some .closeFailed) u).of_inputs rfl rfl rfl rfl rfl rfl rfl,
      entered_ends b .energised .failed (some .closeFailed) u, ?_⟩
    refine (entered_sync b .energised .failed (some .closeFailed) u).trans ?_
    rw [enteredSync_not b _ u (by rw [show (u.seq.get b).state = .closing from closing]; rfl)]
    exact State.updSync_self ..

/-! ## Controlled opens (R89, R111, R115, R116) -/

theorem isClosed_iff (x : BerthState) :
    x.isClosed = true ↔ x ∈ [.parallelIn, .shoreOnly, .parallelOut, .opening] := by cases x <;> decide

theorem isActive_iff (x : BerthState) : x.isActive = true ↔ x ∉ [.idle, .waitingModules, .tripped] := by
  cases x <;> decide

theorem hasSetpoint_iff (x : BerthState) : x.hasSetpoint = true ↔ x ∈ [.parallelIn, .parallelOut, .opening] := by
  cases x <;> decide

theorem overloadExpired_parallel {b : Berth} {s : State}
    (h : (s.seq.get b).state = .parallelIn ∨ (s.seq.get b).state = .parallelOut) :
    overloadExpired b s = controlledOpen b .overload s := by
  unfold overloadExpired
  rcases h with h | h <;> rw [h]

/-- A berth that opens from a state other than SHORE_ONLY keeps its session. -/
theorem controlledOpen_keeps {b : Berth} {s : State} (c : OpenCause) (h : (s.seq.get b).state ≠ .shoreOnly) :
    (controlledOpen b c s).sessions = s.sessions := by
  rw [controlledOpen_sessions, enteredSessions_other]
  · rfl
  · rw [State.updSeq_self]
    exact h

theorem controlledOpen_interrupts {b : Berth} {s : State} (c : OpenCause) (h : (s.seq.get b).state = .shoreOnly) :
    (controlledOpen b c s).sessions.get b =
      (s.sessions.get b).map fun x => { x with interruptions := min (x.interruptions + 1) 65535 } := by
  rw [controlledOpen_sessions, enteredSessions_shore, PerBerth.get_set_self]
  · rfl
  · rw [State.updSeq_self]
    exact h
  · nofun

/-- Settles O36. -/
theorem timersThatOpen : Obligations.TimersThatOpen := by
  refine ⟨fun x => ⟨judgesOverload_iff x, judgesReverse_iff x, isParallel_iff x, isWatching_iff x, isClosed_iff x,
    isActive_iff x, hasSetpoint_iff x⟩, fun b s => ⟨fun expired state => ?_, fun expired state => ?_,
    fun expired judges => ?_⟩⟩
  · obtain ⟨opens, opened⟩ := controlledOpen_opens b .handoverTimeout s (by rcases state with h | h <;> rw [h] <;> rfl)
    exact ⟨_, exec_expired_in rfl _ _ rfl expired (by rcases state with h | h <;> rw [h] <;> rfl), opens, opened,
      controlledOpen_keeps _ (by rcases state with h | h <;> rw [h] <;> nofun)⟩
  · obtain ⟨opens, opened⟩ := controlledOpen_opens b .overload s (by rcases state with h | h <;> rw [h] <;> rfl)
    refine ⟨controlledOpen b .overload s, ?_, opens, opened,
      controlledOpen_keeps _ (by rcases state with h | h <;> rw [h] <;> nofun)⟩
    rw [exec_expired_in rfl _ _ rfl expired (by rcases state with h | h <;> rw [h] <;> rfl)]
    exact congrArg _ (overloadExpired_parallel state)
  · have closed := (judgesReverse_iff _).mp judges
    obtain ⟨opens, opened⟩ := controlledOpen_opens b .reversePower s (by
      revert closed
      cases (s.seq.get b).state <;> decide)
    exact ⟨_, exec_expired_in rfl _ _ rfl expired judges, opens, opened, controlledOpen_keeps _, controlledOpen_interrupts _⟩

end Sys2Proof.Machine
end

section
/-! Proofs: timers that trip, and the end of the energise ramp (O37, O38). -/

namespace Sys2Proof.Machine

/-! ## Trips (R118) -/

theorem updSeq_state {s : State} (b : Berth) {f : Seq → Seq} (h : (f (s.seq.get b)).state = (s.seq.get b).state) (c : Berth) :
    ((s.updSeq b f).seq.get c).state = (s.seq.get c).state := by
  by_cases own : c = b
  · rw [own, State.updSeq_self]
    exact h
  · rw [State.updSeq_other s b f c own]

/-- A trip is told from before a step that changes only timers and pulses of the berth as well. -/
theorem State.Trips.of_context {b : Berth} {c : TripCause} {s u t : State} (h : u.Trips b c t)
    (state : ∀ c, (u.seq.get c).state = (s.seq.get c).state) (stale : (u.seq.get b).staleHold = (s.seq.get b).staleHold)
    (held : (u.seq.get b).lostHold = (s.seq.get b).lostHold) (dir : (u.seq.get b).dir = (s.seq.get b).dir)
    (current : (u.seq.get b).current = (s.seq.get b).current) (last : (u.seq.get b).last = (s.seq.get b).last)
    (count : (u.seq.get b).count = (s.seq.get b).count) (now : u.now = s.now) (meas : u.meas = s.meas)
    (page : u.page = s.page) (osc : u.osc = s.osc) (mods : u.mods = s.mods) (prot : u.prot = s.prot)
    (quiet : s.Quiet u) : s.Trips b c t := by
  obtain ⟨stands, cause, bit, jour, done, blocked⟩ := h
  refine ⟨?_, cause, bit, ?_, done.congr current last count, fun m => ?_⟩
  · refine stands.of_context state rfl stale held dir now ?_ ?_ osc mods prot
    · unfold State.feederFresh
      rw [meas]
    · unfold State.isLost
      rw [page]
  · rw [jour, state]
    exact emitEvent_jour quiet _ _ _ _
  · rw [← mods]
    exact blocked m

/-- A trip that follows a change of the berth's Synchronising Unit. -/
theorem trips_after_updSync {b : Berth} {s : State} (c : TripCause) (f : Sync → Sync)
    (h : (s.seq.get b).state ≠ .tripped) : s.Trips b c (enterTripped b c (s.updSync b f)) :=
  (enterTripped_trips b c (s.updSync b f) h).1.of_context (fun _ => rfl) rfl rfl rfl rfl rfl rfl rfl rfl rfl rfl rfl rfl
    (quiet_of rfl rfl rfl)

theorem enterTripped_sync_of {b : Berth} {s : State} (c : TripCause) (h : (s.seq.get b).state ≠ .tripped)
    (watching : (s.seq.get b).state.isWatching = false) : (enterTripped b c s).sync.get b = s.sync.get b :=
  (enterTripped_trips b c s h).2.1.trans (enteredSync_not b .tripped s watching)

theorem enterTripped_after_updSync {b : Berth} {s : State} (c : TripCause) (f : Sync → Sync)
    (h : (s.seq.get b).state ≠ .tripped) (watching : (s.seq.get b).state.isWatching = false) :
    (enterTripped b c (s.updSync b f)).sync.get b = f (s.sync.get b) :=
  (enterTripped_sync_of (s := s.updSync b f) c h watching).trans (State.updSync_self ..)

/-- R119: the session of a berth that trips counts the trip. -/
theorem enterTripped_counts {b : Berth} {s : State} (c : TripCause) (h : (s.seq.get b).state ≠ .tripped)
    (away : (s.seq.get b).state ≠ .shoreOnly) : (enterTripped b c s).sessions.get b =
      (s.sessions.get b).map fun x => { x with trips := min (x.trips + 1) 65535 } := by
  rw [(enterTripped_trips b c s h).2.2, enteredSessions_other b _ s away]

theorem enterTripped_interrupts {b : Berth} {s : State} (c : TripCause) (h : (s.seq.get b).state = .shoreOnly) :
    (enterTripped b c s).sessions.get b = (s.sessions.get b).map fun x =>
      { x with interruptions := min (x.interruptions + 1) 65535, trips := min (x.trips + 1) 65535 } := by
  rw [(enterTripped_trips b c s (by rw [h]; nofun)).2.2, enteredSessions_shore b _ s h (by nofun), PerBerth.get_set_self,
    Option.map_map]
  rfl

theorem overloadExpired_open {b : Berth} {s : State} (h : (s.seq.get b).state = .energising ∨
    (s.seq.get b).state = .energised ∨ (s.seq.get b).state = .matching ∨ (s.seq.get b).state = .armed) :
    overloadExpired b s = enterTripped b .overload s := by
  unfold overloadExpired
  rcases h with h | h | h | h <;> rw [h]

theorem overloadExpired_shore {b : Berth} {s : State} (h : (s.seq.get b).state = .shoreOnly) :
    overloadExpired b s = enterTripped b .overload
      (s.updSync b fun u => { u with closePulse := .stopped, tripPulse := .running 100000 }) := by
  unfold overloadExpired
  rw [h]
  rfl

theorem openFailed_eq (b : Berth) (s : State) : openFailed b s = enterTripped b .openFailed (s.updSync b fun u =>
    { u with openConfirm := .stopped, secondTrip := true, closePulse := .stopped, tripPulse := .running 100000 }) := by
  unfold openFailed issueTrip State.updSync
  dsimp only
  rw [PerBerth.get_set_self, PerBerth.set_set]
  rfl

/-- Settles O37. -/
theorem timersThatTrip : Obligations.TimersThatTrip := by
  refine fun b s => ⟨fun expired energising => ?_, fun expired opening => ?_, fun expired state => ?_,
    fun expired shore => ?_⟩
  · let u := s.updSeq b fun q => { q with energise := .stopped }
    have own : u.seq.get b = { s.seq.get b with energise := .stopped } := State.updSeq_self ..
    have state : (u.seq.get b).state = .energising := by rw [own]; exact energising
    have live : (u.seq.get b).state ≠ .tripped := by rw [state]; nofun
    refine ⟨enterTripped b .energiseFailed u, exec_expired_in rfl _ _ rfl expired (by rw [energising]; rfl), ?_,
      (updSeq_only b _ s).trans (enterTripped_only b _ u), ?_, ?_⟩
    · exact (enterTripped_trips b .energiseFailed u live).1.of_context (updSeq_state b rfl) (by rw [own]) (by rw [own])
        (by rw [own]) (by rw [own]) (by rw [own]) (by rw [own]) rfl rfl rfl rfl rfl rfl (quiet_of rfl rfl rfl)
    · exact enterTripped_sync_of _ live (by rw [state]; rfl)
    · exact enterTripped_counts _ live (by rw [state]; nofun)
  · have live : (s.seq.get b).state ≠ .tripped := by rw [opening]; nofun
    refine ⟨openFailed b s, exec_expired_in rfl _ _ rfl expired (by rw [opening]; rfl), ?_, openFailed_only b s, ?_, ?_⟩ <;>
      rw [openFailed_eq]
    · exact trips_after_updSync _ _ live
    · exact enterTripped_after_updSync _ _ live (by rw [opening]; rfl)
    · exact enterTripped_counts (s := s.updSync b _) _ live (by rw [State.updSync_seq, opening]; nofun)
  · have live : (s.seq.get b).state ≠ .tripped := by rcases state with h | h | h | h <;> rw [h] <;> nofun
    have away : (s.seq.get b).state ≠ .shoreOnly := by rcases state with h | h | h | h <;> rw [h] <;> nofun
    have judges : (s.seq.get b).state.judgesOverload = true := by rcases state with h | h | h | h <;> rw [h] <;> rfl
    have sync := (enterTripped_trips b .overload s live).2.1
    refine ⟨enterTripped b .overload s, ?_, (enterTripped_trips b .overload s live).1, enterTripped_only b _ s, ?_,
      enterTripped_counts _ live away, fun watching => ?_⟩
    · rw [exec_expired_in rfl _ _ rfl expired judges]
      exact congrArg _ (overloadExpired_open state)
    · rw [sync]
      unfold enteredSync
      split <;> rfl
    · rw [sync, enteredSync_watch b .tripped s (by rcases watching with h | h <;> rw [h] <;> rfl) rfl nofun]
      exact ⟨rfl, rfl⟩
  · have live : (s.seq.get b).state ≠ .tripped := by rw [shore]; nofun
    refine ⟨overloadExpired b s, exec_expired_in rfl _ _ rfl expired (by rw [shore]; rfl), ?_, overloadExpired_only b s, ?_,
      ?_⟩ <;> rw [overloadExpired_shore shore]
    · exact trips_after_updSync _ _ live
    · exact enterTripped_after_updSync _ _ live (by rw [shore]; rfl)
    · exact enterTripped_interrupts (s := s.updSync b _) _ shore


/-! ## The end of the energise ramp (R103, R104) -/

/-- The state of a berth whose voltage setpoint has reached nominal. -/
def State.atNominal (b : Berth) (s : State) : State := s.updSeq b fun q => { q with volt := .nominal }

theorem atNominal_seq (b : Berth) (s : State) : (s.atNominal b).seq.get b = { s.seq.get b with volt := .nominal } :=
  State.updSeq_self ..

theorem atNominal_check (b : Berth) (s : State) : (s.atNominal b).energiseCheck b = s.energiseCheck b := by
  unfold State.energiseCheck State.nominalVolt
  rw [atNominal_seq]
  rfl

theorem State.BecomesEnergised.of_atNominal {b : Berth} {s t : State} (h : (s.atNominal b).BecomesEnergised b t) :
    s.BecomesEnergised b t := by
  obtain ⟨same, stands, done, later, first⟩ := h
  rw [atNominal_seq] at done later first
  refine ⟨(updSeq_only b _ s).toSameStation.trans same, ?_, done.congr rfl rfl rfl, fun again => ?_, fun p new profile => ?_⟩
  · exact stands.of_context (updSeq_state b rfl) rfl (by rw [atNominal_seq]) (by rw [atNominal_seq])
      (by rw [atNominal_seq]) rfl rfl rfl rfl rfl rfl
  · obtain ⟨only, rest⟩ := later again
    exact ⟨(updSeq_only b _ s).trans only, rest⟩
  · obtain ⟨mark, counter, jour, opened⟩ := first p new profile
    exact ⟨mark, counter, jour.trans (tellConnected_jour t.sessions rfl rfl rfl rfl), opened⟩

theorem putBit_bit (n i : Nat) (v : Bool) (h : i < 32) : (putBit n v).getLsbD i = (v && decide (n = i)) := by
  unfold putBit
  cases v
  · simp
  · rw [if_pos rfl, Nat.one_shiftLeft, BitVec.getLsbD_ofNat, Nat.testBit_two_pow, Bool.true_and]
    simp [h]

theorem moduleMask_bit (b : Berth) (s : State) (m : ModuleId) :
    (s.moduleMask b).getLsbD m.num = (s.mods.get m).serves b := by
  unfold State.moduleMask ModuleId.list
  have small : m.num < 32 := by cases m <;> decide
  simp only [List.foldl, BitVec.getLsbD_or, putBit_bit _ _ _ small]
  cases m <;> simp [ModuleId.num]

theorem nextSessionNumber_eq (n : BitVec 16) :
    nextSessionNumber n = if n.toNat = 65535 then 1 else n + 1 := by
  unfold nextSessionNumber
  refine if_congr ⟨fun h => by rw [h]; rfl, fun h => BitVec.eq_of_toNat_eq h⟩ rfl rfl

/-- Settles O38. -/
theorem energiseRampEndsInCheck : Obligations.EnergiseRampEndsInCheck := by
  intro b s us rising reached state
  have due : exec (.energiseRampComplete b) s = .next (checkEnergising b (s.atNominal b)) :=
    exec_due rfl ((Bool.and_eq_true _ _).mpr ⟨(energiseDue_iff s b).mpr ⟨us, rising, reached⟩, beq_iff_eq.mpr state⟩)
  have at_ : ((s.atNominal b).seq.get b).state = .energising := by rw [atNominal_seq]; exact state
  rw [due]
  refine ⟨energiseCheck_iff b s, fun fails => ?_, fun passes => ?_, nextSessionNumber_eq _, moduleMask_bit b s⟩
  · rw [checkEnergising_fails]
    · rfl
    · rintro ⟨-, -, check⟩
      rw [atNominal_check, fails] at check
      cases check
  · refine ⟨becomeEnergised b (s.atNominal b), ?_, (becomeEnergised_becomes at_).of_atNominal⟩
    rw [checkEnergising_passes at_ (by rw [atNominal_seq]) (by rw [atNominal_check]; exact passes)]

end Sys2Proof.Machine
end

section
/-! Proofs: shares and command records (O33, O34). -/

namespace Sys2Proof.Machine

/-! ## Capacities as sums (R6) -/

/-- What a walk over a list adds where a test holds. -/
theorem foldl_where {α : Type} (p : α → Bool) (f : α → Nat) (l : List α) (n : Nat) :
    l.foldl (fun a x => if p x = true then a + f x else a) n = n + (l.map fun x => if p x = true then f x else 0).sum := by
  induction l generalizing n with
  | nil => rfl
  | cons x l ih =>
    rw [List.foldl_cons, ih, List.map_cons, List.sum_cons]
    split <;> omega

theorem sumRatings_eq (s : State) (p : Module → Bool) : s.sumRatings p =
    (ModuleId.list.map fun m => if p (s.mods.get m) = true then (s.mods.get m).rating else 0).sum := by
  unfold State.sumRatings
  rw [foldl_where (fun m => p (s.mods.get m)) (fun m => (s.mods.get m).rating), Nat.zero_add]

theorem healthyFor_iff (b : Berth) (r : Module) : r.healthyFor b = true ↔
    r.standing = .assigned b .running ∧ (r.latest.map (·.state)) = some .running := by
  unfold Module.healthyFor
  rw [Bool.and_eq_true, beq_iff_eq]
  refine and_congr_right fun _ => ?_
  cases r.latest with
  | none => exact iff_of_false Bool.false_ne_true nofun
  | some x => exact beq_iff_eq.trans ⟨congrArg some, Option.some.inj⟩

theorem standsFor_iff (b : Berth) (r : Module) : r.standsFor b = true ↔
    r.standing = .assigned b .joining ∨ r.standing = .assigned b .running ∨ r.standing = .assigned b .retryWaitFast ∨
      r.standing = .assigned b .retryWaitSlow := by
  unfold Module.standsFor
  rcases r.standing with _ | ⟨c, x⟩ | _ | _
  · simp
  · cases x <;> simp [RunState.stands]
  · simp
  · simp

theorem demand_eq (s : State) (b : Berth) : s.demand b = ((s.seq.get b).profile.map (·.demand)).getD 0 := by
  unfold State.demand
  cases (s.seq.get b).profile <;> rfl

theorem nominalVolt_eq (s : State) (b : Berth) :
    s.nominalVolt b = ((s.seq.get b).profile.map (·.nominalVolt)).getD 0 := by
  unfold State.nominalVolt
  cases (s.seq.get b).profile <;> rfl

/-! ## The lowest healthy module -/

theorem mem_modules (m : ModuleId) : m ∈ ModuleId.list := by cases m <;> decide

theorem modules_ascend : ModuleId.list.Pairwise fun a c => a.num < c.num := by decide

theorem ModuleId.num_inj {a c : ModuleId} (h : a.num = c.num) : a = c := by
  revert h
  cases a <;> cases c <;> decide

/-- The first module of the list that a test picks is the one with the lowest number. -/
theorem find_module {p : ModuleId → Bool} {m : ModuleId} (h : ModuleId.list.find? p = some m) :
    p m = true ∧ ∀ k : ModuleId, k.num < m.num → p k = false := by
  obtain ⟨picked, before, after, split, fail⟩ := List.find?_eq_some_iff_append.mp h
  refine ⟨picked, fun k low => ?_⟩
  have ascend := modules_ascend
  have there := mem_modules k
  rw [split] at ascend there
  have above := (List.pairwise_cons.mp (List.pairwise_append.mp ascend).2.1).1
  rcases List.mem_append.mp there with early | late
  · exact (Bool.not_eq_true' _).mp (fail k early)
  · rcases List.mem_cons.mp late with same | late
    · exact absurd (same ▸ low) (Nat.lt_irrefl _)
    · exact absurd (above k late) (Nat.lt_asymm low)

theorem firstHealthy_iff (s : State) (b : Berth) (m : ModuleId) : s.firstHealthy b = some m ↔
    (s.mods.get m).healthyFor b = true ∧ ∀ k : ModuleId, k.num < m.num → (s.mods.get k).healthyFor b = false := by
  refine ⟨find_module, fun ⟨healthy, lowest⟩ => ?_⟩
  unfold State.firstHealthy
  rcases Option.eq_none_or_eq_some (ModuleId.list.find? fun k => (s.mods.get k).healthyFor b) with none | ⟨k, first⟩
  · exact absurd healthy (List.find?_eq_none.mp none m (mem_modules m))
  · obtain ⟨picked, low⟩ := find_module first
    rw [first]
    rcases Nat.lt_trichotomy k.num m.num with less | same | more
    · rw [lowest k less] at picked
      cases picked
    · rw [ModuleId.num_inj same]
    · rw [low m more] at healthy
      cases healthy

/-! ## Shares (R17) -/

/-- Rounding down each part of a product does not make the sum larger. -/
theorem sum_proportion_le (p h : Nat) (l : List Nat) : (l.map fun r => p * r / h).sum ≤ p * l.sum / h := by
  induction l with
  | nil => exact Nat.zero_le _
  | cons r l ih =>
    rw [List.map_cons, List.sum_cons, List.sum_cons, Nat.mul_add]
    exact (Nat.add_le_add_left ih _).trans (Nat.div_add_div_le_add_div ..)

/-- R17: the part of a setpoint of `p` kW that a healthy module takes before the remainder is given. -/
def State.partOf (s : State) (b : Berth) (p : Nat) (m : ModuleId) : Nat :=
  if (s.mods.get m).healthyFor b = true then proportion p (s.healthy b) (s.mods.get m).rating else 0

theorem shareRemainder_eq (s : State) (b : Berth) (p : Nat) :
    s.shareRemainder b p (s.healthy b) = p - (ModuleId.list.map (s.partOf b p)).sum := by
  unfold State.shareRemainder
  rw [foldl_where (fun m => (s.mods.get m).healthyFor b) (fun m => proportion p (s.healthy b) (s.mods.get m).rating),
    Nat.zero_add]
  rfl

theorem sum_partOf_le (s : State) (b : Berth) (p : Nat) (h : 0 < s.healthy b) :
    (ModuleId.list.map (s.partOf b p)).sum ≤ p := by
  have part : s.partOf b p =
      fun m => p * (if (s.mods.get m).healthyFor b = true then (s.mods.get m).rating else 0) / s.healthy b := by
    funext m
    unfold State.partOf proportion
    rw [if_neg (Nat.ne_of_gt h)]
    split
    · rfl
    · rw [Nat.mul_zero, Nat.zero_div]
  have bound := sum_proportion_le p (s.healthy b)
    (ModuleId.list.map fun m => if (s.mods.get m).healthyFor b = true then (s.mods.get m).rating else 0)
  rw [← sumRatings_eq s (Module.healthyFor b), List.map_map] at bound
  rw [part]
  exact bound.trans_eq (Nat.mul_div_cancel p h)

theorem exists_first_healthy {s : State} {b : Berth} (h : 0 < s.healthy b) : ∃ m, s.firstHealthy b = some m := by
  rcases Option.eq_none_or_eq_some (s.firstHealthy b) with none | some
  · have out := List.find?_eq_none.mp none
    have zero : s.healthy b = 0 := by
      unfold State.healthy
      rw [sumRatings_eq]
      exact List.sum_eq_zero fun x there => by
        obtain ⟨m, at_, e⟩ := List.mem_map.mp there
        rw [← e, if_neg (out m at_)]
    omega
  · exact some

theorem shareOf_follow {s : State} {b : Berth} {k : ModuleId} (m : ModuleId)
    (follow : (s.seq.get b).state.moduleMode = .follow) (first : s.firstHealthy b = some k) : s.shareOf b m =
      (s.partOf b (s.seq.get b).wholeKw m : Int) +
        if m = k then (s.shareRemainder b (s.seq.get b).wholeKw (s.healthy b) : Int) else 0 := by
  unfold State.shareOf State.partOf
  dsimp only
  by_cases healthy : (s.mods.get m).healthyFor b = true
  · rw [if_pos ⟨follow, healthy⟩, if_pos healthy, first]
    simp only [Option.some.injEq, eq_comm]
  · rw [if_neg fun h => healthy h.2, if_neg healthy]
    have other : m ≠ k := by
      rintro rfl
      exact healthy ((firstHealthy_iff s b m).mp first).1
    rw [if_neg other]
    rfl

theorem sum_at_one (k : ModuleId) (x : Int) : (ModuleId.list.map fun m => if m = k then x else 0).sum = x := by
  cases k <;> simp [ModuleId.list]

theorem shares_sum {s : State} {b : Berth} (follow : (s.seq.get b).state.moduleMode = .follow) (h : 0 < s.healthy b) :
    (ModuleId.list.map fun m => s.shareOf b m).sum = (s.seq.get b).wholeKw := by
  obtain ⟨k, first⟩ := exists_first_healthy h
  have le := sum_partOf_le s b (s.seq.get b).wholeKw h
  have shares : (ModuleId.list.map fun m => s.shareOf b m) = ModuleId.list.map fun m =>
      (s.partOf b (s.seq.get b).wholeKw m : Int) +
        if m = k then (s.shareRemainder b (s.seq.get b).wholeKw (s.healthy b) : Int) else 0 :=
    List.map_congr_left fun m _ => shareOf_follow m follow first
  have parts : (ModuleId.list.map fun m => (s.partOf b (s.seq.get b).wholeKw m : Int)).sum =
      ((ModuleId.list.map (s.partOf b (s.seq.get b).wholeKw)).sum : Nat) := by
    rw [Nat.cast_list_sum, List.map_map]
    rfl
  rw [shares, List.sum_map_add, parts, sum_at_one, shareRemainder_eq]
  omega

/-- Settles O33. -/
theorem sharesSumToSetpoint : Obligations.SharesSumToSetpoint := by
  refine fun b s => ⟨⟨?_, ?_, ?_, rfl⟩,
    fun m => ⟨healthyFor_iff b _, standsFor_iff b _, firstHealthy_iff s b m⟩, fun follow h => ⟨shares_sum follow h, ?_⟩,
    fun m unhealthy => ?_, fun other m => if_neg fun h => other h.1⟩
  · unfold State.healthy
    rw [sumRatings_eq]
    exact congrArg List.sum (List.map_congr_left fun m _ => if_congr (healthyFor_iff b _) rfl rfl)
  · unfold State.standingCap
    rw [sumRatings_eq]
    exact congrArg List.sum (List.map_congr_left fun m _ => if_congr (standsFor_iff b _) rfl rfl)
  · unfold State.bound
    rw [demand_eq]
  · intro m healthy other
    obtain ⟨k, first⟩ := exists_first_healthy h
    rw [shareOf_follow m follow first, if_neg (by rintro rfl; exact other first), Int.add_zero]
    unfold State.partOf proportion
    rw [if_pos healthy, if_neg (Nat.ne_of_gt h)]
  · refine if_neg fun h => ?_
    rw [unhealthy] at h
    cases h.2

/-! ## Command records (R18, R20) -/

theorem fields_two (x y : Word) : fields [x, y] = x ||| y :=
  congrArg (· ||| y) BitVec.zero_or

theorem inHold_iff (s : State) : s.inHold = true ↔ s.resetLow = true ∨ ∃ n, s.tripHold = .running n := by
  unfold State.inHold
  rw [Bool.or_eq_true]
  refine or_congr_right ?_
  cases s.tripHold <;> simp [Timer.isRunning]

theorem cmdWord_eq (s : State) (m : ModuleId) {i : Nat} (h : i < 8) :
    s.cmdWord (8 * m.num + i) = (s.commandRecord m).getD i 0 := by
  have place : (8 * m.num + i) / 8 = m.num := by omega
  have word : (8 * m.num + i) % 8 = i := by omega
  have found : ModuleId.ofNat? m.num = some m := by cases m <;> rfl
  unfold State.cmdWord
  rw [place, word, found]
  rfl

theorem commandRecord_off {s : State} {m : ModuleId} (h : s.inHold = true ∨ (s.mods.get m).mode = .off) :
    s.commandRecord m = [0, 0, 0, 0, 0, 0, 0, 0] := by
  unfold State.commandRecord
  dsimp only
  rcases h with hold | off
  · rw [hold]
  · rw [off]
    cases s.inHold <;> rfl

/-- The record of a module assigned to berth `b` outside a hold, by its commanded mode. -/
theorem commandRecord_live {s : State} {m : ModuleId} {b : Berth} (free : s.inHold = false)
    (h : (s.mods.get m).standing.berth? = some b) :
    ((s.mods.get m).mode = .blocked → s.commandRecord m = [fields [put 0 2 1, put 4 2 b.num], 0, 0, s.now, 0, 0, 0, 0]) ∧
      ((s.mods.get m).mode = .form → s.commandRecord m = liveRecord s b (s.mods.get m) (put 0 32 (s.mods.get m).rating)) ∧
      ((s.mods.get m).mode = .follow →
        s.commandRecord m = liveRecord s b (s.mods.get m) (putInt 0 32 (s.mods.get m).share)) := by
  unfold State.commandRecord
  dsimp only
  refine ⟨fun mode => ?_, fun mode => ?_, fun mode => ?_⟩ <;> rw [free, mode, h] <;> rfl

theorem liveRecord_eq {s : State} {b : Berth} {r : Module} {n : Nat} (power : Word) (h : r.mode.code = n) :
    liveRecord s b r power =
      [put 0 2 n ||| put 4 2 b.num, put 0 32 ((s.osc.get b).freq / 1000000),
        put 0 16 ((s.osc.get b).phase / 30517578125), s.now, put 0 32 (s.voltSetpoint b), power,
        put 0 32 (r.rating * 1000000 / (1732 * s.nominalVolt b)), 0] := by
  unfold liveRecord
  rw [h, fields_two]
  rfl

/-- Settles O34. -/
theorem commandRecordShowsDrive : Obligations.CommandRecordShowsDrive := by
  refine ⟨fun s m i => cmdWord_eq s m, inHold_iff, fun s b nominal ramp named ramped => ?_, fun s m b r =>
    ⟨commandRecord_off, fun free standing => ?_⟩⟩
  · rw [← nominalVolt_eq] at named
    subst named ramped
    refine ⟨rfl, fun h => ?_, fun h => ?_, fun us h => ?_, fun us h => ?_⟩ <;> unfold State.voltSetpoint <;> rw [h] <;> rfl
  · obtain ⟨blocked, form, follow⟩ := commandRecord_live (b := b) free (by rw [standing]; rfl)
    refine ⟨fun mode => ?_, fun mode => ?_, fun mode => ?_⟩
    · rw [blocked mode, fields_two]
    · rw [form mode, liveRecord_eq (n := 2) _ (by rw [mode]; rfl)]
    · rw [follow mode, liveRecord_eq (n := 3) _ (by rw [mode]; rfl)]

end Sys2Proof.Machine
end

section
/-! Proofs: allocation, a try of the pool, and the end of a retry wait (O32, O31). -/

namespace Sys2Proof.Machine

/-! ## Allocation (R7) -/

/-- What is taken is the shortest run from the front whose ratings reach the need. -/
theorem takeDemand_some {n : Nat} {l : List (ModuleId × Nat)} {ms : List ModuleId} {rest : List (ModuleId × Nat)}
    (h : takeDemand n l = some (ms, rest)) : ∃ k, k ≤ l.length ∧ ms = (l.take k).map (·.1) ∧ rest = l.drop k ∧
      n ≤ ((l.take k).map (·.2)).sum ∧ ∀ j, j < k → ((l.take j).map (·.2)).sum < n := by
  induction l generalizing n ms with
  | nil =>
    cases n with
    | zero =>
      obtain ⟨rfl, rfl⟩ := Prod.mk.inj (Option.some.inj h)
      exact ⟨0, Nat.le_refl 0, rfl, rfl, Nat.zero_le _, nofun⟩
    | succ n => cases h
  | cons x l ih =>
    cases n with
    | zero =>
      obtain ⟨rfl, rfl⟩ := Prod.mk.inj (Option.some.inj h)
      exact ⟨0, Nat.zero_le _, rfl, rfl, Nat.zero_le _, nofun⟩
    | succ n =>
      unfold takeDemand at h
      split at h
      next taken left later =>
        obtain ⟨rfl, rfl⟩ := Prod.mk.inj (Option.some.inj h)
        obtain ⟨k, le, first, last, reach, short⟩ := ih later
        refine ⟨k + 1, Nat.succ_le_succ le, by rw [first]; rfl, last, ?_, fun j low => ?_⟩
        · rw [List.take_succ_cons, List.map_cons, List.sum_cons]
          omega
        · cases j with
          | zero => exact Nat.succ_pos n
          | succ j =>
            have before := short j (Nat.lt_of_succ_lt_succ low)
            rw [List.take_succ_cons, List.map_cons, List.sum_cons]
            omega
      next => cases h

theorem takeDemand_none {n : Nat} {l : List (ModuleId × Nat)} (h : takeDemand n l = none) :
    ∀ k, ((l.take k).map (·.2)).sum < n := by
  induction l generalizing n with
  | nil =>
    intro k
    cases n with
    | zero => cases h
    | succ n =>
      rw [List.take_nil]
      exact Nat.succ_pos n
  | cons x l ih =>
    intro k
    cases n with
    | zero => cases h
    | succ n =>
      unfold takeDemand at h
      split at h
      next => cases h
      next later =>
        cases k with
        | zero => exact Nat.succ_pos n
        | succ k =>
          have rest := ih later k
          rw [List.take_succ_cons, List.map_cons, List.sum_cons]
          omega

theorem allocate_some {l : List (ModuleId × Nat)} {demand reserve : Nat} {ms : List ModuleId}
    (h : allocate l demand reserve = some ms) : ∃ k, k + reserve ≤ l.length ∧ ms = (l.take (k + reserve)).map (·.1) ∧
      demand ≤ ((l.take k).map (·.2)).sum ∧ ∀ j, j < k → ((l.take j).map (·.2)).sum < demand := by
  unfold allocate at h
  split at h
  next => cases h
  next taken rest found =>
    obtain ⟨k, le, first, last, reach, short⟩ := takeDemand_some found
    split at h
    next enough =>
      rw [last, List.length_drop] at enough
      refine ⟨k, by omega, ?_, reach, short⟩
      rw [← Option.some.inj h, first, last, List.take_add, List.map_append]
    next => cases h

theorem allocate_none {l : List (ModuleId × Nat)} {demand reserve : Nat} (h : allocate l demand reserve = none) (k : Nat)
    (le : k + reserve ≤ l.length) : ((l.take k).map (·.2)).sum < demand := by
  unfold allocate at h
  split at h
  next out => exact takeDemand_none out k
  next taken rest found =>
    obtain ⟨n, -, -, last, -, short⟩ := takeDemand_some found
    split at h
    next => cases h
    next few =>
      rw [last, List.length_drop] at few
      exact short k (by omega)

/-! ## Modules given to a berth (R30) -/

theorem refreshed_eq (s : State) (r : Module) : refreshed s r =
    { r with
      mode := s.commandedMode r.standing
      blankExpiry := if r.mode = s.commandedMode r.standing then r.blankExpiry
        else blankedUntil s.now s.prot.blankingMs r.blankExpiry } := by
  unfold refreshed
  split
  next same => rw [← same]
  next => rfl

theorem enterJoining_eq (b : Berth) (m : ModuleId) (s : State) : enterJoining b m s = s.updMod m fun r =>
    { r with
      standing := .assigned b .joining, staleTimer := .running 100000, mode := (s.seq.get b).state.moduleMode
      blankExpiry := if r.mode = (s.seq.get b).state.moduleMode then r.blankExpiry
        else blankedUntil s.now s.prot.blankingMs r.blankExpiry } := by
  unfold enterJoining
  rw [refreshMode_updMod]
  simp only [refreshed_eq]
  rfl

theorem needs_iff (s : State) (b : Berth) : s.needs b = true ↔
    (s.seq.get b).state.isActive = true ∧ s.standingCap b < s.demand b := by
  unfold State.needs
  rw [Bool.and_eq_true, decide_eq_true_iff]

theorem isCandidate_iff (r : Module) : r.isCandidate = true ↔
    r.present = true ∧ r.standing = .available ∧ r.fit = true := by
  unfold Module.isCandidate
  rw [Bool.and_eq_true, Bool.and_eq_true, beq_iff_eq, and_assoc]

theorem replaceWith_eq (b : Berth) (m : ModuleId) (s : State) : replaceWith b m s =
    if s.needs b = true ∧ (s.mods.get m).isCandidate = true then enterJoining b m s else s := by
  unfold replaceWith
  simp only [Bool.and_eq_true]

/-- R10: a try serves the needs of B0, B1 and B2, and then the claims. -/
theorem tryPool_eq (s : State) :
    tryPool s = serveClaims (serveNeed .b2 (serveNeed .b1 (serveNeed .b0 s))).claims
      (serveNeed .b2 (serveNeed .b1 (serveNeed .b0 s))) := by
  have needs : serveNeeds none s = serveNeed .b2 (serveNeed .b1 (serveNeed .b0 s)) := by
    unfold serveNeeds forBerths
    simp only [reduceCtorEq, if_false]
  unfold tryPool tryPoolBut
  rw [needs]

/-- Settles O32. -/
theorem allocationIsAllOrNothing : Obligations.AllocationIsAllOrNothing := by
  refine ⟨fun cands demand reserve => ⟨fun ms => allocate_some, allocate_none⟩, fun s demand reserve => rfl, needs_iff,
    fun s m => isCandidate_iff _, fun s b m => enterJoining_eq b m s, fun s b => ⟨demand_eq s b,
      enterState_stands b .energising s, enterState_only b .energising s, ?_⟩, fun s b m => replaceWith_eq b m s,
    fun s => ⟨_, rfl, tryPool_eq s⟩, fun s => ⟨rfl, fun c cs => ⟨fun none => ?_, fun ms some => ?_⟩⟩⟩
  · rw [enterState_seq, PerBerth.get_set_self]
    rfl
  · unfold serveClaims
    rw [none]
  · rw [serveClaims]
    rw [some]
    rfl

/-! ## What a try leaves of a module -/

/-- A module before and after a try: it keeps its faults and retries, joins a berth only from AVAILABLE, with its staleness
timer started, and is left alone where it is LOCKED_OUT or OUT_OF_SERVICE. -/
structure Module.Joined (r x : Module) : Prop where
  standing : x.standing = r.standing ∨ r.standing = .available ∧ ∃ c, x.standing = .assigned c .joining
  staleTimer : x.staleTimer = r.staleTimer ∨ (∃ c, x.standing = .assigned c .joining) ∧ x.staleTimer = .running 100000
  away : r.standing.berth? = none → r.standing ≠ .available → x = r
  retryWait : x.retryWait = r.retryWait
  retryWindow : x.retryWindow = r.retryWindow
  fastCount : x.fastCount = r.fastCount
  slowCount : x.slowCount = r.slowCount
  returning : x.returning = r.returning
  deglitch : x.deglitch = r.deglitch

namespace Module.Joined

theorem refl (r : Module) : r.Joined r := ⟨.inl rfl, .inl rfl, fun _ _ => rfl, rfl, rfl, rfl, rfl, rfl, rfl⟩

theorem trans {r x y : Module} (h : r.Joined x) (k : x.Joined y) : r.Joined y where
  standing := by
    rcases h.standing with same | ⟨free, c, joined⟩
    · rw [← same]
      exact k.standing
    · rcases k.standing with same | ⟨again, -⟩
      · exact .inr ⟨free, c, same.trans joined⟩
      · rw [joined] at again
        cases again
  staleTimer := by
    rcases k.staleTimer with same | joined
    · rcases h.staleTimer with before | ⟨⟨c, joined⟩, started⟩
      · exact .inl (same.trans before)
      · rcases k.standing with stays | ⟨free, -⟩
        · exact .inr ⟨⟨c, stays.trans joined⟩, same.trans started⟩
        · rw [joined] at free
          cases free
    · exact .inr joined
  away nowhere busy := by
    have same := h.away nowhere busy
    rw [k.away (by rw [same]; exact nowhere) (by rw [same]; exact busy), same]
  retryWait := k.retryWait.trans h.retryWait
  retryWindow := k.retryWindow.trans h.retryWindow
  fastCount := k.fastCount.trans h.fastCount
  slowCount := k.slowCount.trans h.slowCount
  returning := k.returning.trans h.returning
  deglitch := k.deglitch.trans h.deglitch

theorem of_drive {r x : Module} (h : r.SameButDrive x) (away : r.standing.berth? = none → x = r) : r.Joined x := by
  have joined (mode : CmdMode) (share : Int) (expiry : Option Word)
      (away : r.standing.berth? = none → { r with mode := mode, share := share, blankExpiry := expiry } = r) :
      r.Joined { r with mode := mode, share := share, blankExpiry := expiry } :=
    ⟨.inl rfl, .inl rfl, fun nowhere _ => away nowhere, rfl, rfl, rfl, rfl, rfl, rfl⟩
  have e : x = { r with mode := x.mode, share := x.share, blankExpiry := x.blankExpiry } := h
  rw [e] at away ⊢
  exact joined _ _ _ away

end Module.Joined

/-- Every module of a state before and after a try. -/
def State.Joins (s t : State) : Prop := ∀ m, (s.mods.get m).Joined (t.mods.get m)

namespace State.Joins

theorem refl (s : State) : s.Joins s := fun _ => .refl _

theorem trans {s t u : State} (h : s.Joins t) (k : t.Joins u) : s.Joins u := fun m => (h m).trans (k m)

theorem of_driven {b : Berth} {s t : State} (h : Driven b s.mods t.mods) : s.Joins t := fun m =>
  .of_drive (h.1 m) fun nowhere => h.2 m (not_serves_of_none nowhere b)

end State.Joins

theorem enterJoining_joins {b : Berth} {m : ModuleId} {s : State}
    (h : (s.mods.get m).standing = .available ∨ (s.mods.get m).standing = .assigned b .joining) :
    s.Joins (enterJoining b m s) := by
  intro k
  by_cases same : k = m
  · rw [same, enterJoining_eq, State.updMod_self]
    refine ⟨h.elim (fun free => .inr ⟨free, b, rfl⟩) fun joined => .inl joined.symm, .inr ⟨⟨b, rfl⟩, rfl⟩,
      fun nowhere busy => ?_, rfl, rfl, rfl, rfl, rfl, rfl⟩
    rcases h with free | joined
    · exact absurd free busy
    · rw [joined] at nowhere
      cases nowhere
  · rw [enterJoining_other b m k s same]
    exact .refl _

theorem replaceWith_joins (b : Berth) (m : ModuleId) (s : State) : s.Joins (replaceWith b m s) := by
  rw [replaceWith_eq]
  split
  next given => exact enterJoining_joins (.inl (isCandidate_available given.2))
  next => exact .refl s

theorem forModules_joins {f : ModuleId → State → State} (h : ∀ m (s : State), s.Joins (f m s)) (s : State) :
    s.Joins (forModules f s) :=
  (((((((h .m0 _).trans (h .m1 _)).trans (h .m2 _)).trans (h .m3 _)).trans (h .m4 _)).trans (h .m5 _)).trans
    (h .m6 _)).trans (h .m7 _)

theorem serveNeeds_joins (skip : Option Berth) (s : State) : s.Joins (serveNeeds skip s) := by
  have serve (b : Berth) (s : State) : s.Joins (if skip = some b then s else serveNeed b s) := by
    split
    · exact .refl s
    · exact forModules_joins (replaceWith_joins b) s
  exact ((serve .b0 _).trans (serve .b1 _)).trans (serve .b2 _)

theorem assignAll_joins {b : Berth} {ms : List ModuleId} {s : State} (h : s.Given b ms) :
    s.Joins (assignAll b ms s) := by
  induction ms generalizing s with
  | nil => exact .refl s
  | cons m ms ih =>
    exact (enterJoining_joins (h m List.mem_cons_self)).trans
      (ih (enterJoining_given fun k at_ => h k (List.mem_cons_of_mem _ at_)))

theorem enterState_joins (b : Berth) (new : BerthState) (s : State) : s.Joins (enterState b new s) := by
  obtain ⟨ms, driven, e⟩ := enterState_spec b new s
  rw [e]
  exact .of_driven driven

theorem serveClaims_joins (cs : List Claim) (s : State) : s.Joins (serveClaims cs s) := by
  induction cs generalizing s with
  | nil => exact fun _ => .refl _
  | cons c cs ih =>
    unfold serveClaims
    split
    next => exact fun _ => .refl _
    next ms found =>
      have given : State.Given c.berth { s with claims := cs } ms :=
        fun m at_ => .inl (allocation_available found m at_)
      have assigned : s.Joins (assignAll c.berth ms { s with claims := cs }) := assignAll_joins given
      exact (assigned.trans (enterState_joins c.berth .energising _)).trans (ih _)

theorem tryPoolBut_joins (skip : Option Berth) (s : State) : s.Joins (tryPoolBut skip s) :=
  (serveNeeds_joins skip s).trans (serveClaims_joins _ _)

theorem tryPool_joins (s : State) : s.Joins (tryPool s) := tryPoolBut_joins none s

/-! ## The end of a retry wait (R33) -/

theorem releaseModule_updMod (m : ModuleId) (s : State) : releaseModule m s = s.updMod m fun r =>
    { r with
      standing := .available, returning := false, share := 0, mode := .off, retryWait := .stopped, fastCount := 0
      slowCount := 0, retryWindow := .stopped, blankExpiry := none } := by
  unfold releaseModule
  rw [leaveBerth_eq, State.updMod_updMod]
  simp only [refreshed_eq]
  rfl

theorem restartModule_updMod (b : Berth) (m : ModuleId) (s : State) : restartModule b m s = s.updMod m fun r =>
    { r with
      standing := .assigned b .joining, returning := true, retryWait := .stopped, retryWindow := .running 60000000
      staleTimer := .running 100000, mode := (s.seq.get b).state.moduleMode
      blankExpiry := if r.mode = (s.seq.get b).state.moduleMode then r.blankExpiry
        else blankedUntil s.now s.prot.blankingMs r.blankExpiry } := by
  unfold restartModule
  rw [enterJoining_eq, State.updMod_updMod]
  rfl

theorem retryWaitEnd_active {b : Berth} {r : RunState} {m : ModuleId} {s : State}
    (standing : (s.mods.get m).standing = .assigned b r) (active : (s.seq.get b).state.isActive = true) :
    retryWaitEnd m s = restartModule b m s := by
  unfold retryWaitEnd
  rw [standing]
  exact if_pos active

theorem retryWaitEnd_released {b : Berth} {r : RunState} {m : ModuleId} {s : State}
    (standing : (s.mods.get m).standing = .assigned b r) (idle : (s.seq.get b).state.isActive = false) :
    retryWaitEnd m s = tryPool (releaseModule m s) := by
  unfold retryWaitEnd
  rw [standing]
  exact if_neg (by rw [idle]; nofun)

theorem blankedUntil_eq (now : Word) {ms : Nat} (old : Option Word) (h : ms ≠ 0) :
    (old = none → blankedUntil now ms old = some (now + BitVec.ofNat 32 (ms * 1000))) ∧
      ∀ x, old = some x → blankedUntil now ms old = some (if 0 < (now + BitVec.ofNat 32 (ms * 1000) - x).toInt then
        now + BitVec.ofNat 32 (ms * 1000) else x) := by
  unfold blankedUntil
  rw [if_neg h]
  refine ⟨fun none => ?_, fun x some => ?_⟩
  · rw [none]
    rfl
  · rw [some]
    exact (apply_ite Option.some _ _ _).symm

/-- Settles O31. -/
theorem retryWaitRestartsModule : Obligations.RetryWaitRestartsModule := by
  refine ⟨fun now ms old => ⟨fun zero => if_pos zero, fun some e at_ => ?_⟩, fun m s b r expired standing =>
    ⟨fun active => ?_, fun idle => ?_⟩⟩
  · rw [at_]
    exact blankedUntil_eq now old some
  · have restarted := (retryWaitEnd_active standing active).trans (restartModule_updMod b m s)
    exact ⟨_, (exec_expired rfl _ rfl expired).trans (congrArg Host.Outcome.next restarted), rfl⟩
  · have released : retryWaitEnd m s = tryPool (s.updMod m fun r =>
        { r with
          standing := .available, returning := false, share := 0, mode := .off, retryWait := .stopped, fastCount := 0
          slowCount := 0, retryWindow := .stopped, blankExpiry := none }) := by
      rw [retryWaitEnd_released standing idle, releaseModule_updMod]
    have joined := tryPool_joins (releaseModule m s) m
    have report := tryPool_reports (releaseModule m s) m
    rw [releaseModule_updMod] at joined report
    rw [State.updMod_self] at joined report
    refine ⟨_, exec_expired rfl _ rfl expired, retryWaitEnd_same m s, released, ?_⟩
    rw [show timedEffect (.retryWaitExpiry m) s = _ from released]
    exact ⟨joined.standing.imp_right And.right, joined.retryWait, joined.retryWindow, joined.fastCount, joined.slowCount,
      joined.returning, report.latest, joined.deglitch⟩

end Sys2Proof.Machine
end

section
/-! Proofs: module status records, counted faults and the reports that follow (O28 to O30). -/

namespace Sys2Proof.Machine

/-! ## What a status record says (R21) -/

theorem halves_eq (w : Word) : field w 0 16 = w.toNat % 65536 ∧ field w 16 16 = w.toNat / 65536 := by
  have small : w.toNat < 4294967296 := w.isLt
  rw [field_eq, field_eq]
  omega

theorem checkSum_eq (ws : List Word) :
    checkSum ws = (ws.map fun w => w.toNat % 65536 + w.toNat / 65536).sum % 65536 := by
  have fold (n : Nat) : ws.foldl (fun a w => a + field w 0 16 + field w 16 16) n =
      n + (ws.map fun w => w.toNat % 65536 + w.toNat / 65536).sum := by
    induction ws generalizing n with
    | nil => rfl
    | cons w ws ih =>
      obtain ⟨low, high⟩ := halves_eq w
      rw [List.foldl_cons, ih, List.map_cons, List.sum_cons, low, high]
      omega
  unfold checkSum
  rw [fold, Nat.zero_add]

theorem ofCode_state (n : Nat) :
    ModuleState.ofCode n = if n = 2 then .running else if n = 3 then .fault else .ready := by
  unfold ModuleState.ofCode
  split <;> simp_all

theorem exec_status {m : ModuleId} {e : WindowEntry} {ws : List Word} {s : State} (h : s.LinkOpen e ws) :
    exec (.moduleStatusRecord m ws) s =
      .next (passOn (writeItem .link (e.base + 32 * m.num) ws) (statusRecord m ws s)) := by
  obtain ⟨ok, window, takes, length⟩ := h
  exact moduleStatusRecord_next s m e ws ok window takes length

theorem statusRecord_bad {ws : List Word} (m : ModuleId) (s : State) (h : checkSum ws ≠ 0) :
    statusRecord m ws s = s.updMod m fun r => { r with badCount := min (r.badCount + 1) 255 } := by
  unfold statusRecord
  exact if_pos h

theorem statusRecord_repeat {ws : List Word} {m : ModuleId} {s : State} {y : StatusReport} (h : checkSum ws = 0)
    (latest : (s.mods.get m).latest = some y) (same : y.seq = (wordAt ws 0).extractLsb' 16 16) :
    statusRecord m ws s = s := by
  unfold statusRecord
  rw [if_neg fun bad => bad h, latest]
  exact if_pos same

theorem statusRecord_taken {ws : List Word} {m : ModuleId} {s : State} (h : checkSum ws = 0)
    (fresh : ∀ y, (s.mods.get m).latest = some y → y.seq ≠ (wordAt ws 0).extractLsb' 16 16) :
    statusRecord m ws s = acceptStatus m (parseStatus ws) s := by
  unfold statusRecord
  rw [if_neg fun bad => bad h]
  rcases Option.eq_none_or_eq_some (s.mods.get m).latest with none | ⟨y, some⟩
  · rw [none]
  · rw [some]
    exact if_neg (fresh y some)

/-! ## The retry ladder (R31 to R35) -/

/-- R31, R32: a module that begins a retry wait. -/
def Module.waiting (b : Berth) (run : RunState) (delayUs : Nat) (s : State) (r : Module) : Module :=
  { r with
    standing := .assigned b run, deglitch := ⟨0, 0, 0, 0⟩, retryWait := .running delayUs, retryWindow := .stopped
    mode := .blocked
    blankExpiry := if r.mode = .blocked then r.blankExpiry else blankedUntil s.now s.prot.blankingMs r.blankExpiry }

theorem enterRetryWait_eq {run : RunState} (b : Berth) (d : Nat) (m : ModuleId) (s : State)
    (wait : run = .retryWaitFast ∨ run = .retryWaitSlow) :
    enterRetryWait b run d m s = s.updMod m (Module.waiting b run d s) := by
  unfold enterRetryWait
  rw [refreshMode_updMod]
  simp only [refreshed_eq]
  rcases wait with rfl | rfl <;> rfl

/-- R35: a module that is locked out. -/
def Module.lockedOut (r : Module) : Module :=
  { r with
    standing := .lockedOut, returning := false, share := 0, mode := .off, fastCount := 0, slowCount := 0
    retryWait := .stopped, retryWindow := .stopped, blankExpiry := none }

theorem lockOut_eq (b : Berth) (cause : Word) (m : ModuleId) (s : State) : lockOut b cause m s =
    setSummary .moduleLockout (emitEvent .moduleLockout m.num (some b)
      [cause, put 0 32 (s.mods.get m).fastCount, put 0 32 (s.mods.get m).slowCount] (s.updMod m Module.lockedOut)) := by
  unfold lockOut
  dsimp only
  rw [leaveBerth_eq, State.updMod_updMod]
  simp only [refreshed_eq]
  rfl

theorem countedFault_fast {m : ModuleId} {s : State} (b : Berth) (cause : Word)
    (h : (s.mods.get m).fastCount < s.prot.fastCount) : countedFault b cause m s = s.updMod m fun r =>
      Module.waiting b .retryWaitFast (s.prot.fastDelayMs * 1000) s { r with fastCount := r.fastCount + 1 } := by
  unfold countedFault
  dsimp only
  rw [if_pos h, enterRetryWait_eq b _ m _ (.inl rfl), State.updMod_updMod]
  rfl

theorem countedFault_slow {m : ModuleId} {s : State} (b : Berth) (cause : Word)
    (fast : s.prot.fastCount ≤ (s.mods.get m).fastCount) (slow : (s.mods.get m).slowCount < s.prot.slowCount) :
    countedFault b cause m s = s.updMod m fun r =>
      Module.waiting b .retryWaitSlow (s.prot.slowDelayS * 1000000) s { r with slowCount := r.slowCount + 1 } := by
  unfold countedFault
  dsimp only
  rw [if_neg (Nat.not_lt.mpr fast), if_pos slow, enterRetryWait_eq b _ m _ (.inr rfl), State.updMod_updMod]
  rfl

theorem countedFault_lock {m : ModuleId} {s : State} (b : Berth) (cause : Word)
    (fast : s.prot.fastCount ≤ (s.mods.get m).fastCount) (slow : s.prot.slowCount ≤ (s.mods.get m).slowCount) :
    countedFault b cause m s = setSummary .moduleLockout (emitEvent .moduleLockout m.num (some b)
      [cause, put 0 32 (s.mods.get m).fastCount, put 0 32 (s.mods.get m).slowCount] (s.updMod m Module.lockedOut)) := by
  unfold countedFault
  dsimp only
  rw [if_neg (Nat.not_lt.mpr fast), if_neg (Nat.not_lt.mpr slow), lockOut_eq]

theorem lockout_mods (b : Option Berth) (q : Nat) (ws : List Word) (s : State) :
    (setSummary .moduleLockout (emitEvent .moduleLockout q b ws s)).mods = s.mods := by
  rw [setSummary_mods, emitEvent_mods]

/-- Which of the three steps of the ladder a counted fault takes. -/
theorem ladder_cases (m : ModuleId) (s : State) : (s.mods.get m).fastCount < s.prot.fastCount ∨
    s.prot.fastCount ≤ (s.mods.get m).fastCount ∧ (s.mods.get m).slowCount < s.prot.slowCount ∨
    s.prot.fastCount ≤ (s.mods.get m).fastCount ∧ s.prot.slowCount ≤ (s.mods.get m).slowCount := by
  omega

theorem countedFault_staleTimer (b : Berth) (cause : Word) (m : ModuleId) (s : State) :
    ((countedFault b cause m s).mods.get m).staleTimer = (s.mods.get m).staleTimer := by
  rcases ladder_cases m s with fast | ⟨fast, slow⟩ | ⟨fast, slow⟩
  · rw [countedFault_fast b cause fast, State.updMod_self]
    rfl
  · rw [countedFault_slow b cause fast slow, State.updMod_self]
    rfl
  · rw [countedFault_lock b cause fast slow, lockout_mods, State.updMod_self]
    rfl

/-! ## The staleness timer through an accepted record (R22) -/

theorem giveBack_eq (m : ModuleId) (s : State) : giveBack m s = s.updMod m fun r =>
    { refreshed s (r.left .available) with retryWindow := .stopped } := by
  unfold giveBack
  rw [leaveBerth_eq, State.updMod_updMod]

theorem joinRunning_staleTimer (m : ModuleId) (x : StatusReport) (s : State) :
    ((joinRunning m x s).mods.get m).staleTimer = (s.mods.get m).staleTimer := by
  unfold joinRunning
  split
  · split
    · dsimp only
      split
      · rw [giveBack_eq, State.updMod_self, State.updMod_self, refreshed_eq]
        rfl
      · rw [State.updMod_self]
    · rfl
  · rfl

theorem countFlags_staleTimer (m : ModuleId) (f : PerFlag Bool) (s : State) :
    ((countFlags m f s).mods.get m).staleTimer = (s.mods.get m).staleTimer := by
  unfold countFlags
  dsimp only
  split
  · rw [State.updMod_self]
  · split
    · rw [countedFault_staleTimer, State.updMod_self]
    · rw [State.updMod_self]

/-- R107, R115: the context of berth `b` after a report of its healthy capacity. -/
def State.clamped (b : Berth) (s : State) : Seq :=
  let q := (clampRamp (s.bound b) (s.seq.get b)).directed
  Seq.judged (s.overloaded b) (s.reversed b) (s.feederFresh b) (s.prot.overloadMs * 1000)
    { q with sharedKw := q.wholeKw }

theorem capacityReport_spec (b : Berth) (s : State) : ∃ ms, Driven b s.mods ms ∧
    capacityReport b s = { s with mods := ms, seq := s.seq.set b (s.clamped b) } := by
  let u := s.updSeq b (clampRamp (s.bound b))
  obtain ⟨ms, driven, e⟩ := refreshDirection_spec b u
  obtain ⟨ns, again, e'⟩ := recomputeShares_spec b (refreshDirection b u)
  have own : u.seq.get b = clampRamp (s.bound b) (s.seq.get b) := State.updSeq_self ..
  have turned : (refreshDirection b u).seq.get b = (clampRamp (s.bound b) (s.seq.get b)).directed := by
    rw [e, ← own]
    exact PerBerth.get_set_self ..
  rw [turned] at e'
  have meas : (recomputeShares b (refreshDirection b u)).meas = s.meas := by
    rw [recomputeShares_meas, refreshDirection_meas]
    rfl
  have whole : Driven b s.mods (recomputeShares b (refreshDirection b u)).mods := by
    rw [e']
    rw [e] at again
    exact driven.trans again
  have loads := whole.overloaded (s := s) meas b
  have back : (recomputeShares b (refreshDirection b u)).reversed b = s.reversed b := by
    unfold State.reversed State.feederPower
    rw [meas, e', e]
    rfl
  have fresh : (recomputeShares b (refreshDirection b u)).feederFresh b = s.feederFresh b := by
    unfold State.feederFresh
    rw [meas]
  rw [e'] at whole
  refine ⟨ns, whole, ?_⟩
  show judge b (recomputeShares b (refreshDirection b u)) = _
  rw [judge_eq, loads, back, fresh, e', e]
  unfold State.clamped
  dsimp only [u, State.updSeq]
  rw [PerBerth.set_set, PerBerth.set_set, PerBerth.set_set, PerBerth.get_set_self]
  rfl

theorem reportIfChanged_driven (b : Berth) (n : Nat) (s : State) : ∃ ms q, Driven b s.mods ms ∧
    reportIfChanged b n s = { s with mods := ms, seq := s.seq.set b q } := by
  unfold reportIfChanged
  split
  · obtain ⟨ms, driven, e⟩ := recomputeShares_spec b s
    exact ⟨ms, _, driven, e⟩
  · obtain ⟨ms, driven, e⟩ := capacityReport_spec b s
    exact ⟨ms, _, driven, e⟩

theorem SameButDrive_staleTimer {r x : Module} (h : r.SameButDrive x) : x.staleTimer = r.staleTimer := by
  rw [show x = _ from h]

theorem reportFor_staleTimer (o : Option Berth) (m : ModuleId) (s t : State) :
    ((reportFor o s t).mods.get m).staleTimer = (t.mods.get m).staleTimer := by
  cases o with
  | none => rfl
  | some b =>
    obtain ⟨ms, q, driven, e⟩ := reportIfChanged_driven b (s.healthy b) t
    have report : reportFor (some b) s t = { t with mods := ms, seq := t.seq.set b q } := e
    rw [report]
    exact SameButDrive_staleTimer (driven.1 m)

/-- A try leaves a staleness timer of 100 ms at 100 ms. -/
theorem tryPool_staleTimer {m : ModuleId} {s : State} (h : (s.mods.get m).staleTimer = .running 100000) :
    ((tryPool s).mods.get m).staleTimer = .running 100000 :=
  ((tryPool_joins s m).staleTimer).elim (·.trans h) And.right

theorem acceptStatus_staleTimer (m : ModuleId) (x : StatusReport) (s : State) :
    ((acceptStatus m x s).mods.get m).staleTimer = .running 100000 := by
  have reported : ((reportFor (s.mods.get m).standing.berth? s
      (countFlags m x.flags (joinRunning m x (takeStatus m x s)))).mods.get m).staleTimer = .running 100000 := by
    rw [reportFor_staleTimer, countFlags_staleTimer, joinRunning_staleTimer]
    unfold takeStatus
    rw [State.updMod_self]
    rfl
  unfold acceptStatus
  dsimp only
  split
  · exact tryPool_staleTimer reported
  · unfold tryAfterLockout
    split
    · unfold tryIfNeeded
      split
      · exact tryPool_staleTimer reported
      · exact reported
    · exact reported

/-- Settles O28. -/
theorem statusRecordDiscardedOrAccepted : Obligations.StatusRecordDiscardedOrAccepted := by
  refine ⟨fun ws => ⟨checkSum_eq ws, rfl, ofCode_state _⟩, fun m e ws s opened => ⟨fun bad => ?_, fun y good latest same => ?_⟩,
    fun m e ws s opened good fresh => ?_⟩
  · rw [exec_status opened, statusRecord_bad m s bad]
  · rw [exec_status opened, statusRecord_repeat good latest same]
  · have report := acceptStatus_reports m (parseStatus ws) s
    have own := report m
    unfold takeStatus at own report
    rw [State.updMod_self] at own
    refine ⟨acceptStatus m (parseStatus ws) s, ?_, acceptStatus_same m _ s, own.latest, ?_, own.stale, own.fit,
      fun k other => ?_⟩
    · rw [exec_status opened, statusRecord_taken good fresh]
    · exact acceptStatus_staleTimer m _ s
    · have rest := report k
      rw [State.updMod_other _ _ _ _ other] at rest
      exact ⟨rest.latest, rest.fit, rest.stale⟩

end Sys2Proof.Machine
end

section
/-! Proofs: a give-back that ends a blanking (O29). -/

namespace Sys2Proof.Machine

open Sys2Proof.Tests

theorem passOn_mods (i : PassItem) (s : State) : (passOn i s).mods = s.mods := by rw [passOn_busOnly i s]

/-- Module M0 is blanked for 2^30 µs, has one OVERCURRENT counted, and is given back by its next RUNNING record. The
blanking time of PROTECTION, 2,147,484 ms, takes the expiry of the give-back past the half turn of the timebase, so that it
no longer lies ahead: the module is not blanked when the flags are counted. -/
def wrappedBlanking : State :=
  { (reported .joining true (at0 .energised ready)).updMod .m0 fun r =>
      { r with mode := .form, blankExpiry := some 0x40000000, deglitch := ⟨1, 0, 0, 0⟩ } with
    prot := { ready.prot with blankingMs := 2147484 } }

/-- A RUNNING record that shows OVERCURRENT. -/
def overcurrentWords : List Word := statusWords 0x102

theorem wrappedBlanking_open : wrappedBlanking.LinkOpen (entry .moduleStat 0x100700 256 0) overcurrentWords :=
  ⟨test_table_in_order, by decide +kernel, ⟨rfl, rfl⟩, rfl⟩

theorem wrappedBlanking_fresh (y : StatusReport) (h : (wrappedBlanking.mods.get .m0).latest = some y) :
    y.seq ≠ (wordAt overcurrentWords 0).extractLsb' 16 16 := by
  have seq : y.seq = 0 := by rw [← Option.some.inj h]
  rw [seq]
  decide

/-- OVERCURRENT is taken as not shown where the blanking before the record is asked. -/
theorem wrappedBlanking_blanked :
    countedFlags ((wrappedBlanking.mods.get .m0).isBlanked wrappedBlanking.now) (parseStatus overcurrentWords).flags =
      ⟨false, false, false, false⟩ := by decide +kernel

/-- The record leaves the count of OVERCURRENT at 1. -/
theorem wrappedBlanking_counts :
    ((statusRecord .m0 overcurrentWords wrappedBlanking).mods.get .m0).deglitch = ⟨1, 0, 0, 0⟩ := by decide +kernel

/-- Refutes O29: the statement puts no bound on the blanking time. Where it takes a give-back's blanking expiry past the
half turn of the timebase, a module that was blanked is not blanked when its flags are counted, and the count of an
OVERCURRENT that is shown stays as it was, and is not cleared. -/
theorem not_deglitchCountsFlags : ¬ Obligations.DeglitchCountsFlags := by
  rintro ⟨-, -, -, taken⟩
  obtain ⟨u, run, -, -, -, back, -⟩ := taken .m0 _ overcurrentWords wrappedBlanking wrappedBlanking_open (by decide +kernel)
    wrappedBlanking_fresh _ rfl _ wrappedBlanking_blanked.symm _ (fun _ => rfl) _ (fun _ => rfl) _ rfl
  obtain ⟨v, tried, -, -, -, -, -, -, -, -, cleared⟩ := back .b0 rfl (by decide +kernel) rfl (by decide +kernel)
  have same : u.mods = (statusRecord .m0 overcurrentWords wrappedBlanking).mods := by
    rw [exec_status wrappedBlanking_open] at run
    rw [← passOn_mods (writeItem .link _ overcurrentWords) u, next_inj run, passOn_mods]
  have count : (v.mods.get .m0).deglitch = ⟨1, 0, 0, 0⟩ := by
    rw [← wrappedBlanking_counts, ← same, tried, (tryPool_joins v .m0).deglitch]
  rw [count] at cleared
  rcases cleared with h | ⟨-, h⟩
  · exact absurd (congrArg PerFlag.overcurrent h) (by decide)
  · exact absurd (congrArg PerFlag.overcurrent h) (by decide)

end Sys2Proof.Machine
end

section
/-! Proofs: a change of a berth's modules with the report that follows it (R6, R17, R107, R115). -/

namespace Sys2Proof.Machine

/-! ## What a share reads -/

theorem wholeKw_congr {q x : Seq} (h : x.setpoint = q.setpoint) : x.wholeKw = q.wholeKw := by
  unfold Seq.wholeKw
  rw [h]

/-- R17: a share is read from the state and the setpoint of the berth, and from which of its modules are healthy. -/
theorem shareOf_congr {b : Berth} {s t : State} (drive : ∀ m, (s.mods.get m).SameButDrive (t.mods.get m))
    (state : (t.seq.get b).state = (s.seq.get b).state) (setpoint : (t.seq.get b).setpoint = (s.seq.get b).setpoint)
    (m : ModuleId) : t.shareOf b m = s.shareOf b m := by
  have healthy (k : ModuleId) : (t.mods.get k).healthyFor b = (s.mods.get k).healthyFor b := (drive k).healthyFor b
  have rating (k : ModuleId) : (t.mods.get k).rating = (s.mods.get k).rating := (drive k).rating
  have sum := healthy_of_drive drive b
  unfold State.shareOf State.firstHealthy State.shareRemainder
  simp only [healthy, rating, sum, state, wholeKw_congr setpoint]

/-! ## The report (R6, R107) -/

/-- The modules that stay with berth `b` have changed mode at most, with the blanking of that change, and its sequencer
stands as it did. -/
structure State.Moved (b : Berth) (s t : State) : Prop where
  seq : t.seq = s.seq
  now : t.now = s.now
  prot : t.prot = s.prot
  mods : ∀ m, (s.mods.get m).serves b = true → (t.mods.get m).serves b = true →
    (t.mods.get m).share = (s.mods.get m).share ∧ (t.mods.get m).rating = (s.mods.get m).rating ∧
      (t.mods.get m).blankExpiry = if (t.mods.get m).mode ≠ (s.mods.get m).mode then
        blankedUntil s.now s.prot.blankingMs (s.mods.get m).blankExpiry else (s.mods.get m).blankExpiry

/-- A change of one module. -/
theorem moved_updMod {b : Berth} {m : ModuleId} {s : State} {f : Module → Module}
    (h : (f (s.mods.get m)).serves b = true → (f (s.mods.get m)).share = (s.mods.get m).share ∧
      (f (s.mods.get m)).rating = (s.mods.get m).rating ∧
      (f (s.mods.get m)).blankExpiry = if (f (s.mods.get m)).mode ≠ (s.mods.get m).mode then
        blankedUntil s.now s.prot.blankingMs (s.mods.get m).blankExpiry else (s.mods.get m).blankExpiry) :
    s.Moved b (s.updMod m f) where
  seq := rfl
  now := rfl
  prot := rfl
  mods k _ serves := by
    by_cases same : k = m
    · subst same
      rw [State.updMod_self] at serves ⊢
      exact h serves
    · rw [State.updMod_other _ _ _ _ same]
      exact ⟨rfl, rfl, (if_neg fun changed => changed rfl).symm⟩

theorem State.Moved.of_rest {b : Berth} {s t u : State} (h : s.Moved b t) (mods : u.mods = t.mods) (seq : u.seq = t.seq)
    (now : u.now = t.now) (prot : u.prot = t.prot) : s.Moved b u :=
  ⟨seq.trans h.seq, now.trans h.now, prot.trans h.prot, by rw [mods]; exact h.mods⟩

/-- R17: the shares that a report leaves. -/
theorem recomputed_share {b : Berth} {s v : State} {m : ModuleId} (mods : v.mods = (recomputeShares b s).mods)
    (state : (v.seq.get b).state = (s.seq.get b).state) (setpoint : (v.seq.get b).setpoint = (s.seq.get b).setpoint)
    (h : (v.mods.get m).serves b = true) : (v.mods.get m).share = v.shareOf b m := by
  obtain ⟨ms, driven, e⟩ := recomputeShares_spec b s
  have drive (k : ModuleId) : (s.mods.get k).SameButDrive (v.mods.get k) := by
    rw [mods, e]
    exact driven.1 k
  rw [shareOf_congr drive state setpoint, mods]
  exact recomputeShares_share b s m (by rw [← (drive m).serves]; exact h)

/-- A report that finds the healthy capacity as it was recomputes the shares. -/
theorem recomputeShares_reported {b : Berth} {s t : State} (h : s.Moved b t) (same : t.healthy b = s.healthy b) :
    s.Reported b (recomputeShares b t) := by
  obtain ⟨ms, driven, e⟩ := recomputeShares_spec b t
  have healthy : (recomputeShares b t).healthy b = s.healthy b := by
    rw [← same]
    exact Driven.healthy (b := b) (by rw [e]; exact driven) b
  have own : (recomputeShares b t).seq.get b = { s.seq.get b with sharedKw := (s.seq.get b).wholeKw } := by
    rw [e, ← h.seq]
    exact PerBerth.get_set_self ..
  refine ⟨fun _ => own, fun changed => absurd healthy changed, fun m _ after => ?_, fun m before after => ?_⟩
  · exact recomputed_share rfl (by rw [own, h.seq]) (by rw [own, h.seq]) after
  · have serves : (t.mods.get m).serves b = true := by
      rw [e] at after
      rw [← (driven.1 m).serves]
      exact after
    obtain ⟨share, rating, expiry⟩ := h.mods m before serves
    unfold State.Blanked
    rw [recomputeShares_get b t m serves, shared_expiry, shared_mode, shared_share, expiry, h.now, h.prot, share, rating,
      blankedUntil_or, own]
    refine if_congr (or_congr_right ?_) rfl rfl
    exact ⟨.inl, fun big => big.elim id fun turned => absurd rfl turned⟩

theorem clamped_seq {b : Berth} {t v : State} (seq : v.seq.get b = t.clamped b) (bound : v.bound b = t.bound b)
    (load : v.overloaded b = t.overloaded b) (back : v.reversed b = t.reversed b) (fresh : v.feederFresh b = t.feederFresh b)
    (prot : v.prot = t.prot) : v.seq.get b =
      { t.seq.get b with
        target := if (t.seq.get b).state.isParallel = true then v.bound b else (t.seq.get b).target
        setpoint := if (t.seq.get b).state.hasSetpoint = true then min (t.seq.get b).setpoint (v.bound b * 1000000)
          else (t.seq.get b).setpoint
        dir := (v.seq.get b).wantDir, sharedKw := (v.seq.get b).wholeKw
        overload := if (t.seq.get b).state.judgesOverload = true then v.overloadAfter b (t.seq.get b).overload
          else (t.seq.get b).overload
        reverse := if (t.seq.get b).state.judgesReverse = true then v.reverseAfter b (t.seq.get b).reverse
          else (t.seq.get b).reverse } := by
  unfold State.overloadAfter State.reverseAfter
  rw [load, back, fresh, prot, bound, seq]
  unfold State.clamped
  rw [clampRamp_eq]
  rfl

theorem bound_congr {b : Berth} {s t : State} (profile : (t.seq.get b).profile = (s.seq.get b).profile)
    (healthy : t.healthy b = s.healthy b) : t.bound b = s.bound b := by
  unfold State.bound
  rw [demand_eq, demand_eq, profile, healthy]

/-- A report of another healthy capacity. -/
theorem capacityReport_reported {b : Berth} {s t : State} (h : s.Moved b t) (changed : t.healthy b ≠ s.healthy b) :
    s.Reported b (capacityReport b t) := by
  obtain ⟨ms, driven, e⟩ := capacityReport_spec b t
  have drive : Driven b t.mods (capacityReport b t).mods := by rw [e]; exact driven
  have healthy : (capacityReport b t).healthy b = t.healthy b := drive.healthy b
  have own : (capacityReport b t).seq.get b = t.clamped b := by rw [e]; exact PerBerth.get_set_self ..
  have clamp : (t.updSeq b (clampRamp (t.bound b))).seq.get b = clampRamp (t.bound b) (t.seq.get b) := State.updSeq_self ..
  obtain ⟨ns, turned, e'⟩ := refreshDirection_spec b (t.updSeq b (clampRamp (t.bound b)))
  have directed : (refreshDirection b (t.updSeq b (clampRamp (t.bound b)))).seq.get b =
      (clampRamp (t.bound b) (t.seq.get b)).directed := by
    rw [e', ← clamp]
    exact PerBerth.get_set_self ..
  refine ⟨fun same => absurd (healthy.symm.trans same) changed, fun _ => ?_, fun m _ after => ?_, fun m before after => ?_⟩
  · rw [← h.seq]
    refine clamped_seq own (bound_congr (by rw [own]; unfold State.clamped; rw [clampRamp_eq]; rfl) healthy)
      (drive.overloaded (by rw [e]) b) ?_ ?_ ?_ <;> rw [e] <;> rfl
  · refine recomputed_share (s := refreshDirection b (t.updSeq b (clampRamp (t.bound b)))) rfl ?_ ?_ after
    · rw [own, directed]
      rfl
    · rw [own, directed]
      rfl
  · have serves : (t.mods.get m).serves b = true := by
      rw [← (drive.1 m).serves]
      exact after
    obtain ⟨share, rating, expiry⟩ := h.mods m before serves
    have blanks := settle_blanks (b := b) (s := s) (x := t.updSeq b (clampRamp (t.bound b))) h.now h.prot m serves share
      rating expiry
    rw [clamp] at blanks
    unfold State.Blanked
    have dir : ((capacityReport b t).seq.get b).dir = (clampRamp (t.bound b) (t.seq.get b)).wantDir := by
      rw [own]
      rfl
    have before_ : (s.seq.get b).dir = (clampRamp (t.bound b) (t.seq.get b)).dir := by
      rw [clampRamp_eq, h.seq]
    rw [dir, before_]
    exact blanks

/-- R6, R17: a change of modules with the report that follows it. -/
theorem reported_of_moved {b : Berth} {s t : State} (h : s.Moved b t) :
    s.Reported b (reportIfChanged b (s.healthy b) t) := by
  unfold reportIfChanged
  split
  next same => exact recomputeShares_reported h same
  next changed => exact capacityReport_reported h changed

end Sys2Proof.Machine
end

section
/-! Proofs: a module whose status goes stale (O30). -/

namespace Sys2Proof.Machine

/-! ## What a try leaves of the page -/

theorem energiseWith_page (b : Berth) (ms : List ModuleId) (s : State) : (energiseWith b ms s).page = s.page :=
  (enterState_page b .energising _).trans (assignAll_modsOnly b ms s).page

theorem serveClaims_page (cs : List Claim) (s : State) : (serveClaims cs s).page = s.page := by
  induction cs generalizing s with
  | nil => rfl
  | cons c cs ih =>
    unfold serveClaims
    split
    · rfl
    · rw [ih, energiseWith_page]

theorem tryPoolBut_page (skip : Option Berth) (s : State) : (tryPoolBut skip s).page = s.page :=
  (serveClaims_page _ _).trans (serveNeeds_modsOnly skip s).page

theorem tryPool_page (s : State) : (tryPool s).page = s.page := tryPoolBut_page none s

/-! ## A try after a lockout (R10, R13) -/

theorem tryAfterLockout_eq (b : Berth) (m : ModuleId) (s : State) : tryAfterLockout (some b) m s =
    if (s.mods.get m).standing = .lockedOut ∧ s.needs b = true then tryPool s else s := by
  unfold tryAfterLockout
  split
  next c same locked =>
    rw [← Option.some.inj same]
    unfold tryIfNeeded
    exact if_congr ⟨fun needs => ⟨locked, needs⟩, And.right⟩ rfl rfl
  next other => exact (if_neg fun h => other b rfl h.1).symm

/-- A locked out module is left alone. -/
theorem tryAfterLockout_locked {b : Berth} {m : ModuleId} {s : State} (h : (s.mods.get m).standing = .lockedOut) :
    (tryAfterLockout (some b) m s).mods.get m = s.mods.get m := by
  rw [tryAfterLockout_eq]
  split
  · exact (tryPool_joins s m).away (by rw [h]; rfl) (by rw [h]; nofun)
  · rfl

theorem tryAfterLockout_other {b : Berth} {m : ModuleId} {s : State} (h : (s.mods.get m).standing ≠ .lockedOut) :
    tryAfterLockout (some b) m s = s := by
  rw [tryAfterLockout_eq, if_neg fun both => h both.1]

theorem tryAfterLockout_page (b : Berth) (m : ModuleId) (s : State) : (tryAfterLockout (some b) m s).page = s.page := by
  rw [tryAfterLockout_eq]
  split
  · exact tryPool_page s
  · rfl

theorem tryAfterLockout_jour (b : Berth) (m : ModuleId) (s : State) : (tryAfterLockout (some b) m s).jour = s.jour := by
  rw [tryAfterLockout_eq]
  split
  · exact (tryPool_quiet s).jour
  · rfl

/-! ## The report after a counted fault -/

theorem updMod_only {b : Berth} {m : ModuleId} {s : State} (f : Module → Module) (h : (s.mods.get m).serves b = true) :
    s.OnlyBerth b (s.updMod m f) :=
  onlyBerth_of (updMod_modsOnly m f s).same rfl rfl rfl rfl (setBack _ b) (setBack _ b) (setBack _ b) (setBack _ b)
    (setBack _ b) fun k away => State.updMod_other _ _ _ _ fun same => by
      rw [same, h] at away
      cases away

theorem reportIfChanged_modes (b : Berth) (n : Nat) (s : State) : s.SameModes (reportIfChanged b n s) := by
  unfold reportIfChanged
  split
  · exact recomputeShares_modes b s
  · unfold capacityReport
    exact ((sameModes_of_mods rfl : s.SameModes (s.updSeq b (clampRamp (s.bound b)))).trans
      (refreshDirection_modes b _)).trans ((recomputeShares_modes b _).trans (sameModes_of_mods rfl))

theorem SameButDrive_of_mode {r x : Module} (h : r.SameButDrive x) (mode : x.mode = r.mode) :
    x = { r with share := x.share, blankExpiry := x.blankExpiry } := by
  have whole : x = { r with mode := x.mode, share := x.share, blankExpiry := x.blankExpiry } := h
  rw [mode] at whole
  exact whole

/-- What a report leaves of a module. -/
theorem reportIfChanged_module (b : Berth) (n : Nat) (s : State) (m : ModuleId) :
    (reportIfChanged b n s).mods.get m = { s.mods.get m with
      share := ((reportIfChanged b n s).mods.get m).share
      blankExpiry := ((reportIfChanged b n s).mods.get m).blankExpiry } := by
  obtain ⟨ms, q, driven, e⟩ := reportIfChanged_driven b n s
  have mode := (reportIfChanged_modes b n s m).2
  rw [e] at mode ⊢
  exact SameButDrive_of_mode (driven.1 m) mode

/-- A module that serves no berth is left alone by a report. -/
theorem reportIfChanged_away {b : Berth} {s : State} {m : ModuleId} (n : Nat) (h : (s.mods.get m).standing.berth? = none) :
    (reportIfChanged b n s).mods.get m = s.mods.get m := by
  obtain ⟨ms, q, driven, e⟩ := reportIfChanged_driven b n s
  rw [e]
  exact driven.2 m (not_serves_of_none h b)

/-! ## A stale module (R23, R30) -/

/-- R23: a module whose status has gone stale. -/
def Module.goneStale (r : Module) : Module := { r with stale := true, fit := false, staleTimer := .stopped }

/-- The state after the counted fault of a stale module, before the report. -/
def State.faultedStale (b : Berth) (m : ModuleId) (s : State) : State :=
  countedFault b (lockoutCause ⟨false, false, false, false⟩ true) m (s.updMod m Module.goneStale)

theorem statusStale_counting {b : Berth} {m : ModuleId} {s : State} (h : (s.mods.get m).standing.counting? = some b) :
    statusStale m s = tryAfterLockout (some b) m (reportIfChanged b (s.healthy b) (s.faultedStale b m)) := by
  unfold statusStale
  rw [h]
  rfl

theorem statusStale_other {m : ModuleId} {s : State} (h : (s.mods.get m).standing.counting? = none) :
    statusStale m s = s.updMod m Module.goneStale := by
  unfold statusStale
  rw [h]
  rfl

theorem counting_iff (x : Standing) (b : Berth) :
    x.counting? = some b ↔ x = .assigned b .joining ∨ x = .assigned b .running := by
  rcases x with _ | ⟨c, r⟩ | _ | _
  · exact iff_of_false nofun (by rintro (h | h) <;> cases h)
  · cases r <;> simp [Standing.counting?]
  · exact iff_of_false nofun (by rintro (h | h) <;> cases h)
  · exact iff_of_false nofun (by rintro (h | h) <;> cases h)

theorem faultedStale_fast {m : ModuleId} {s : State} (b : Berth) (h : (s.mods.get m).fastCount < s.prot.fastCount) :
    s.faultedStale b m = s.updMod m fun r => Module.waiting b .retryWaitFast (s.prot.fastDelayMs * 1000) s
      { r.goneStale with fastCount := r.fastCount + 1 } := by
  unfold State.faultedStale
  rw [countedFault_fast b _ (by rw [State.updMod_self]; exact h), State.updMod_updMod]
  rfl

theorem faultedStale_slow {m : ModuleId} {s : State} (b : Berth) (fast : s.prot.fastCount ≤ (s.mods.get m).fastCount)
    (slow : (s.mods.get m).slowCount < s.prot.slowCount) :
    s.faultedStale b m = s.updMod m fun r => Module.waiting b .retryWaitSlow (s.prot.slowDelayS * 1000000) s
      { r.goneStale with slowCount := r.slowCount + 1 } := by
  unfold State.faultedStale
  rw [countedFault_slow b _ (by rw [State.updMod_self]; exact fast) (by rw [State.updMod_self]; exact slow),
    State.updMod_updMod]
  rfl

theorem faultedStale_lock {m : ModuleId} {s : State} (b : Berth) (fast : s.prot.fastCount ≤ (s.mods.get m).fastCount)
    (slow : s.prot.slowCount ≤ (s.mods.get m).slowCount) :
    s.faultedStale b m = setSummary .moduleLockout (emitEvent .moduleLockout m.num (some b)
      [16, put 0 32 (s.mods.get m).fastCount, put 0 32 (s.mods.get m).slowCount]
      (s.updMod m fun r => r.goneStale.lockedOut)) := by
  unfold State.faultedStale
  rw [countedFault_lock b _ (by rw [State.updMod_self]; exact fast) (by rw [State.updMod_self]; exact slow),
    State.updMod_updMod, State.updMod_self]
  rfl

/-- A module that begins a retry wait changes mode with the blanking of that change. -/
theorem moved_waiting {b : Berth} {run : RunState} {d : Nat} {m : ModuleId} {s : State} {f : Module → Module}
    (share : (f (s.mods.get m)).share = (s.mods.get m).share) (rating : (f (s.mods.get m)).rating = (s.mods.get m).rating)
    (mode : (f (s.mods.get m)).mode = (s.mods.get m).mode)
    (expiry : (f (s.mods.get m)).blankExpiry = (s.mods.get m).blankExpiry) :
    s.Moved b (s.updMod m fun r => Module.waiting b run d s (f r)) := by
  refine moved_updMod fun _ => ⟨share, rating, ?_⟩
  unfold Module.waiting
  dsimp only
  rw [mode, expiry]
  by_cases same : (s.mods.get m).mode = .blocked
  · rw [if_pos same, if_neg fun changed => changed same.symm]
  · rw [if_neg same, if_pos fun h => same h.symm]

theorem faultedStale_moved (b : Berth) (m : ModuleId) (s : State) : s.Moved b (s.faultedStale b m) := by
  rcases ladder_cases m s with fast | ⟨fast, slow⟩ | ⟨fast, slow⟩
  · rw [faultedStale_fast b fast]
    exact moved_waiting rfl rfl rfl rfl
  · rw [faultedStale_slow b fast slow]
    exact moved_waiting rfl rfl rfl rfl
  · rw [faultedStale_lock b fast slow]
    refine State.Moved.of_rest (moved_updMod fun serves => ?_) (lockout_mods ..) ?_ ?_ ?_
    · rw [not_serves_of_none rfl] at serves
      cases serves
    · exact emitEvent_seq ..
    · exact emitEvent_now ..
    · exact (emitEvent_inputs ..).prot

theorem faultedStale_reports (b : Berth) (m : ModuleId) (s : State) :
    (s.updMod m Module.goneStale).SameReports (s.faultedStale b m) := countedFault_reports b _ m _

/-- What a stale module reports. -/
theorem statusStale_reports (m : ModuleId) (s : State) :
    (s.updMod m Module.goneStale).SameReports (statusStale m s) := by
  rcases Option.eq_none_or_eq_some (s.mods.get m).standing.counting? with none | ⟨b, some⟩
  · rw [statusStale_other none]
    exact .refl _
  · rw [statusStale_counting some]
    exact ((faultedStale_reports b m s).trans (reportIfChanged_reports b _ _)).trans (tryAfterLockout_reports _ m _)

theorem statusStale_staleTimer (m : ModuleId) (s : State) : ((statusStale m s).mods.get m).staleTimer = .stopped := by
  rcases Option.eq_none_or_eq_some (s.mods.get m).standing.counting? with none | ⟨b, some⟩
  · rw [statusStale_other none, State.updMod_self]
    rfl
  · have faulted : ((s.faultedStale b m).mods.get m).staleTimer = .stopped := by
      unfold State.faultedStale
      rw [countedFault_staleTimer, State.updMod_self]
      rfl
    have reported : ((reportIfChanged b (s.healthy b) (s.faultedStale b m)).mods.get m).staleTimer = .stopped := by
      rw [reportIfChanged_module]
      exact faulted
    rw [statusStale_counting some]
    by_cases locked : ((reportIfChanged b (s.healthy b) (s.faultedStale b m)).mods.get m).standing = .lockedOut
    · rw [tryAfterLockout_locked locked]
      exact reported
    · rw [tryAfterLockout_other locked]
      exact reported

/-- A stale module of berth `b` that begins a retry wait. -/
theorem statusStale_waits {b : Berth} {run : RunState} {d : Nat} {m : ModuleId} {s : State} {f : Module → Module}
    (counting : (s.mods.get m).standing.counting? = some b)
    (faulted : s.faultedStale b m = s.updMod m fun r => Module.waiting b run d s (f r)) :
    ((statusStale m s).mods.get m) = { Module.waiting b run d s (f (s.mods.get m)) with
        share := ((statusStale m s).mods.get m).share, blankExpiry := ((statusStale m s).mods.get m).blankExpiry } ∧
      s.OnlyBerth b (statusStale m s) := by
  have own := reportIfChanged_module b (s.healthy b) (s.faultedStale b m) m
  have waits : ((reportIfChanged b (s.healthy b) (s.faultedStale b m)).mods.get m).standing ≠ .lockedOut := by
    rw [own, faulted, State.updMod_self]
    nofun
  have e : statusStale m s = reportIfChanged b (s.healthy b) (s.faultedStale b m) := by
    rw [statusStale_counting counting, tryAfterLockout_other waits]
  have at_ : (s.faultedStale b m).mods.get m = Module.waiting b run d s (f (s.mods.get m)) := by
    rw [faulted, State.updMod_self]
  rw [e]
  rw [at_] at own
  refine ⟨own, ?_⟩
  rw [faulted]
  exact (updMod_only _ (serves_of_counting counting)).trans (reportIfChanged_only b _ _)

/-- A stale module of berth `b` that is locked out. -/
theorem statusStale_locks {b : Berth} {m : ModuleId} {s : State} (counting : (s.mods.get m).standing.counting? = some b)
    (fast : s.prot.fastCount ≤ (s.mods.get m).fastCount) (slow : s.prot.slowCount ≤ (s.mods.get m).slowCount) :
    (statusStale m s).mods.get m = (s.mods.get m).goneStale.lockedOut ∧
      (statusStale m s).summaryBit .moduleLockout = true ∧
      (statusStale m s).jour = (emitEvent .moduleLockout m.num (some b)
        [16, put 0 32 (s.mods.get m).fastCount, put 0 32 (s.mods.get m).slowCount] s).jour := by
  have faulted := faultedStale_lock b fast slow
  have at_ : (s.faultedStale b m).mods.get m = (s.mods.get m).goneStale.lockedOut := by
    rw [faulted, lockout_mods, State.updMod_self]
  have own : (reportIfChanged b (s.healthy b) (s.faultedStale b m)).mods.get m = (s.mods.get m).goneStale.lockedOut := by
    rw [reportIfChanged_away _ (by rw [at_]; rfl), at_]
  rw [statusStale_counting counting]
  refine ⟨?_, ?_, ?_⟩
  · rw [tryAfterLockout_locked (by rw [own]; rfl), own]
  · refine keepsBits_of_page ((tryAfterLockout_page b m _).trans (reportIfChanged_page b _ _)) _ ?_
    rw [faulted]
    exact setSummary_bit ..
  · rw [tryAfterLockout_jour, (reportIfChanged_quiet b _ _).jour, faulted, (setSummary_quiet _ _).jour]
    exact emitEvent_jour (updMod_modsOnly m _ s).quiet _ _ _ _

/-- Settles O30. -/
theorem staleModuleTakesLadderStep : Obligations.StaleModuleTakesLadderStep := by
  intro m s expired
  have report := statusStale_reports m s m
  rw [State.updMod_self] at report
  refine ⟨statusStale m s, exec_expired rfl _ rfl expired, statusStale_same m s, report.stale, report.fit,
    statusStale_staleTimer m s, report.latest, statusStale_other, fun b standing => ?_⟩
  have counting := (counting_iff _ b).mpr standing
  refine ⟨⟨reportIfChanged b (s.healthy b) (s.faultedStale b m), reported_of_moved (faultedStale_moved b m s), ?_⟩,
    fun fast => ?_, fun fast slow => ?_, fun fast slow => ?_⟩
  · rw [statusStale_counting counting, tryAfterLockout_eq]
  · obtain ⟨own, only⟩ := statusStale_waits counting (faultedStale_fast b fast)
    rw [own]
    exact ⟨rfl, rfl, rfl, rfl, rfl, rfl, only⟩
  · obtain ⟨own, only⟩ := statusStale_waits counting (faultedStale_slow b fast slow)
    rw [own]
    exact ⟨rfl, rfl, rfl, rfl, rfl, rfl, only⟩
  · obtain ⟨own, bit, jour⟩ := statusStale_locks counting fast slow
    rw [own]
    exact ⟨rfl, rfl, rfl, rfl, rfl, rfl, rfl, bit, jour⟩

end Sys2Proof.Machine
end

section
/-! Proofs: the sync window and the prediction (O41). -/

namespace Sys2Proof.Machine

/-! ## Phases (R48, R77, R81) -/

theorem signedTurn_spec (x : Int) : ∃ turns : Int, signedTurn x = x + turns * 2000000000000000 ∧
    -1000000000000000 ≤ signedTurn x ∧ signedTurn x < 1000000000000000 := by
  unfold signedTurn Config.turnQ
  dsimp only
  split
  · exact ⟨-(x / 2000000000000000) - 1, by omega, by omega, by omega⟩
  · exact ⟨-(x / 2000000000000000), by omega, by omega, by omega⟩

theorem lead_spec (o : Osc) (p : Phasor) (t : Word) : ∃ turns : Int,
    o.lead p t = o.phase - (p.phase * 30517578125 + p.freq * (t - p.stamp).toInt * 2000000) +
        turns * 2000000000000000 ∧
      -1000000000000000 ≤ o.lead p t ∧ o.lead p t < 1000000000000000 := signedTurn_spec _

theorem residualOf_spec (q p : Phasor) : ∃ d turns : Int,
    d = p.phase * 30517578125 - (q.phase * 30517578125 + q.freq * (p.stamp - q.stamp).toInt * 2000000) +
        turns * 2000000000000000 ∧
      -1000000000000000 ≤ d ∧ d < 1000000000000000 ∧ residualOf q p = (d.natAbs + 15258789062) / 30517578125 := by
  obtain ⟨turns, whole, low, high⟩ := signedTurn_spec ((p.phase : Int) * Config.unitQ - q.phaseAt p.stamp)
  exact ⟨_, turns, whole, low, high, rfl⟩

theorem sweepTime_eq {lead : Int} {slip closeUs sweep time : Nat} (turn : (sweep : Int) = (-lead) % 2000000000000000)
    (rounded : time = (sweep + slip * 2000000 / 2) / (slip * 2000000)) : sweepTime lead slip closeUs =
      if time < closeUs then time + (1000000000 + slip / 2) / slip else time := by
  have left : ((-lead) % Config.turnQ).toNat = sweep := by
    unfold Config.turnQ
    omega
  unfold sweepTime timeToCoincidence divNearest
  rw [left]
  dsimp only
  rw [show sweep + slip * Config.quantaPerMhzUs / 2 = sweep + slip * 2000000 / 2 from rfl,
    show slip * Config.quantaPerMhzUs = slip * 2000000 from rfl, ← rounded]
  rfl

/-- R81 step 5: a slip of at most 400 mHz passes a coincidence no sooner than the breaker closes. -/
theorem closeUs_le_sweep {lead : Int} {slip closeUs : Nat} (low : 10 ≤ slip) (high : slip ≤ 400)
    (short : closeUs ≤ 200000) : closeUs ≤ sweepTime lead slip closeUs := by
  have period : 2500000 ≤ slipPeriod slip := by
    unfold slipPeriod divNearest
    rw [Nat.le_div_iff_mul_le (by omega)]
    omega
  unfold sweepTime
  dsimp only
  split <;> omega

/-! ## The five conditions (R78) -/

theorem voltDifference_iff (a c : Option Phasor) (d : Int) : voltDifference a c = some d ↔
    ∃ p q, a = some p ∧ c = some q ∧ d = (q.volt : Int) - p.volt := by
  unfold voltDifference
  cases a <;> cases c <;> simp [eq_comm]

theorem slipOf_iff (o : Osc) (a : Option Phasor) (x : Int) : slipOf o a = some x ↔
    ∃ p, a = some p ∧ x = ((o.freq / 1000000 : Nat) : Int) - p.freq := by
  unfold slipOf
  cases a with
  | none => simp
  | some p =>
    rw [Option.map_some, Option.some.injEq]
    exact ⟨fun same => ⟨p, rfl, same.symm⟩, fun ⟨_, own, at_⟩ => Option.some.inj own ▸ at_.symm⟩

theorem voltOk_iff (p : BerthParams) (n : Nat) (d : Option Int) :
    voltOk p n d = true ↔ ∃ v, d = some v ∧ v.natAbs * 100 ≤ p.voltMax * n := by
  unfold voltOk
  cases d <;> simp

theorem slipOk_iff (p : BerthParams) (d : Option Int) : slipOk p d = true ↔ ∃ x, d = some x ∧ 10 ≤ x ∧
    (p.slipTarget : Int) - p.slipTolerance ≤ x ∧ x ≤ (p.slipTarget : Int) + p.slipTolerance := by
  unfold slipOk
  cases d with
  | none => simp
  | some x => rw [decide_eq_true_iff]; simp only [Option.some.injEq, exists_eq_left']

theorem residualOk_iff (p : BerthParams) (r : Option Nat) :
    residualOk p r = true ↔ ∃ n, r = some n ∧ n * 360 ≤ p.angleMax * 65536 := by
  unfold residualOk withinAngle
  cases r <;> simp

theorem evalWindow_c2_iff (b : Berth) (s : State) :
    (s.evalWindow b).c2 = true ↔ (s.osc.get b).effective = .trackSlip := by
  unfold State.evalWindow
  exact beq_iff_eq

theorem evalWindow_c3_iff (b : Berth) (s : State) : (s.evalWindow b).c3 = true ↔
    ∃ p q, (s.meas.get b).ship.latest = some p ∧ (s.meas.get b).shore.latest = some q ∧
      ((q.volt : Int) - p.volt).natAbs * 100 ≤ (s.params.get b).voltMax * s.nominalVolt b := by
  unfold State.evalWindow
  dsimp only
  rw [voltOk_iff]
  simp only [voltDifference_iff]
  constructor
  · rintro ⟨v, ⟨p, q, ship, shore, rfl⟩, near⟩
    exact ⟨p, q, ship, shore, near⟩
  · rintro ⟨p, q, ship, shore, near⟩
    exact ⟨_, ⟨p, q, ship, shore, rfl⟩, near⟩

theorem evalWindow_c4_iff (b : Berth) (s : State) : (s.evalWindow b).c4 = true ↔
    ∃ p x, (s.meas.get b).ship.latest = some p ∧ x = ((s.osc.get b).freq / 1000000 : Nat) - (p.freq : Int) ∧ 10 ≤ x ∧
      ((s.params.get b).slipTarget : Int) - (s.params.get b).slipTolerance ≤ x ∧
      x ≤ ((s.params.get b).slipTarget : Int) + (s.params.get b).slipTolerance := by
  unfold State.evalWindow
  dsimp only
  rw [slipOk_iff]
  simp only [slipOf_iff]
  constructor
  · rintro ⟨x, ⟨p, ship, at_⟩, band⟩
    exact ⟨p, x, ship, at_, band⟩
  · rintro ⟨p, x, ship, at_, band⟩
    exact ⟨x, ⟨p, ship, at_⟩, band⟩

theorem evalWindow_c5_iff (b : Berth) (s : State) : (s.evalWindow b).c5 = true ↔
    ∃ n, (s.sync.get b).residual = some n ∧ n * 360 ≤ (s.params.get b).angleMax * 65536 := residualOk_iff _ _

theorem evalWindow_holds_iff (b : Berth) (s : State) : (s.evalWindow b).holds = true ↔
    (s.evalWindow b).c1 = true ∧ (s.evalWindow b).c2 = true ∧ (s.evalWindow b).c3 = true ∧
      (s.evalWindow b).c4 = true ∧ (s.evalWindow b).c5 = true := by
  have holds : (s.evalWindow b).holds = ((s.evalWindow b).c1 && (s.evalWindow b).c2 && (s.evalWindow b).c3 &&
    (s.evalWindow b).c4 && (s.evalWindow b).c5) := rfl
  rw [holds]
  simp only [Bool.and_eq_true, and_assoc]

theorem evalWindow_slip {b : Berth} {s : State} {p : Phasor} (h : (s.meas.get b).ship.latest = some p) :
    (s.evalWindow b).slip = some (((s.osc.get b).freq / 1000000 : Nat) - (p.freq : Int)) :=
  (slipOf_iff _ _ _).mpr ⟨p, h, rfl⟩

theorem evalWindow_slip_none {b : Berth} {s : State} (h : (s.meas.get b).ship.latest = none) :
    (s.evalWindow b).slip = none := by
  unfold State.evalWindow slipOf
  dsimp only
  rw [h]
  rfl

theorem evalWindow_volt {b : Berth} {s : State} {p q : Phasor} (ship : (s.meas.get b).ship.latest = some p)
    (shore : (s.meas.get b).shore.latest = some q) : (s.evalWindow b).voltDiff = some ((q.volt : Int) - p.volt) :=
  (voltDifference_iff _ _ _).mpr ⟨p, q, ship, shore, rfl⟩

theorem evalWindow_volt_none {b : Berth} {s : State}
    (h : (s.meas.get b).ship.latest = none ∨ (s.meas.get b).shore.latest = none) : (s.evalWindow b).voltDiff = none := by
  rw [Option.eq_none_iff_forall_ne_some]
  intro d some
  obtain ⟨p, q, ship, shore, -⟩ := (voltDifference_iff _ _ _).mp some
  rcases h with none | none
  · rw [none] at ship
    cases ship
  · rw [none] at shore
    cases shore

/-- What a window that holds says of the ship phasor and the slip. -/
theorem evalWindow_held {b : Berth} {s : State} (h : (s.evalWindow b).holds = true) :
    ∃ p x, (s.meas.get b).ship.latest = some p ∧ (s.evalWindow b).slip = some x ∧ 10 ≤ x := by
  obtain ⟨-, -, -, c4, -⟩ := (evalWindow_holds_iff b s).mp h
  obtain ⟨p, x, ship, at_, low, -⟩ := (evalWindow_c4_iff b s).mp c4
  exact ⟨p, x, ship, (evalWindow_slip ship).trans (congrArg some at_.symm), low⟩

/-! ## Evaluation (R79, R81) -/

/-- R81: the sweep to the coincidence that is predicted at a slip. -/
def State.sweep (b : Berth) (p : Phasor) (x : Int) (s : State) : Nat :=
  sweepTime ((s.osc.get b).lead p s.now) x.toNat (s.closeUs b)

/-- A unit whose window has been evaluated and its close predicted. -/
def Sync.predicted (w : WindowResult) (now : Word) (sweep closeUs : Nat) (u : Sync) : Sync :=
  { u with
    window := w
    prediction := some { coincidence := now + BitVec.ofNat 32 sweep, due := now + BitVec.ofNat 32 (sweep - closeUs) }
    closeDue := .running (sweep - closeUs) }

theorem predict_eq {b : Berth} {s : State} {p : Phasor} {x : Int} (ship : (s.meas.get b).ship.latest = some p)
    (slip : (s.sync.get b).window.slip = some x) :
    predict b s = s.updSync b (setPrediction s.now (s.sweep b p x) (s.closeUs b)) := by
  unfold predict
  rw [ship, slip]
  rfl

theorem updSync_updSync (s : State) (b : Berth) (f g : Sync → Sync) :
    (s.updSync b f).updSync b g = s.updSync b fun u => g (f u) := by
  unfold State.updSync
  dsimp only
  rw [PerBerth.get_set_self, PerBerth.set_set]

theorem evaluate_armed_holds {b : Berth} {s : State} {p : Phasor} {x : Int} (state : (s.seq.get b).state = .armed)
    (holds : (s.evalWindow b).holds = true) (ship : (s.meas.get b).ship.latest = some p)
    (slip : (s.evalWindow b).slip = some x) :
    evaluate b s = s.updSync b (Sync.predicted (s.evalWindow b) s.now (s.sweep b p x) (s.closeUs b)) := by
  have e : evaluate b s = predict b (s.updSync b fun u => { u with window := s.evalWindow b }) := by
    unfold evaluate
    rw [state]
    dsimp only
    rw [holds]
    rfl
  rw [e, predict_eq (s := s.updSync b _) (p := p) (x := x) ship (by rw [State.updSync_self]; exact slip), updSync_updSync]
  rfl

theorem request_idle {o : Osc} {e : OscEnv} {m : OscMode} (h : o.running = false ∨ o.requested = m) :
    o.request e m = o := if_pos h

theorem enterState_osc (b : Berth) (new : BerthState) (s : State) :
    (enterState b new s).osc = s.osc.set b (enteredOsc b new s) := by
  obtain ⟨ms, -, e⟩ := enterState_spec b new s
  rw [e]

/-- A berth that arms finds its oscillator stopped or in TRACK_SLIP and leaves it alone. -/
theorem enteredOsc_armed {b : Berth} {s : State}
    (h : (s.osc.get b).running = false ∨ (s.osc.get b).requested = .trackSlip) :
    enteredOsc b .armed s = s.osc.get b := by
  unfold enteredOsc
  dsimp only [modeRequest]
  rw [if_neg (by rintro ⟨h, -⟩; cases h)]
  exact request_idle h

theorem evaluate_matching_holds {b : Berth} {s : State} {p : Phasor} {x : Int} (state : (s.seq.get b).state = .matching)
    (asked : (s.osc.get b).running = false ∨ (s.osc.get b).requested = .trackSlip)
    (holds : (s.evalWindow b).holds = true)
    (ship : (s.meas.get b).ship.latest = some p) (slip : (s.evalWindow b).slip = some x) :
    s.Stands b .armed (evaluate b s) ∧
      (evaluate b s).sync.get b = (s.sync.get b).predicted (s.evalWindow b) s.now (s.sweep b p x) (s.closeUs b) := by
  let u := s.updSync b fun y => { y with window := s.evalWindow b }
  have only := enterState_only b .armed u
  have e : evaluate b s = predict b (enterState b .armed u) := by
    unfold evaluate
    rw [state]
    dsimp only
    rw [holds]
    rfl
  have sync : (enterState b .armed u).sync.get b = { s.sync.get b with window := s.evalWindow b } := by
    rw [enterState_sync, PerBerth.get_set_self, enteredSync_in b _ u (.inl rfl)]
    exact State.updSync_self ..
  have osc : (enterState b .armed u).osc.get b = s.osc.get b := by
    rw [enterState_osc, PerBerth.get_set_self]
    exact enteredOsc_armed (s := u) asked
  have close : (enterState b .armed u).closeUs b = s.closeUs b := by
    unfold State.closeUs
    rw [only.params]
    rfl
  have sweep : (enterState b .armed u).sweep b p x = s.sweep b p x := by
    unfold State.sweep
    rw [osc, close, only.now]
    rfl
  rw [e, predict_eq (p := p) (x := x) (by rw [enterState_meas]; exact ship) (by rw [sync]; exact slip), sweep, close,
    State.updSync_self, sync, only.now]
  refine ⟨?_, rfl⟩
  have stands := (enterState_stands b .armed u).of_inputs (s := s) rfl rfl rfl rfl rfl rfl rfl
  exact stands.after ⟨rfl, rfl, rfl, rfl⟩ ⟨_, _, _, _, rfl⟩ rfl (fun _ => rfl) stands.modules fun _ _ k => ⟨k, rfl, rfl, rfl⟩

/-- Settles O41. -/
theorem windowEvaluationArms : Obligations.WindowEvaluationArms := by
  refine ⟨fun b s w given => ?_, residualOf_spec, lead_spec,
    fun lead slip closeUs sweep time _ turn rounded => sweepTime_eq turn rounded,
    fun b s => ⟨fun matching armed => ?_, fun fails => ⟨fun matching => evaluate_matching matching fails,
      fun armed => ⟨evaluate_only b s, ?_, evaluate_armed_sync armed fails⟩⟩, fun holds => ?_⟩⟩
  · subst given
    exact ⟨evalWindow_c1_iff b s, evalWindow_c2_iff b s, evalWindow_c3_iff b s, evalWindow_c4_iff b s,
      evalWindow_c5_iff b s, evalWindow_holds_iff b s, fun p q => evalWindow_volt, evalWindow_volt_none,
      evalWindow_slip_none, rfl, fun p => evalWindow_slip⟩
  · refine evaluate_idle (Bool.eq_false_iff.mpr fun watching => ?_)
    rcases List.mem_pair.mp ((isWatching_iff _).mp watching) with h | h
    · exact matching h
    · exact armed h
  · rw [evaluate_armed armed fails]
    exact (enterState_stands b .matching _).of_inputs rfl rfl rfl rfl rfl rfl rfl
  · obtain ⟨c1, c2, c3, c4, c5⟩ := (evalWindow_holds_iff b s).mp holds
    obtain ⟨p, x, ship, slip, low⟩ := evalWindow_held holds
    refine ⟨c1, c2, c3, c4, c5, p, x, ship, slip, low, s.sweep b p x, rfl, fun short high => ?_,
      fun armed => evaluate_armed_holds armed holds ship slip, fun matching asked => ?_⟩
    · refine closeUs_le_sweep (by omega) (by omega) ?_
      unfold State.closeUs Config.msUs
      omega
    · obtain ⟨stands, sync⟩ := evaluate_matching_holds matching (.inr asked) holds ship slip
      exact ⟨evaluate_only b s, stands, sync⟩

end Sys2Proof.Machine
end

section
/-! Proofs: ramps, glides and trip pulses (O40). -/

namespace Sys2Proof.Machine

/-! ## A request of a mode (R46, R49) -/

namespace Osc

/-- R53: the effective mode a request of mode `m` starts from. -/
def priorTo (m : OscMode) (fresh : Bool) (o : Osc) : OscMode :=
  if o.effective = .hold ∧ (m = .trackSlip ∨ m = .trackLock) ∧ fresh = true then o.beforeHold.getD .hold else o.effective

/-- An oscillator asked for a mode, with a HOLD ended where it ends. -/
def asked (m : OscMode) (fresh : Bool) (o : Osc) : Osc :=
  { o with
    requested := m, effective := o.priorTo m fresh
    beforeHold := if o.priorTo m fresh = .hold then o.beforeHold else none }

theorem endHold_asked {o : Osc} {m : OscMode} (fresh : Bool) (ok : o.Ok) (h : m ≠ .hold) :
    ({ o with requested := m }).endHold fresh = o.asked m fresh := by
  have ok' : Osc.Ok { o with requested := m } := ⟨h, ok.2⟩
  cases fresh with
  | true =>
    have prior : ({ o with requested := m } : Osc).prior = o.priorTo m true := by
      unfold prior priorTo
      simp only [and_true]
    rw [endHold_eq ok', prior]
    rfl
  | false =>
    have prior : o.priorTo m false = o.effective := if_neg fun both => nomatch both.2.2
    have stays : ({ o with requested := m } : Osc).endHold false = { o with requested := m } :=
      if_neg fun both => nomatch both.2.2
    have before : o.beforeHold = if o.effective = .hold then o.beforeHold else none := by
      split
      · rfl
      next not => exact Option.not_isSome_iff_eq_none.mp fun some => not (ok.2.1.mp some)
    rw [stays]
    unfold asked
    rw [prior, ← before]

theorem priorTo_locked {o : Osc} {m : OscMode} {fresh : Bool} (ok : o.Ok) (h : o.lock = true) :
    o.priorTo m fresh = .trackLock := by
  have locked := ok.2.2.2 h
  unfold priorTo
  rw [locked]
  exact if_neg fun both => nomatch both.1

theorem governing_eq (fresh : Bool) (o : Osc) : o.governing fresh =
    if o.requested.isTracking = true ∧ fresh = false then o.effective else o.requested := by
  unfold governing
  refine if_congr ?_ rfl rfl
  rw [Bool.and_eq_true, Bool.not_eq_true']

/-- R46: the mode that governs after a request of mode `m`. -/
def governingTo (m : OscMode) (fresh : Bool) (o : Osc) : OscMode :=
  if (m = .trackSlip ∨ m = .trackLock) ∧ fresh = false then o.effective else m

theorem asked_governing (m : OscMode) (fresh : Bool) (o : Osc) :
    (o.asked m fresh).governing fresh = o.governingTo m fresh := by
  rw [governing_eq]
  unfold governingTo
  by_cases blind : (m = .trackSlip ∨ m = .trackLock) ∧ fresh = false
  · rw [if_pos blind, if_pos ⟨(isTracking_iff m).mpr blind.1, blind.2⟩, blind.2]
    exact if_neg fun both => nomatch both.2.2
  · rw [if_neg blind, if_neg fun both => blind ⟨(isTracking_iff m).mp both.1, both.2⟩]
    rfl

/-- An oscillator with a request taken, before the switch is judged. -/
def turned (e : OscEnv) (m : OscMode) (o : Osc) : Osc := (o.asked m e.ship.isSome).retarget e

theorem turned_target (e : OscEnv) (m : OscMode) (o : Osc) : (o.turned e m).target =
    (o.asked m e.ship.isSome).targetOf e (o.governingTo m e.ship.isSome) := by
  rw [← asked_governing]
  rfl

/-- The effective mode after a request of a mode other than TRACK_LOCK. -/
def settledTo (e : OscEnv) (m : OscMode) (o : Osc) : OscMode :=
  if o.governingTo m e.ship.isSome = m ∧ (o.freq - (o.turned e m).target) + ((o.turned e m).target - o.freq) ≤ 10000000 then
    m
  else o.priorTo m e.ship.isSome

theorem turned_settles_iff {o : Osc} {e : OscEnv} {m : OscMode} (run : o.running = true) (other : m ≠ .trackLock) :
    (o.turned e m).settles e.ship.isSome = true ↔ m ≠ o.priorTo m e.ship.isSome ∧ o.governingTo m e.ship.isSome = m ∧
      (o.freq - (o.turned e m).target) + ((o.turned e m).target - o.freq) ≤ 10000000 := by
  have governing : (o.turned e m).governing e.ship.isSome = o.governingTo m e.ship.isSome := asked_governing ..
  rw [settles_iff, governing]
  exact ⟨fun ⟨_, apart, _, governs, near⟩ => ⟨apart, governs, near⟩,
    fun ⟨apart, governs, near⟩ => ⟨run, apart, other, governs, near⟩⟩

/-- R50, R53, R54: what a request of a mode other than TRACK_LOCK makes effective. -/
theorem settle_turned {o : Osc} {e : OscEnv} {m : OscMode} (ok : o.Ok) (run : o.running = true) (other : m ≠ .trackLock)
    (asks : m ≠ .hold) : ∃ lock, (o.turned e m).settle e.ship.isSome = { o.turned e m with
        effective := o.settledTo e m, beforeHold := if o.settledTo e m = .hold then o.beforeHold else none, lock := lock } ∧
      (lock = true ↔ o.settledTo e m = .trackLock ∧ (o.priorTo m e.ship.isSome = .trackLock → o.lock = true)) := by
  unfold settle
  by_cases settles : (o.turned e m).settles e.ship.isSome = true
  · have mode : o.settledTo e m = m := if_pos ((turned_settles_iff run other).mp settles).2
    rw [if_pos settles, mode, if_neg asks]
    exact ⟨false, rfl, iff_of_false nofun fun h => other h.1⟩
  · have mode : o.settledTo e m = o.priorTo m e.ship.isSome := by
      unfold settledTo
      split
      next near =>
        by_contra apart
        exact settles ((turned_settles_iff run other).mpr ⟨apart, near⟩)
      next => rfl
    rw [if_neg settles, mode]
    exact ⟨o.lock, rfl, fun locked => ⟨priorTo_locked ok locked, fun _ => locked⟩, fun ⟨prior, locked⟩ => locked prior⟩

theorem not_idle {o : Osc} {m : OscMode} (run : o.running = true) (change : o.requested ≠ m) :
    ¬(o.running = false ∨ o.requested = m) := by
  rintro (stopped | same)
  · rw [run] at stopped
    cases stopped
  · exact change same

theorem request_other {o : Osc} {e : OscEnv} {m : OscMode} (ok : o.Ok) (run : o.running = true) (change : o.requested ≠ m)
    (asks : m ≠ .hold) (other : m ≠ .trackLock ∨ e.ship = none) :
    o.request e m = (o.turned e m).settle e.ship.isSome := by
  unfold request
  rw [if_neg (not_idle run change)]
  dsimp only
  rw [endHold_asked _ ok asks]
  split
  next p ship =>
    rcases other with h | h
    · exact absurd rfl h
    · rw [h] at ship
      cases ship
  next => rfl

/-- A request of TRACK_LOCK at a fresh ship phasor, before the switch is judged. -/
def locking (e : OscEnv) (d : Int) (o : Osc) : Osc := ({ o.asked .trackLock true with lastError := some d }).retarget e

theorem request_lock {o : Osc} {e : OscEnv} {p : Phasor} (ok : o.Ok) (run : o.running = true)
    (change : o.requested ≠ .trackLock) (ship : e.ship = some p) : o.request e .trackLock =
      (o.locking e (o.phaseError p e.now)).settleLock (o.phaseError p e.now) := by
  unfold request
  rw [if_neg (not_idle run change)]
  dsimp only
  rw [endHold_asked (m := .trackLock) _ ok nofun, ship]
  rfl

/-- R50, R54: what a request of TRACK_LOCK makes effective at a phase error. -/
theorem settleLock_locking {o : Osc} {e : OscEnv} (d : Int) (ok : o.Ok) : ∃ effective lock,
    effective = (if o.priorTo .trackLock true ≠ .hold ∧ d.natAbs ≤ 364 then .trackLock else o.priorTo .trackLock true) ∧
      (o.locking e d).settleLock d = { o.locking e d with
        effective := effective, beforeHold := if effective = .hold then o.beforeHold else none, lock := lock } ∧
      (lock = true ↔ effective = .trackLock ∧ (o.priorTo .trackLock true = .trackLock → o.lock = true)) := by
  refine ⟨_, ((o.locking e d).settleLock d).lock, rfl, ?_⟩
  by_cases near : o.priorTo .trackLock true ≠ .hold ∧ d.natAbs ≤ 364
  · rw [if_pos near, if_neg nofun]
    by_cases locked : o.priorTo .trackLock true = .trackLock
    · have stays : (o.locking e d).settleLock d = o.locking e d := settleLock_other d fun h => h.2.1 locked
      rw [stays]
      refine ⟨?_, fun on => ⟨rfl, fun _ => on⟩, fun h => h.2 locked⟩
      have before : (o.locking e d).beforeHold = none := if_neg (by rw [locked]; nofun)
      rw [← before, ← locked]
      rfl
    · have switches : (o.locking e d).settleLock d = { o.locking e d with effective := .trackLock, lock := true } :=
        if_pos ⟨rfl, locked, near.1, near.2⟩
      have before : (o.locking e d).beforeHold = none := if_neg near.1
      rw [switches]
      exact ⟨by rw [← before], fun _ => ⟨rfl, fun h => absurd h locked⟩, fun _ => rfl⟩
  · have stays : (o.locking e d).settleLock d = o.locking e d := settleLock_other d fun h => near h.2.2
    rw [if_neg near, stays]
    exact ⟨rfl, fun on => ⟨priorTo_locked ok on, fun _ => on⟩, fun ⟨prior, locked⟩ => locked prior⟩


theorem boundFreq_eq (n : Nat) : boundFreq n = (max 45000 (min 65000 n)) * 1000000 := by
  unfold boundFreq Config.freqMin Config.freqMax Config.freqUnit
  omega

/-- R47: the targets of a governing mode that reads no ship phasor. -/
theorem targetOf_blind (e : OscEnv) (o : Osc) {g : OscMode} :
    (g = .nominal ∨ g = .island → o.targetOf e g = (max 45000 (min 65000 e.nominal)) * 1000000) ∧
      (g = .hold → o.targetOf e g = o.freq) := by
  refine ⟨?_, ?_⟩
  · rintro (rfl | rfl) <;> exact boundFreq_eq e.nominal
  · rintro rfl
    rfl

theorem turned_slip {o : Osc} {e : OscEnv} {p : Phasor} (ship : e.ship = some p) :
    (o.turned e .trackSlip).target = (max 45000 (min 65000 (p.freq + e.slip))) * 1000000 := by
  have governs : o.governingTo .trackSlip e.ship.isSome = .trackSlip := by
    unfold governingTo
    rw [ship]
    exact if_neg fun h => nomatch h.2
  rw [turned_target, governs, ← boundFreq_eq]
  unfold targetOf
  rw [ship]
  rfl

theorem locking_target {o : Osc} {e : OscEnv} {p : Phasor} (d : Int) (ship : e.ship = some p) :
    (o.locking e d).target =
      (max 45000 (min 65000 ((p.freq : Int) - max (-100) (min 100 (Int.tdiv (d * 720) 65536))))).toNat * 1000000 := by
  have governs : ({ o.asked .trackLock true with lastError := some d } : Osc).governing e.ship.isSome = .trackLock := by
    rw [ship]
    exact governing_fresh _
  unfold locking retarget
  dsimp only
  rw [governs]
  unfold targetOf
  rw [ship]
  rfl

end Osc

/-! ## Ramps (R98, R106, R107) -/

theorem wantDir_eq (q : Seq) : q.wantDir =
    if q.staleHold = true ∨ q.lostHold = true then .level
    else if q.state = .parallelIn ∧ q.setpoint < q.target * 1000000 then .rising
    else if q.state = .parallelOut ∧ 0 < q.setpoint then .falling else .level := by
  unfold Seq.wantDir
  simp only [Bool.or_eq_true]
  split
  · rfl
  · cases q.state <;> simp <;> rfl

theorem shared_eq (s : State) (x : Int) (r : Module) : shared s x r =
    { r with
      share := x
      blankExpiry := if r.rating < 10 * (x - r.share).natAbs then blankedUntil s.now s.prot.blankingMs r.blankExpiry
        else r.blankExpiry } := by
  unfold shared bigStep
  by_cases big : r.rating < 10 * (x - r.share).natAbs
  · rw [if_pos (decide_eq_true big), if_pos big]
  · rw [if_neg (by rw [decide_eq_false big]; nofun), if_neg big]

/-- R106: what the end of a ramp makes of its berth, before the shares are computed. -/
def State.levelled (b : Berth) (s : State) : State := blankBerth b (s.updSeq b fun q => { q with dir := .level })

theorem levelled_get {b : Berth} {s : State} {m : ModuleId} (h : (s.mods.get m).serves b = true) :
    (s.levelled b).mods.get m =
      { s.mods.get m with blankExpiry := blankedUntil s.now s.prot.blankingMs (s.mods.get m).blankExpiry } := by
  unfold State.levelled
  rw [blankBerth_get]
  exact if_pos h

theorem levelled_rest (b : Berth) (s : State) : s.levelled b =
    { s with mods := (s.levelled b).mods, seq := s.seq.set b { s.seq.get b with dir := .level } } :=
  (blankBerth_driveOnly b (s.updSeq b fun q => { q with dir := .level })).rest

theorem levelled_shareOf (b : Berth) (s : State) (m : ModuleId) : (s.levelled b).shareOf b m = s.shareOf b m := by
  have own : (s.levelled b).seq.get b = { s.seq.get b with dir := .level } := by
    rw [levelled_rest]
    exact PerBerth.get_set_self ..
  exact shareOf_congr (s := s) (t := s.levelled b) (blankBerth_driveOnly b (s.updSeq b fun q => { q with dir := .level })).drive (by rw [own])
    (by rw [own]) m

/-- What the recomputation of shares leaves beside shares and blanking. -/
theorem recomputeShares_rest (b : Berth) (s : State) : recomputeShares b s =
    { s with
      mods := (recomputeShares b s).mods, seq := s.seq.set b { s.seq.get b with sharedKw := (s.seq.get b).wholeKw } } := by
  obtain ⟨ms, -, e⟩ := recomputeShares_spec b s
  rw [e]

theorem rampEnd_module {b : Berth} {s : State} {m : ModuleId} (h : (s.mods.get m).serves b = true) :
    (recomputeShares b (s.levelled b)).mods.get m =
      { s.mods.get m with
        share := s.shareOf b m, blankExpiry := blankedUntil s.now s.prot.blankingMs (s.mods.get m).blankExpiry } := by
  have own := levelled_get h
  have now : (s.levelled b).now = s.now := by rw [levelled_rest]
  have prot : (s.levelled b).prot = s.prot := by rw [levelled_rest]
  rw [recomputeShares_get b _ m (by rw [own]; exact h), levelled_shareOf, shared_eq, own, now, prot]
  dsimp only
  rw [blankedUntil_idem, ite_self]

theorem kwStep_module {b : Berth} {s : State} {m : ModuleId} (h : (s.mods.get m).serves b = true) :
    (recomputeShares b s).mods.get m =
      { s.mods.get m with
        share := s.shareOf b m
        blankExpiry := if (s.mods.get m).rating < 10 * (s.shareOf b m - (s.mods.get m).share).natAbs then
            blankedUntil s.now s.prot.blankingMs (s.mods.get m).blankExpiry
          else (s.mods.get m).blankExpiry } := by
  rw [recomputeShares_get b s m h, shared_eq]

/-! ## The trip pulse and the watch state (R85, R90, R94) -/

theorem watch_eq (s : State) (b : Berth) (st : BerthState) (h : st = (s.seq.get b).state) : s.watch b =
    if st = .matching then .watching else if st = .armed then .armed else if st = .closing then .closeWait
    else if st = .parallelIn ∨ st = .shoreOnly ∨ st = .parallelOut then .closedWatch
    else if st = .opening ∨ st = .tripped ∧ (s.sync.get b).secondTrip = true ∧
      (s.sync.get b).tripPulse.isRunning = true then .openWait else .notWatching := by
  unfold State.watch watchOf
  rw [← h]
  cases st <;> simp

theorem oscEnv_eq (s : State) (b : Berth) : s.oscEnv b =
    { nominal := ((s.seq.get b).profile.map (·.nominalFreq)).getD 0, slip := (s.params.get b).slipTarget
      ship := if (s.meas.get b).ship.fresh = .fresh then (s.meas.get b).ship.latest else none, now := s.now } := by
  unfold State.oscEnv State.nominalFreq State.shipFresh
  simp only [beq_iff_eq]
  cases (s.seq.get b).profile <;> rfl

/-- R46, R49, R50: everything a request of another mode does. -/
theorem request_spec {e : OscEnv} {m prior governing : OscMode} {o : Osc} (run : o.running = true)
    (change : o.requested ≠ m) (asks : m ≠ .hold) (ok : o.Ok) (starts : prior = o.priorTo m e.ship.isSome)
    (governs : governing = o.governingTo m e.ship.isSome) : ∃ x, x = o.request e m ∧
    x = { o with
      requested := m, effective := x.effective, beforeHold := x.beforeHold, target := x.target, lock := x.lock
      lastError := x.lastError, gliding := x.gliding } ∧
    (x.gliding = true ↔ o.freq ≠ x.target) ∧
    (governing = .nominal ∨ governing = .island → x.target = (max 45000 (min 65000 e.nominal)) * 1000000) ∧
    (governing = .hold → x.target = o.freq) ∧
    (e.ship = none ∨ m ≠ .trackLock → x.lastError = o.lastError) ∧
    (∀ p d, e.ship = some p → d = Int.tdiv (o.lead p e.now) 30517578125 →
      (m = .trackSlip → x.target = (max 45000 (min 65000 (p.freq + e.slip))) * 1000000) ∧
      (m = .trackLock → x.lastError = some d ∧ x.target =
        (max 45000 (min 65000 ((p.freq : Int) - max (-100) (min 100 (Int.tdiv (d * 720) 65536))))).toNat * 1000000 ∧
        x.effective = if prior ≠ .hold ∧ d.natAbs ≤ 364 then .trackLock else prior)) ∧
    (e.ship = none → m = .trackLock → x.effective = prior) ∧
    (m ≠ .trackLock → x.effective =
      if governing = m ∧ (o.freq - x.target) + (x.target - o.freq) ≤ 10000000 then m else prior) ∧
    x.beforeHold = (if x.effective = .hold then o.beforeHold else none) ∧
    (x.lock = true ↔ x.effective = .trackLock ∧ (prior = .trackLock → o.lock = true)) := by
  subst starts governs
  refine ⟨o.request e m, rfl, ?_⟩
  by_cases lock : m = .trackLock
  · subst lock
    rcases Option.eq_none_or_eq_some e.ship with none | ⟨p, some⟩
    · have stays : o.request e .trackLock = o.turned e .trackLock := by
        rw [Osc.request_other ok run change asks (.inr none)]
        exact if_neg fun settles => ((settles_iff _ _).mp settles).2.2.1 rfl
      have target := Osc.turned_target e .trackLock o
      obtain ⟨fixed, held⟩ := Osc.targetOf_blind e (o.asked .trackLock e.ship.isSome)
        (g := o.governingTo .trackLock e.ship.isSome)
      rw [stays]
      refine ⟨rfl, bne_iff_ne, fun h => target.trans (fixed h), fun h => target.trans (held h), fun _ => rfl,
        fun p d ship => absurd (none.symm.trans ship) nofun, fun _ _ => rfl, fun h => absurd rfl h, rfl,
        fun on => ⟨Osc.priorTo_locked ok on, fun _ => on⟩, fun ⟨h, on⟩ => on h⟩
    · have fresh : e.ship.isSome = true := by rw [some]; rfl
      have governs : o.governingTo .trackLock e.ship.isSome = .trackLock := by
        rw [fresh]
        exact if_neg fun h => nomatch h.2
      obtain ⟨effective, on, mode, shape, locks⟩ := Osc.settleLock_locking (e := e) (o.phaseError p e.now) ok
      rw [governs, fresh, Osc.request_lock ok run change some, shape]
      refine ⟨rfl, bne_iff_ne, fun h => absurd h (by simp), nofun, fun h => h.elim (fun h => ?_) (absurd rfl), ?_,
        fun h => ?_, fun h => absurd rfl h, rfl, locks⟩
      · rw [some] at h
        cases h
      · intro q d ship error
        obtain rfl := Option.some.inj (some.symm.trans ship)
        subst error
        exact ⟨nofun, fun _ => ⟨rfl, Osc.locking_target _ some, mode⟩⟩
      · rw [some] at h
        cases h
  · obtain ⟨on, shape, locks⟩ := Osc.settle_turned (e := e) ok run lock asks
    have target := Osc.turned_target e m o
    obtain ⟨fixed, held⟩ := Osc.targetOf_blind e (o.asked m e.ship.isSome) (g := o.governingTo m e.ship.isSome)
    rw [Osc.request_other ok run change asks (.inl lock), shape]
    refine ⟨rfl, bne_iff_ne, fun h => target.trans (fixed h), fun h => target.trans (held h), fun _ => rfl,
      fun p d ship _ => ⟨fun slip => ?_, fun h => absurd h lock⟩, fun _ h => absurd h lock, fun _ => rfl, rfl, locks⟩
    subst slip
    exact Osc.turned_slip ship

theorem settle_due {o : Osc} {fresh : Bool} (h : o.settles fresh = true) :
    o.settle fresh = { o with effective := o.requested, beforeHold := none, lock := false } := if_pos h

/-- Settles O40. -/
theorem rampsGlidesAndTripPulses : Obligations.RampsGlidesAndTripPulses := by
  refine ⟨wantDir_eq, Osc.isTracking_iff, fun s b => ⟨?_, beq_iff_eq, bne_iff_ne⟩, oscEnv_eq, fun e m o x given => ?_,
    fun b s => ⟨fun ends => ?_, fun run apart other governs near => ?_, fun lock => ?_, ?_,
      exec_expired rfl _ rfl, fun st => watch_eq s b st, fun moved => ?_⟩⟩
  · unfold State.nominalFreq
    cases (s.seq.get b).profile <;> rfl
  · refine ⟨fun h => given.trans (request_idle h), fun prior governing run change asks ok starts governs => ?_⟩
    have blind : governing = o.governingTo m e.ship.isSome := by
      rw [governs]
      unfold Osc.governingTo
      simp only [Option.isSome_eq_false_iff, Option.isNone_iff_eq_none]
    obtain ⟨y, same, rest⟩ := request_spec run change asks ok starts blind
    rw [given, ← same]
    exact rest
  · have levelled := recomputeShares_rest b (s.levelled b)
    rw [levelled_rest b s] at levelled
    refine ⟨recomputeShares b (s.levelled b), exec_due rfl ((rampOver_iff _).mpr ends), ?_, ?_, fun m => rampEnd_module,
      ?_, ?_⟩
    · exact ((updSeq_only b _ s).trans (blankBerth_only b _)).trans (recomputeShares_only b _)
    all_goals rw [levelled_rest b s, levelled]
    dsimp only
    rw [PerBerth.get_set_self, PerBerth.get_set_self]
    rfl
  · rw [exec_due (c := .glideNearTarget b) rfl ((settles_iff _ _).mpr ⟨run, apart, other, governs, near⟩)]
    refine congrArg (fun x : State => (Host.Outcome.next (evaluate b x) : Result)) ?_
    unfold State.updOsc
    rw [settle_due ((settles_iff _ _).mpr ⟨run, apart, other, governs, near⟩)]
  · exact exec_not_due rfl (Bool.eq_false_iff.mpr fun due => ((settles_iff _ _).mp due).2.2.1 lock)
  · exact Osc.governing_eq _ _
  · have rest := recomputeShares_rest b s
    refine ⟨recomputeShares b s, exec_due rfl moved, recomputeShares_only b s, fun m => kwStep_module, ?_⟩
    rw [rest]
    exact ⟨PerBerth.get_set_self .., rfl, rfl, rfl, rfl, rfl, rfl⟩

end Sys2Proof.Machine
end

section
/-! Proofs: a berth returns to IDLE (R11, R114, R121), with the records its session ends in (R136, R138). -/

namespace Sys2Proof.Machine

/-! ## The records of a closed session -/

theorem closeInterval_eq (minutes : Nat) (stop : StationTime) (forced step : Bool) (x : Session) (len demand : Nat)
    (part : Bool)
    (length : len = (stop.day - x.acc.start.day).toNat * 86400 + stop.second - x.acc.start.second)
    (average : demand = (if len = 0 then 0 else
      (x.acc.energy.bands.band0.toNat + x.acc.energy.bands.band1.toNat + x.acc.energy.bands.band2.toNat +
        x.acc.energy.bands.band3.toNat) * 3600 / (1000 * len)))
    (whole : part = true ↔ forced = true ∨ ¬(x.acc.start.second % (minutes * 60) = 0 ∧ len = minutes * 60)) :
    closeInterval minutes stop forced step x =
      ({ flags := { partialInterval := part, timeStep := step || x.acc.timeStep, gap := x.acc.gap, merged := false
                    metrology := x.acc.metrology }
         start := x.acc.start, stop := stop, bands := x.acc.energy.bands.map (·.setWidth 32)
         bridged := x.acc.energy.bridged.setWidth 32, unattributed := x.acc.energy.unattributed.setWidth 32
         demand := put 0 32 demand },
       { x with
         totals := x.totals.add x.acc.energy, intervals := x.intervals + 1
         peak := if part = true then x.peak else max x.peak demand }) := by
  have partly : (forced || partialBy minutes x.acc.start.second len) = part := by
    rw [Bool.eq_iff_iff, whole, Bool.or_eq_true]
    unfold partialBy
    rw [Bool.not_eq_true', Bool.and_eq_false_iff, beq_eq_false_iff_ne, beq_eq_false_iff_ne, not_and_or]
  subst length
  rw [← partly, average]
  rfl

theorem produceClose_none {b : Berth} {s : State} (h : s.sessions.get b = none) (cause : Nat) (stop : StationTime) :
    produceClose cause stop b s = s := by
  unfold produceClose produceInterval
  simp only [h]

theorem produceClose_some {b : Berth} {s : State} {x : Session} (h : s.sessions.get b = some x) (cause : Nat)
    (stop : StationTime) {i : IntervalBody} {y : Session}
    (closed : (i, y) = closeInterval s.clock.inForce.intervalMin stop true false x) :
    produceClose cause stop b s = admitBilling b
      { berth := some b, session := x.number, time := s.clock.time, body := .sessionClose (closeWords y cause stop) }
      (admitInterval b { berth := some b, session := x.number, time := s.clock.time, body := .interval i } i s) := by
  unfold produceClose produceInterval
  simp only [h, ← closed]

theorem emitReleased_closed (b : Berth) (p : Option ShipProfile) (s : State) (h : (s.seq.get b).profile = p)
    (c : Nat) (r : StationTime) :
    emitReleased b (closeSession b c r s) = produceReleased b p (produceClose c r b s) := by
  have seq : (closeSession b c r s).seq = s.seq := by
    rw [closeSession_eq, produceClose_onlyQueue c r b s]
    rfl
  unfold emitReleased
  rw [seq, h, closeSession_eq]
  cases p <;> rfl

theorem closeSession_quiet {b : Berth} {s t : State} (quiet : s.Quiet t) (own : t.sessions.get b = s.sessions.get b)
    (c : Nat) (r : StationTime) : (closeSession b c r s).Quiet (closeSession b c r t) := by
  rw [closeSession_jour (v := s) quiet.jour quiet.clock own, closeSession_jour (s := s) (v := s) rfl rfl rfl]
  refine ⟨rfl, quiet.clock, fun k => ?_⟩
  unfold State.sessionNumber
  by_cases same : k = b
  · subst same
    simp only [PerBerth.get_set_self]
  · simp only [PerBerth.get_set_ne _ _ _ _ same]
    exact quiet.number k

/-! ## Entry to IDLE -/

/-- R121: a berth whose session has been closed, with the RELEASED of one that was de-energised. -/
def State.closed (b : Berth) (s : State) : State :=
  if (s.seq.get b).state = .deEnergising then emitReleased b (closeSession b 1 s.clock.time s)
  else closeSession b 1 s.clock.time s

theorem enterIdle_eq (b : Berth) (s : State) :
    enterIdle b s = paramsIntoForce b ((enterState b .idle (s.closed b)).updSeq b idleContext) := rfl

theorem closed_spec (b : Berth) (s : State) : ∃ j p,
    s.closed b = { s with jour := j, page := p, sessions := s.sessions.set b none } := by
  have shut := closeSession_jour (s := s) (v := s) rfl rfl rfl (b := b) 1 s.clock.time
  unfold State.closed
  rw [shut]
  split
  · unfold emitReleased
    obtain ⟨l, n, p, e⟩ := emitEvent_rest .released 0 (some b) _ _
    exact ⟨_, _, e⟩
  · exact ⟨_, _, rfl⟩

theorem closed_jour_other {b : Berth} {s : State} (h : (s.seq.get b).state ≠ .deEnergising) :
    (s.closed b).jour = (produceClose 1 s.clock.time b s).jour := by
  unfold State.closed
  rw [if_neg h, closeSession_eq]
  rfl

theorem closed_jour_released {b : Berth} {s : State} (h : (s.seq.get b).state = .deEnergising) :
    (s.closed b).jour = (produceReleased b (s.seq.get b).profile (produceClose 1 s.clock.time b s)).jour := by
  unfold State.closed
  rw [if_pos h, emitReleased_closed b _ s rfl]

theorem paramsIntoForce_spec (b : Berth) (s : State) : ∃ x y, paramsIntoForce b s = { s with params := x, pendingParams := y } ∧
    x.get b = (s.pendingParams.get b).getD (s.params.get b) ∧ y.get b = none := by
  unfold paramsIntoForce
  split
  next h => exact ⟨s.params, s.pendingParams, rfl, by rw [h]; rfl, h⟩
  next p h => exact ⟨_, _, rfl, by rw [PerBerth.get_set_self, h]; rfl, PerBerth.get_set_self ..⟩

theorem enterIdle_own (b : Berth) (s : State) :
    (enterIdle b s).seq.get b = idleContext (enteredSeq b .idle (s.closed b)) ∧
      (enterIdle b s).osc.get b = Osc.stopped ∧ (enterIdle b s).sessions.get b = none ∧
      (enterIdle b s).params.get b = (s.pendingParams.get b).getD (s.params.get b) ∧
      (enterIdle b s).pendingParams.get b = none ∧ (enterIdle b s).jour = (s.closed b).jour := by
  obtain ⟨j, p, closed⟩ := closed_spec b s
  obtain ⟨x, y, e, force, pending⟩ := paramsIntoForce_spec b ((enterState b .idle (s.closed b)).updSeq b idleContext)
  have entered := enterState_only b .idle (s.closed b)
  have params : (s.closed b).params = s.params := by rw [closed]
  have waits : (s.closed b).pendingParams = s.pendingParams := by rw [closed]
  have session : (s.closed b).sessions.get b = none := by rw [closed]; exact PerBerth.get_set_self ..
  rw [enterIdle_eq, e]
  refine ⟨?_, ?_, ?_, ?_, pending, ?_⟩
  · dsimp only
    rw [State.updSeq_self, enterState_seq, PerBerth.get_set_self]
  · exact (congrArg (PerBerth.get · b) (enterState_osc b .idle (s.closed b))).trans (PerBerth.get_set_self ..)
  · refine (congrArg (PerBerth.get · b) (enterState_sessions b .idle (s.closed b))).trans ?_
    by_cases shore : ((s.closed b).seq.get b).state = .shoreOnly
    · rw [enteredSessions_shore b .idle _ shore nofun, PerBerth.get_set_self, session]
      rfl
    · rw [enteredSessions_other b .idle _ shore, session]
  · rw [← params, ← waits, ← entered.params, ← entered.pendingParams]
    exact force
  · exact (enterState_quiet b .idle (s.closed b)).jour

theorem completeCurrent_rest (b : Berth) (o : ReqOutcome) (c : Option Cause) (s : State) :
    ∃ x p, completeCurrent b o c s = { s with seq := s.seq.set b x, page := p } := by
  obtain ⟨x, p, e, -⟩ := completeCurrent_spec b o c s
  exact ⟨x, _, e⟩

/-- A berth that enters IDLE and whose request then ends, seen from a state `s` of the same instant and parameters, in a
state `t` that has left the berth alone since. -/
theorem idles_of {b : Berth} {s u t : State} (o : ReqOutcome) (c : Option Cause) (same : s.SameStation t)
    (claims : ∀ d ∈ t.claims, d.berth ≠ b) (now : u.now = s.now) (force : u.params.get b = s.params.get b)
    (waits : u.pendingParams.get b = s.pendingParams.get b)
    (kept : (completeCurrent b o c (enterIdle b u)).KeepsBerth b t) : s.Idles b t := by
  obtain ⟨seq, osc, session, params, pending, -⟩ := enterIdle_own b u
  obtain ⟨-, l, n, course⟩ := completeCurrent_seq b o c (enterIdle b u)
  obtain ⟨x, p, e⟩ := completeCurrent_rest b o c (enterIdle b u)
  obtain ⟨j, q, closed⟩ := closed_spec b u
  have stands : t.seq.get b = { idleContext (enteredSeq b .idle (u.closed b)) with current := none, last := l, count := n } := by
    rw [kept.seq, course, seq]
  have instant : (u.closed b).now = s.now := by rw [closed, ← now]
  refine ⟨?_, ?_, ?_, ?_, ?_, ?_, ?_, ?_, claims, ?_, ?_, same⟩
  · rw [stands]; rfl
  · rw [stands]; exact instant
  iterate 4 (· rw [stands]; rfl)
  · rw [kept.osc, e]; exact osc
  · rw [kept.sessions, e]; exact session
  · rw [kept.params, e, ← force, ← waits]; exact params
  · rw [kept.pendingParams, e]; exact pending

/-- The request that was in progress when the berth entered IDLE. -/
theorem idles_completes {b : Berth} {s u t : State} {o : ReqOutcome} {c : Option Cause}
    (current : (u.seq.get b).current = (s.seq.get b).current) (last : (u.seq.get b).last = (s.seq.get b).last)
    (count : (u.seq.get b).count = (s.seq.get b).count)
    (kept : (completeCurrent b o c (enterIdle b u)).KeepsBerth b t) : (s.seq.get b).Completes o c (t.seq.get b) := by
  obtain ⟨seq, -⟩ := enterIdle_own b u
  obtain ⟨j, q, closed⟩ := closed_spec b u
  obtain ⟨ends, -⟩ := completeCurrent_seq b o c (enterIdle b u)
  have before : (u.closed b).seq.get b = u.seq.get b := by rw [closed]
  rw [seq] at ends
  rw [kept.seq]
  refine ends.congr ?_ ?_ ?_
  · exact (congrArg Seq.current before).trans current
  · exact (congrArg Seq.last before).trans last
  · exact (congrArg Seq.count before).trans count

/-- The end of its request produces no record after those of the close. -/
theorem idles_jour {b : Berth} {u : State} (o : ReqOutcome) (c : Option Cause) :
    (completeCurrent b o c (enterIdle b u)).jour = (u.closed b).jour := by
  obtain ⟨-, -, -, -, -, jour⟩ := enterIdle_own b u
  exact (completeCurrent_quiet b o c _).jour.trans jour

/-! ## The claim times out (R11) -/

theorem claimTimeout_keeps (b : Berth) (s : State) :
    (completeCurrent b .timeout (some .claimTimeout) (enterIdle b (removeClaim b s))).KeepsBerth b (claimTimeout b s) := by
  obtain ⟨-, l, n, course⟩ := completeCurrent_seq b .timeout (some .claimTimeout) (enterIdle b (removeClaim b s))
  refine tryIf_keeps (s.headClaim b) _ ?_ ?_
  · rw [(completeCurrent_only b _ _ _).claims, enterIdle_claims]
    exact removeClaim_none b s
  · rw [course]
    exact congrArg BerthState.isActive (enterIdle_state b _)

theorem claimTimeout_claims (b : Berth) (s : State) : ∀ c ∈ (claimTimeout b s).claims, c.berth ≠ b := by
  intro c mem
  have before := (tryIf_claims (s.headClaim b) _).subset mem
  rw [(completeCurrent_only b _ _ _).claims, enterIdle_claims] at before
  exact removeClaim_none b s c before

theorem claimTimeout_serves {b : Berth} {s : State} (h : ∀ m, (s.mods.get m).serves b = false) (m : ModuleId) :
    ((claimTimeout b s).mods.get m).serves b = false := by
  rw [Bool.eq_false_iff]
  intro serves
  rw [(claimTimeout_keeps b s).mods m (.inr serves), completeCurrent_mods, enterIdle_serves] at serves
  exact Bool.eq_false_iff.mp (h m) serves

/-! ## De-energised (R114) -/

theorem clamped_course (b : Berth) (s : State) : (s.clamped b).state = (s.seq.get b).state ∧
    (s.clamped b).profile = (s.seq.get b).profile ∧ (s.clamped b).current = (s.seq.get b).current ∧
    (s.clamped b).last = (s.seq.get b).last ∧ (s.clamped b).count = (s.seq.get b).count := by
  unfold State.clamped Seq.judged Seq.directed
  rw [clampRamp_eq]
  exact ⟨rfl, rfl, rfl, rfl, rfl⟩

/-- A report leaves a berth its state, its profile and the course of its requests. -/
theorem reportIfChanged_course (b : Berth) (n : Nat) (s : State) : ∃ ms q,
    reportIfChanged b n s = { s with mods := ms, seq := s.seq.set b q } ∧ q.state = (s.seq.get b).state ∧
    q.profile = (s.seq.get b).profile ∧ q.current = (s.seq.get b).current ∧ q.last = (s.seq.get b).last ∧
    q.count = (s.seq.get b).count := by
  unfold reportIfChanged
  split
  · obtain ⟨ms, -, e⟩ := recomputeShares_spec b s
    exact ⟨ms, _, e, rfl, rfl, rfl, rfl, rfl⟩
  · obtain ⟨ms, -, e⟩ := capacityReport_spec b s
    exact ⟨ms, _, e, clamped_course b s⟩

/-- R114, R15: a berth whose modules have been released, before it enters IDLE. -/
def State.released (b : Berth) (s : State) : State :=
  tryPoolBut (some b) (reportIfChanged b (s.healthy b) (releaseModules b s))

theorem deEnergised_eq (b : Berth) (s : State) :
    deEnergised b s = completeCurrent b .done none (enterIdle b (s.released b)) := rfl

theorem released_none {b : Berth} {s : State} (claims : ∀ c ∈ s.claims, c.berth ≠ b) (m : ModuleId) :
    ((s.released b).mods.get m).serves b = false := by
  let r := reportIfChanged b (s.healthy b) (releaseModules b s)
  have report := reportIfChanged_only b (s.healthy b) (releaseModules b s)
  have gone (k : ModuleId) : (r.mods.get k).serves b = false := by
    have kept := report.mods k (releaseModules_none b s k)
    rw [kept]
    exact releaseModules_none b s k
  have queue : r.claims = s.claims := report.claims.trans (by rw [releaseModules_modsOnly b s])
  have tried : r.KeepsBerth b (s.released b) := tryPoolBut_keeps r (by rw [queue]; exact claims) (.inl rfl)
  rw [Bool.eq_false_iff]
  intro serves
  rw [tried.mods m (.inr serves)] at serves
  exact Bool.eq_false_iff.mp (gone m) serves

theorem released_spec {b : Berth} {s : State} (claims : ∀ c ∈ s.claims, c.berth ≠ b) :
    s.Quiet (s.released b) ∧ (s.released b).now = s.now ∧ (∀ c ∈ (s.released b).claims, c.berth ≠ b) ∧
      (s.released b).params.get b = s.params.get b ∧ (s.released b).pendingParams.get b = s.pendingParams.get b ∧
      (s.released b).sessions.get b = s.sessions.get b ∧ ((s.released b).seq.get b).state = (s.seq.get b).state ∧
      ((s.released b).seq.get b).profile = (s.seq.get b).profile ∧
      ((s.released b).seq.get b).current = (s.seq.get b).current ∧
      ((s.released b).seq.get b).last = (s.seq.get b).last ∧ ((s.released b).seq.get b).count = (s.seq.get b).count := by
  let r := reportIfChanged b (s.healthy b) (releaseModules b s)
  have given := releaseModules_modsOnly b s
  obtain ⟨ms, q, e, course⟩ := reportIfChanged_course b (s.healthy b) (releaseModules b s)
  rw [given] at e course
  have mid : r = { s with mods := ms, seq := s.seq.set b q } := by
    rw [← e, ← given]
  have queue : r.claims = s.claims := by rw [mid]
  have tried : r.KeepsBerth b (s.released b) := tryPoolBut_keeps r (by rw [queue]; exact claims) (.inl rfl)
  have same : r.SameStation (s.released b) := tryPoolBut_same (some b) r
  have quiet : s.Quiet r := by rw [mid]; exact quiet_of rfl rfl rfl
  have own : (s.released b).seq.get b = q := by rw [tried.seq, mid]; exact PerBerth.get_set_self ..
  refine ⟨quiet.trans (tryPoolBut_quiet (some b) r), same.now.trans (by rw [mid]), fun c mem => ?_, ?_, ?_, ?_, ?_⟩
  · have before := (tryPoolBut_claims (some b) r).subset mem
    rw [queue] at before
    exact claims c before
  · rw [tried.params, mid]
  · rw [tried.pendingParams, mid]
  · rw [tried.sessions, mid]
  · rw [own]
    exact course

theorem produceReleased_jour {b : Berth} {s t : State} (quiet : s.Quiet t) (own : t.sessions.get b = s.sessions.get b)
    (p : Option ShipProfile) (c : Nat) (r : StationTime) :
    (produceReleased b p (produceClose c r b t)).jour = (produceReleased b p (produceClose c r b s)).jour := by
  have closed := closeSession_quiet quiet own c r
  rw [closeSession_eq, closeSession_eq] at closed
  exact emitEvent_jour closed ..

/-- Settles O39. -/
theorem berthReturnsToIdle : Obligations.BerthReturnsToIdle := by
  refine ⟨claimTimer_eq, fun b s => ⟨fun expired => ?_, fun us falling past at_ claims => ?_⟩, fun _ _ _ => rfl,
    fun b cause stop s => ⟨fun closed => produceClose_none closed cause stop,
      fun x opened i y closed => produceClose_some opened cause stop closed⟩,
    fun minutes stop forced step x len demand part length average whole =>
      closeInterval_eq minutes stop forced step x len demand part length average whole⟩
  · have kept := claimTimeout_keeps b s
    have quiet := tryIf_quiet (s.headClaim b) (completeCurrent b .timeout (some .claimTimeout) (enterIdle b (removeClaim b s)))
    refine ⟨claimTimeout b s, exec_expired rfl _ rfl expired, ?_, idles_completes (u := removeClaim b s) rfl rfl rfl kept, fun other => ?_,
      claimTimeout_serves⟩
    · exact idles_of (u := removeClaim b s) _ _ (claimTimeout_same b s) (claimTimeout_claims b s) rfl rfl rfl kept
    · exact (quiet.jour.trans (idles_jour _ _)).trans
        ((closed_jour_other (s := removeClaim b s) other).trans (produceClose_jour (s := s) (t := removeClaim b s) rfl rfl rfl _ _))
  · let v := s.updSeq b fun q => { q with volt := .zero }
    have due : s.deEnergiseDue b = true := (deEnergiseDue_iff s b).mpr ⟨us, falling, past⟩
    have counts : isDue s (.deEnergisingComplete b) = true :=
      (Bool.and_eq_true _ _).mpr ⟨due, beq_iff_eq.mpr at_⟩
    obtain ⟨quiet, now, queue, force, waits, session, state, profile, current, last, count⟩ := released_spec (s := v) claims
    have own : v.seq.get b = { s.seq.get b with volt := .zero } := State.updSeq_self ..
    rw [own] at state profile current last count
    have steady : s.Quiet (v.released b) := (quiet_of (s := s) (t := v) rfl rfl rfl).trans quiet
    refine ⟨deEnergised b v, exec_due rfl counts, ?_, idles_completes current last count (.refl b _), fun m => ?_, ?_⟩
    · refine idles_of .done none ?_ ?_ now force waits (.refl b _)
      · exact (updSeq_only b _ s).toSameStation.trans (deEnergised_same b v)
      · rw [deEnergised_eq, (completeCurrent_only b _ _ _).claims, enterIdle_claims]
        exact queue
    · rw [deEnergised_eq, completeCurrent_mods, enterIdle_serves]
      exact released_none (s := v) claims m
    · have jour := closed_jour_released (state.trans at_)
      rw [profile, steady.clock] at jour
      exact (idles_jour .done none).trans (jour.trans (produceReleased_jour steady session _ _ _))

end Sys2Proof.Machine
end

section
/-! Proofs: no operation but the due instant of a close raises CLOSE, and none but the start of watching and the resets
makes a used close unused (R79, R83, R84). First the operations that the pool, the sequencers and the intake are made of. -/

namespace Sys2Proof.Machine

/-- CLOSE is not raised and a used close stays used, in one unit. -/
structure Sync.KeepsClose (u v : Sync) : Prop where
  low : v.closeHigh = true → u.closeHigh = true
  used : u.closeUsed = true → v.closeUsed = true

/-- No CLOSE is raised, and no used close becomes unused. -/
structure State.KeepsClose (s t : State) : Prop where
  berth : ∀ b, (s.sync.get b).KeepsClose (t.sync.get b)

theorem keepsClose_of_sync {s t : State} (h : t.sync = s.sync) : s.KeepsClose t := ⟨fun b => by
  rw [h]
  exact ⟨id, id⟩⟩

theorem State.KeepsClose.refl (s : State) : s.KeepsClose s := keepsClose_of_sync rfl

theorem State.KeepsClose.trans {s t u : State} (h : s.KeepsClose t) (k : t.KeepsClose u) : s.KeepsClose u :=
  ⟨fun b => ⟨(h.berth b).low ∘ (k.berth b).low, (k.berth b).used ∘ (h.berth b).used⟩⟩

theorem keepsClose_of_drive {s t : State} (h : t.drive = s.drive) : s.KeepsClose t :=
  keepsClose_of_sync (congrArg Drive.sync h)

theorem State.ModsOnly.keepsClose {s t : State} (h : s.ModsOnly t) : s.KeepsClose t :=
  keepsClose_of_sync (by rw [h])

theorem forBerths_keepsClose {f : Berth → State → State} (h : ∀ b (s : State), s.KeepsClose (f b s)) (s : State) :
    s.KeepsClose (forBerths f s) := ((h .b0 s).trans (h .b1 _)).trans (h .b2 _)

theorem updSync_keepsClose (b : Berth) (f : Sync → Sync) (h : ∀ u : Sync, u.KeepsClose (f u)) (s : State) :
    s.KeepsClose (s.updSync b f) := by
  refine ⟨fun c => ?_⟩
  by_cases same : c = b
  · rw [same, State.updSync_self]
    exact h _
  · rw [State.updSync_other s b f c same]
    exact ⟨id, id⟩

/-! ## Contexts, shares and reports -/

theorem recomputeShares_sync (b : Berth) (s : State) : (recomputeShares b s).sync = s.sync := by
  rw [recomputeShares_rest]

theorem refreshDirection_sync (b : Berth) (s : State) : (refreshDirection b s).sync = s.sync := by
  obtain ⟨ms, -, e⟩ := refreshDirection_spec b s
  rw [e]

theorem reportIfChanged_sync (b : Berth) (n : Nat) (s : State) : (reportIfChanged b n s).sync = s.sync := by
  obtain ⟨ms, q, -, e⟩ := reportIfChanged_driven b n s
  rw [e]

theorem feederAccepted_sync (b : Berth) (s : State) : (feederAccepted b s).sync = s.sync :=
  refreshDirection_sync b (s.updSeq b fun q => { q with staleHold := false })

theorem feederWentStale_sync (b : Berth) (s : State) : (feederWentStale b s).sync = s.sync := by
  refine (refreshDirection_sync b (holdIfStale b s)).trans ?_
  rw [holdIfStale_eq]

theorem supervisorRestored_sync (b : Berth) (s : State) : (supervisorRestored b s).sync = s.sync :=
  refreshDirection_sync b _

/-- R80: entry to a state drops a prediction at most. -/
theorem enterState_keepsClose (b : Berth) (new : BerthState) (s : State) : s.KeepsClose (enterState b new s) := by
  refine ⟨fun c => ?_⟩
  rw [enterState_sync]
  by_cases same : c = b
  · rw [same, PerBerth.get_set_self]
    unfold enteredSync
    split
    · exact ⟨id, id⟩
    · exact ⟨id, id⟩
  · rw [PerBerth.get_set_ne _ _ _ _ same]
    exact ⟨id, id⟩

theorem completeCurrent_keepsClose (b : Berth) (o : ReqOutcome) (c : Option Cause) (s : State) :
    s.KeepsClose (completeCurrent b o c s) := keepsClose_of_sync (completeCurrent_sync b o c s)

theorem emitEvent_keepsClose (c : EventCode) (q : Nat) (o : Option Berth) (ws : List Word) (s : State) :
    s.KeepsClose (emitEvent c q o ws s) := keepsClose_of_sync (emitEvent_sync c q o ws s)

theorem writeResult_keepsClose (b : Berth) (k : BitVec 8) (t : BitVec 16) (o : ReqOutcome) (c : Option Cause)
    (v : Option (BitVec 16)) (s : State) : s.KeepsClose (writeResult b k t o c v s) := keepsClose_of_sync rfl

/-- A berth enters a state and its request ends. -/
theorem entered_keepsClose (b : Berth) (new : BerthState) (o : ReqOutcome) (c : Option Cause) (s : State) :
    s.KeepsClose (completeCurrent b o c (enterState b new s)) :=
  (enterState_keepsClose b new s).trans (completeCurrent_keepsClose b o c _)

theorem issueTrip_keepsClose (b : Berth) (s : State) : s.KeepsClose (issueTrip b s) :=
  updSync_keepsClose b (fun u => { u with closePulse := .stopped, tripPulse := .running Config.pulseUs })
    (fun _ => ⟨nofun, id⟩) s

theorem controlledOpen_keepsClose (b : Berth) (c : OpenCause) (s : State) : s.KeepsClose (controlledOpen b c s) :=
  (keepsClose_of_sync (s := s) (t := s.updSeq b fun q => { q with openCause := some c }) rfl).trans
    ((enterState_keepsClose b .opening _).trans (issueTrip_keepsClose b _))

theorem enterTripped_keepsClose (b : Berth) (c : TripCause) (s : State) : s.KeepsClose (enterTripped b c s) := by
  by_cases tripped : (s.seq.get b).state = .tripped
  · have still : enterTripped b c s = s := if_pos tripped
    rw [still]
    exact .refl s
  rw [enterTripped_eq b c s tripped]
  let caused := s.updSeq b fun q => { q with tripCause := some c }
  have told (n left : Nat) (u : State) : u.KeepsClose (trippedRest b c n left u) := by
    refine keepsClose_of_sync ?_
    unfold trippedRest
    rw [completeCurrent_sync, noteTrip_sync, emitEvent_sync, setSummary_sync, reportIfChanged_sync]
  exact ((keepsClose_of_sync (s := s) (t := caused) rfl).trans
    ((enterState_keepsClose b .tripped caused).trans (blockModules_modsOnly b _).keepsClose)).trans (told ..)

/-! ## The pool (R10 to R15) -/

theorem energiseWith_keepsClose (b : Berth) (ms : List ModuleId) (s : State) : s.KeepsClose (energiseWith b ms s) :=
  (assignAll_modsOnly b ms s).keepsClose.trans (enterState_keepsClose b .energising _)

theorem serveClaims_keepsClose (cs : List Claim) (s : State) : s.KeepsClose (serveClaims cs s) := by
  induction cs generalizing s with
  | nil => exact keepsClose_of_sync rfl
  | cons c cs ih =>
    unfold serveClaims
    split
    · exact keepsClose_of_sync rfl
    next ms _ =>
      have left : s.KeepsClose { s with claims := cs } := keepsClose_of_sync rfl
      exact (left.trans (energiseWith_keepsClose c.berth ms _)).trans (ih _)

theorem tryPoolBut_keepsClose (skip : Option Berth) (s : State) : s.KeepsClose (tryPoolBut skip s) :=
  (serveNeeds_modsOnly skip s).keepsClose.trans (serveClaims_keepsClose _ _)

theorem tryPool_keepsClose (s : State) : s.KeepsClose (tryPool s) := tryPoolBut_keepsClose none s

theorem tryIf_keepsClose (head : Bool) (s : State) : s.KeepsClose (tryIf head s) := by
  unfold tryIf
  split
  · exact tryPool_keepsClose s
  · exact .refl s

theorem tryIfNeeded_keepsClose (b : Berth) (s : State) : s.KeepsClose (tryIfNeeded b s) := by
  unfold tryIfNeeded
  split
  · exact tryPool_keepsClose s
  · exact .refl s

theorem rejoin_keepsClose (b : Berth) (s : State) : s.KeepsClose (rejoin b s) :=
  ((enterState_keepsClose b .energising s).trans (unblockModules_modsOnly b _).keepsClose).trans
    (tryIfNeeded_keepsClose b _)

theorem paramsIntoForce_keepsClose (b : Berth) (s : State) : s.KeepsClose (paramsIntoForce b s) :=
  keepsClose_of_drive (paramsIntoForce_drive b s)

theorem enterIdle_keepsClose (b : Berth) (s : State) : s.KeepsClose (enterIdle b s) := by
  obtain ⟨j, p, closed⟩ := closed_spec b s
  have shut : s.KeepsClose (s.closed b) := keepsClose_of_sync (by rw [closed])
  have idle : (enterState b .idle (s.closed b)).KeepsClose ((enterState b .idle (s.closed b)).updSeq b idleContext) :=
    keepsClose_of_sync rfl
  exact ((shut.trans (enterState_keepsClose b .idle _)).trans idle).trans (paramsIntoForce_keepsClose b _)

theorem removeClaim_keepsClose (b : Berth) (s : State) : s.KeepsClose (removeClaim b s) := keepsClose_of_sync rfl

theorem claimTimeout_keepsClose (b : Berth) (s : State) : s.KeepsClose (claimTimeout b s) :=
  ((removeClaim_keepsClose b s).trans ((enterIdle_keepsClose b _).trans (completeCurrent_keepsClose b _ _ _))).trans
    (tryIf_keepsClose _ _)

theorem deEnergised_keepsClose (b : Berth) (s : State) : s.KeepsClose (deEnergised b s) := by
  have released : s.KeepsClose (reportIfChanged b (s.healthy b) (releaseModules b s)) :=
    (releaseModules_modsOnly b s).keepsClose.trans (keepsClose_of_sync (reportIfChanged_sync ..))
  exact ((released.trans (tryPoolBut_keepsClose (some b) _)).trans (enterIdle_keepsClose b _)).trans
    (completeCurrent_keepsClose b _ _ _)

/-! ## Module faults and service (R22, R23, R31 to R35, R39) -/

theorem countedFault_sync (b : Berth) (cause : Word) (m : ModuleId) (s : State) :
    (countedFault b cause m s).sync = s.sync := by
  rcases ladder_cases m s with fast | ⟨fast, slow⟩ | ⟨fast, slow⟩
  · rw [countedFault_fast b cause fast]
    rfl
  · rw [countedFault_slow b cause fast slow]
    rfl
  · rw [countedFault_lock b cause fast slow, setSummary_sync, emitEvent_sync]
    rfl

theorem countFlags_sync (m : ModuleId) (f : PerFlag Bool) (s : State) : (countFlags m f s).sync = s.sync := by
  unfold countFlags
  dsimp only
  split
  · rfl
  · split
    · exact countedFault_sync ..
    · rfl

theorem joinRunning_sync (m : ModuleId) (x : StatusReport) (s : State) : (joinRunning m x s).sync = s.sync := by
  unfold joinRunning
  split
  · split
    · dsimp only
      split
      · rw [giveBack_eq]
        rfl
      · rfl
    · rfl
  · rfl

theorem reportFor_sync (o : Option Berth) (s t : State) : (reportFor o s t).sync = t.sync := by
  cases o with
  | none => rfl
  | some b => exact reportIfChanged_sync ..

theorem tryAfterLockout_keepsClose (o : Option Berth) (m : ModuleId) (s : State) : s.KeepsClose (tryAfterLockout o m s) := by
  unfold tryAfterLockout
  split
  · exact tryIfNeeded_keepsClose ..
  · exact .refl s

theorem acceptStatus_keepsClose (m : ModuleId) (x : StatusReport) (s : State) : s.KeepsClose (acceptStatus m x s) := by
  have reported : s.KeepsClose (reportFor (s.mods.get m).standing.berth? s
      (countFlags m x.flags (joinRunning m x (takeStatus m x s)))) := by
    refine keepsClose_of_sync ?_
    rw [reportFor_sync, countFlags_sync, joinRunning_sync]
    rfl
  unfold acceptStatus
  dsimp only
  split
  · exact reported.trans (tryPool_keepsClose _)
  · exact reported.trans (tryAfterLockout_keepsClose _ m _)

theorem statusRecord_keepsClose (m : ModuleId) (ws : List Word) (s : State) : s.KeepsClose (statusRecord m ws s) := by
  unfold statusRecord
  dsimp only
  split
  · exact keepsClose_of_sync rfl
  · split
    · split
      · exact .refl s
      · exact acceptStatus_keepsClose ..
    · exact acceptStatus_keepsClose ..

theorem statusStale_keepsClose (m : ModuleId) (s : State) : s.KeepsClose (statusStale m s) := by
  unfold statusStale
  dsimp only
  split
  · exact keepsClose_of_sync rfl
  · refine .trans (keepsClose_of_sync ?_) (tryAfterLockout_keepsClose _ m _)
    rw [reportIfChanged_sync, countedFault_sync]
    rfl

theorem retryWaitEnd_keepsClose (m : ModuleId) (s : State) : s.KeepsClose (retryWaitEnd m s) := by
  unfold retryWaitEnd
  split
  · split
    · exact (restartModule_modsOnly _ m s).keepsClose
    · exact (releaseModule_modsOnly m s).keepsClose.trans (tryPool_keepsClose _)
  · exact keepsClose_of_sync rfl

theorem serve_keepsClose (a : ServiceAction) (m : ModuleId) (s : State) : s.KeepsClose (serve a m s).2 := by
  have tried (f : Module → Module) : s.KeepsClose (tryPool (s.updMod m f)) :=
    (updMod_modsOnly m f s).keepsClose.trans (tryPool_keepsClose _)
  unfold serve clearLockout
  split
  · exact .refl s
  · dsimp only
    exact tried _
  · exact keepsClose_of_sync rfl
  · dsimp only
    exact tried _
  · exact .refl s

theorem serviceWrite_keepsClose (v : Word) (s : State) : s.KeepsClose (serviceWrite v s) := by
  have told (i : BitVec 4) (a : BitVec 8) (o : ServiceOutcome) (u : State) : u.KeepsClose (serviceResult i a o u) :=
    keepsClose_of_sync rfl
  unfold serviceWrite
  dsimp only
  split
  · unfold serviceRequest
    split
    · exact told ..
    · exact (serve_keepsClose ..).trans (told ..)
  · exact told ..

end Sys2Proof.Machine
end

section
/-! Proofs: the Synchronising Unit, the intake, the station page and time raise no CLOSE and leave a used close used but for
the due instant of a close, the start of watching and the resets (R79, R83, R84). -/

namespace Sys2Proof.Machine

/-! ## The Synchronising Unit -/

theorem predict_keepsClose (b : Berth) (s : State) : s.KeepsClose (predict b s) := by
  unfold predict
  split
  next p x _ _ =>
    exact updSync_keepsClose b (setPrediction s.now (sweepTime ((s.osc.get b).lead p s.now) x.toNat (s.closeUs b))
      (s.closeUs b)) (fun _ => ⟨id, id⟩) s
  next => exact .refl s

theorem setWindow_keepsClose (b : Berth) (w : WindowResult) (s : State) :
    s.KeepsClose (s.updSync b fun u => { u with window := w }) :=
  updSync_keepsClose b (fun u => { u with window := w }) (fun _ => ⟨id, id⟩) s

theorem dropPrediction_keepsClose (b : Berth) (s : State) : s.KeepsClose (s.updSync b dropPrediction) :=
  updSync_keepsClose b dropPrediction (fun _ => ⟨id, id⟩) s

theorem evaluate_keepsClose (b : Berth) (s : State) : s.KeepsClose (evaluate b s) := by
  have seen := setWindow_keepsClose b (s.evalWindow b) s
  unfold evaluate
  dsimp only
  split
  · split
    · split
      · exact (seen.trans (enterState_keepsClose b .armed _)).trans (predict_keepsClose b _)
      · exact seen.trans (predict_keepsClose b _)
    · split
      · exact (seen.trans (dropPrediction_keepsClose b _)).trans (enterState_keepsClose b .matching _)
      · exact seen
  · exact .refl s

theorem confirmClose_keepsClose (b : Berth) (s : State) : s.KeepsClose (confirmClose b s) := by
  let u := s.updSync b fun u => { u with closeConfirm := .stopped, lastClose := some (s.closeRecord b) }
  have confirmed : s.KeepsClose u :=
    updSync_keepsClose b (fun u => { u with closeConfirm := .stopped, lastClose := some (s.closeRecord b) })
      (fun _ => ⟨id, id⟩) s
  have rough : u.KeepsClose (noteParallel b (emitRough b (s.closeRecord b) u)) := by
    refine keepsClose_of_sync ?_
    unfold noteParallel emitRough
    rw [State.updSession_sync]
    split
    · exact emitEvent_sync ..
    · rfl
  exact ((confirmed.trans rough).trans (enterState_keepsClose b .parallelIn _)).trans
    ((emitEvent_keepsClose ..).trans (completeCurrent_keepsClose ..))

theorem closeFailed_keepsClose (b : Berth) (s : State) : s.KeepsClose (closeFailed b s) :=
  (updSync_keepsClose b (fun u => { u with closeConfirm := .stopped }) (fun _ => ⟨id, id⟩) s).trans
    (entered_keepsClose b .energised _ _ _)

theorem uncommandedClose_keepsClose (b : Berth) (s : State) : s.KeepsClose (uncommandedClose b s) := by
  have stopped (u : State) : u.KeepsClose (u.updSync b fun u => { u with closeDue := .stopped, secondTrip := false }) :=
    updSync_keepsClose b (fun u => { u with closeDue := .stopped, secondTrip := false }) (fun _ => ⟨id, id⟩) u
  exact ((((issueTrip_keepsClose b s).trans (stopped _)).trans (removeClaim_keepsClose b _)).trans
    (enterTripped_keepsClose b .uncommandedClose _)).trans (tryIf_keepsClose _ _)

theorem tripIfClosed_keepsClose (b : Berth) (s : State) : s.KeepsClose (tripIfClosed b s) := by
  unfold tripIfClosed
  split
  · exact uncommandedClose_keepsClose b s
  · exact .refl s

theorem breakerRise_keepsClose (b : Berth) (s : State) : s.KeepsClose (breakerRise b s) := by
  unfold breakerRise
  split
  · exact confirmClose_keepsClose b s
  iterate 4 exact .refl s
  · exact uncommandedClose_keepsClose b s

theorem setView_keepsClose (b : Berth) (closed : Bool) (s : State) : s.KeepsClose (setView b closed s) :=
  updSync_keepsClose b (fun u => { u with level := closed, heldUs := 0, view := closed }) (fun _ => ⟨id, id⟩) s

theorem startDeadTime_keepsClose (b : Berth) (s : State) : s.KeepsClose (startDeadTime b s) :=
  updSync_keepsClose b (fun u => { u with deadTime := .running ((s.params.get b).deadTimeS * Config.secUs) })
    (fun _ => ⟨id, id⟩) s

/-- A berth enters ENERGISED with an EVENT, and its request ends. -/
theorem returned_keepsClose (b : Berth) (e : EventCode) (n : Nat) (ws : List Word) (o : ReqOutcome) (c : Option Cause)
    (s : State) :
    s.KeepsClose (completeCurrent b o c (emitEvent e n (some b) ws (enterState b .energised s))) :=
  ((enterState_keepsClose b .energised s).trans (emitEvent_keepsClose ..)).trans (completeCurrent_keepsClose ..)

theorem breakerFall_keepsClose (b : Berth) (s : State) : s.KeepsClose (breakerFall b s) := by
  have dead := startDeadTime_keepsClose b s
  have ended (u : State) : u.KeepsClose (u.updSync b fun u => { u with openConfirm := .stopped }) :=
    updSync_keepsClose b (fun u => { u with openConfirm := .stopped }) (fun _ => ⟨id, id⟩) u
  unfold breakerFall
  dsimp only
  split
  · exact (dead.trans (ended _)).trans (returned_keepsClose b ..)
  iterate 3 exact dead.trans (returned_keepsClose b ..)
  · exact dead

theorem openFailed_keepsClose (b : Berth) (s : State) : s.KeepsClose (openFailed b s) :=
  ((updSync_keepsClose b (fun u => { u with openConfirm := .stopped, secondTrip := true }) (fun _ => ⟨id, id⟩) s).trans
    (issueTrip_keepsClose b _)).trans (enterTripped_keepsClose b .openFailed _)

theorem tripPulseEnd_keepsClose (b : Berth) (s : State) : s.KeepsClose (tripPulseEnd b s) :=
  updSync_keepsClose b (fun u =>
    { u with
      tripPulse := .stopped
      openConfirm := if (s.seq.get b).state = .opening then .running Config.openConfirmUs else u.openConfirm
      secondTrip := false }) (fun _ => ⟨id, id⟩) s

theorem overloadExpired_keepsClose (b : Berth) (s : State) : s.KeepsClose (overloadExpired b s) := by
  unfold overloadExpired
  split
  iterate 2 exact controlledOpen_keepsClose ..
  · exact (issueTrip_keepsClose b s).trans (enterTripped_keepsClose ..)
  · exact enterTripped_keepsClose ..

/-! ## The intake (R65, R66) -/

theorem checkEnergising_keepsClose (b : Berth) (s : State) : s.KeepsClose (checkEnergising b s) := by
  unfold checkEnergising
  split
  · unfold becomeEnergised
    dsimp only
    have entered := enterState_keepsClose b .energised s
    split
    · exact entered.trans (completeCurrent_keepsClose ..)
    · refine (entered.trans ?_).trans (completeCurrent_keepsClose ..)
      unfold firstEnergised
      split
      · exact .refl _
      next p _ =>
        let u := (enterState b .energised s).updSeq b fun q => { q with firstEnergised := true }
        have marked : (enterState b .energised s).KeepsClose u := keepsClose_of_sync rfl
        have opened : u.KeepsClose (openSession b p u) := keepsClose_of_drive (openSession_drive b p u)
        exact (marked.trans opened).trans (emitEvent_keepsClose ..)
  · exact .refl s

theorem compareRelease_keepsClose (b : Berth) (p : Int) (s : State) : s.KeepsClose (compareRelease b p s) := by
  unfold compareRelease
  split
  · exact controlledOpen_keepsClose ..
  · exact .refl s

theorem takeValues_keepsClose (b : Berth) (k : SlotKind) (r : MeasRecord) (s : State) :
    s.KeepsClose (takeValues b k r s) := by
  have slot (f : Meas → Meas) (u : State) : u.KeepsClose (u.updMeas b f) := keepsClose_of_sync rfl
  have locked (f : Osc → Osc) (u : State) : u.KeepsClose (u.updOsc b f) := keepsClose_of_sync rfl
  have residual (p : Phasor) (u : State) : u.KeepsClose (u.updSync b (takeShipPhasor p)) :=
    updSync_keepsClose b (takeShipPhasor p) (fun _ => ⟨id, id⟩) u
  unfold takeValues
  split
  · split
    · exact (((slot _ s).trans (locked _ _)).trans (residual r.phasor _)).trans (evaluate_keepsClose b _)
    · exact slot _ s
  · split
    · exact ((slot _ s).trans (checkEnergising_keepsClose b _)).trans (evaluate_keepsClose b _)
    · exact slot _ s
  · split
    · let u := s.updMeas b fun m => { m with feeder := m.feeder.refresh (s.stalenessUs b) (some r.feeder) }
      have read : s.KeepsClose (takeReading b r.feeder u) :=
        (keepsClose_of_sync (s := s) (t := u) rfl).trans (keepsClose_of_drive (takeReading_drive b r.feeder u))
      exact (read.trans (keepsClose_of_sync (feederAccepted_sync b _))).trans (compareRelease_keepsClose ..)
    · have missed := (slot (fun m => { m with counters :=
        { m.counters with meterStatus := sat16 (m.counters.meterStatus + 1) } }) s).trans (slot (fun m =>
          { m with feeder := m.feeder.refresh (s.stalenessUs b) none }) _)
      unfold acceptFeederFault
      dsimp only
      split
      · exact missed
      · exact missed.trans (keepsClose_of_sync (feederAccepted_sync b _))

theorem takeMeasurement_keepsClose (b : Berth) (w0 w1 w2 w3 : Word) (s : State) :
    s.KeepsClose (takeMeasurement b w0 w1 w2 w3 s) := by
  have counted (f : Counters → Counters) : s.KeepsClose (countFailure b f s) := keepsClose_of_sync rfl
  unfold takeMeasurement
  dsimp only
  split
  · exact counted _
  · split
    · exact counted _
    · split
      next u k ordered _ => exact (keepsClose_of_drive (applySeq_drive ordered)).trans (takeValues_keepsClose b k _ u)
      next => exact counted _

theorem slotStale_keepsClose (b : Berth) (k : SlotKind) (s : State) : s.KeepsClose (slotStale b k s) := by
  have aged (f : Meas → Meas) : s.KeepsClose (setSummary (.measureStale b) (s.updMeas b f)) :=
    keepsClose_of_sync (setSummary_sync ..)
  cases k with
  | shipPhasor =>
    let u := setSummary (.measureStale b) (s.updMeas b fun m => { m with ship := m.ship.goStale })
    have held : u.KeepsClose (u.updOsc b (Osc.goStale (u.oscEnv b))) := keepsClose_of_sync rfl
    have forgot := updSync_keepsClose b forgetShipPhasor (fun _ => ⟨id, id⟩) (u.updOsc b (Osc.goStale (u.oscEnv b)))
    exact (((aged _).trans held).trans forgot).trans (evaluate_keepsClose b _)
  | shorePhasor => exact (aged _).trans (evaluate_keepsClose b _)
  | feederPower =>
    exact (aged fun m => { m with feeder := m.feeder.goStale, staleBetween := m.staleBetween || m.base.isSome }).trans
      (keepsClose_of_sync (feederWentStale_sync b _))

/-! ## The station page and the supervisor -/

theorem supervisorLost_keepsClose (b : Berth) (s : State) : s.KeepsClose (supervisorLost b s) := by
  unfold supervisorLost
  split
  iterate 2 exact entered_keepsClose b .energised _ _ s
  · exact keepsClose_of_sync (refreshDirection_sync b _)
  · exact .refl s

theorem heartbeat_keepsClose (s : State) : s.KeepsClose (heartbeat s) := by
  have started : s.KeepsClose (startHeartbeat s) := keepsClose_of_sync rfl
  unfold heartbeat
  split
  · exact .refl s
  · exact started
  · exact started
  · exact (started.trans (forBerths_keepsClose (fun b u => keepsClose_of_sync (supervisorRestored_sync b u)) _)).trans
      (emitEvent_keepsClose ..)

theorem heartbeatLost_keepsClose (s : State) : s.KeepsClose (heartbeatLost s) := by
  have lost : s.KeepsClose (setSummary .supervisorLost
      { s with page := { s.page with presence := .lost, hbTimer := .stopped, lostUs := 0 } }) :=
    keepsClose_of_sync (setSummary_sync ..)
  exact (lost.trans (forBerths_keepsClose supervisorLost_keepsClose _)).trans (emitEvent_keepsClose ..)

theorem rebaseIntake_keepsClose (s : State) : s.KeepsClose (rebaseIntake s) :=
  forBerths_keepsClose (f := fun b s => (s.updMeas b Meas.rebase).updSync b forgetShipPhasor)
    (fun b s => (keepsClose_of_sync (s := s) (t := s.updMeas b Meas.rebase) rfl).trans
      (updSync_keepsClose b forgetShipPhasor (fun _ => ⟨id, id⟩) _)) s

theorem applySection_keepsClose (x : Section) (s : State) : s.KeepsClose (applySection x s) := by
  cases x with
  | windows =>
    have tabled : s.KeepsClose { s with bus := { s.bus with table := s.rawTable.map RawEntry.entry, firstCommit := true } } :=
      keepsClose_of_sync rfl
    exact tabled.trans (rebaseIntake_keepsClose _)
  | berths => exact keepsClose_of_drive (forBerths_drive commitBerth_drive s)
  | pool =>
    have rated : s.ModsOnly (forModules (fun m s => s.updMod m fun r =>
        { r with present := s.cfgFlag (96 + 4 * m.num), rating := s.cfg (97 + 4 * m.num) }) s) :=
      forModules_modsOnly (fun m s => updMod_modsOnly m _ s) s
    exact rated.keepsClose.trans (tryPool_keepsClose _)
  | journal => exact keepsClose_of_sync rfl
  | protection => exact keepsClose_of_sync rfl
  | metrology => exact keepsClose_of_drive (admitConfig_drive _ s)
  | attention => exact keepsClose_of_sync rfl

theorem applyNamed_keepsClose (mask : Word) (x : Section) (s : State) : s.KeepsClose (applyNamed mask x s) := by
  unfold applyNamed
  split
  · exact applySection_keepsClose x s
  · exact .refl s

theorem commit_keepsClose (mask : Word) (s : State) : s.KeepsClose (commit mask s) := by
  have named : s.KeepsClose (namedApplied mask s) := by
    have one := applyNamed_keepsClose mask
    rw [namedApplied_eq]
    exact (((((((one .windows s).trans (one .berths _)).trans (one .pool _)).trans (one .journal _)).trans
      (one .protection _)).trans (one .metrology _)).trans (one .attention _))
  have applied : s.KeepsClose (applySections mask s) := named.trans (keepsClose_of_drive (rewindRing_drive s _))
  unfold commit
  dsimp only
  split
  · exact applied.trans (keepsClose_of_sync rfl)
  · exact keepsClose_of_sync rfl

theorem takeStationWord_keepsClose (n : Nat) (v : Word) (s : State) : s.KeepsClose (takeStationWord n v s) := by
  unfold takeStationWord
  split
  · exact keepsClose_of_sync rfl
  · split
    · exact heartbeat_keepsClose s
    · exact keepsClose_of_drive (acknowledge_drive v s)
    · exact keepsClose_of_drive (unlockWrite_drive v s)
    · exact keepsClose_of_drive (journalCommand_drive v s)
    · exact keepsClose_of_drive (consumeWrite_drive v s)
    · exact keepsClose_of_sync rfl
    · exact keepsClose_of_drive (timeSet_drive v s)
    · exact serviceWrite_keepsClose v s
    · exact keepsClose_of_sync rfl
    · exact commit_keepsClose v s
    · exact .refl s

/-! ## Time (R84, R85, R93) -/

theorem advance_keepsClose (s : State) : s.KeepsClose (advance s) := by
  refine ⟨fun b => ?_⟩
  have ticked : (advance s).sync.get b = (s.sync.get b).advance := advance_sync s b
  rw [ticked]
  refine ⟨fun high => ?_, id⟩
  have ticks : (s.sync.get b).advance.closeHigh = (s.sync.get b).closePulse.tick.isRunning := rfl
  rw [ticks, tick_isRunning] at high
  exact high

/-- Everything that falls due but the close. -/
theorem timedEffect_keepsClose {c : Instr} {s : State} (other : ∀ b, c ≠ .closeDueExpiry b) :
    s.KeepsClose (timedEffect c s) := by
  unfold timedEffect
  split
  case h_1 =>
    have ended : s.KeepsClose { s with tripHold := .stopped } := keepsClose_of_sync rfl
    exact (ended.trans (forBerths_keepsClose startDeadTime_keepsClose _)).trans
      (forBerths_keepsClose tripIfClosed_keepsClose _)
  case h_2 m => exact statusStale_keepsClose m s
  case h_3 m => exact retryWaitEnd_keepsClose m s
  case h_6 b => exact claimTimeout_keepsClose b s
  case h_7 b k => exact slotStale_keepsClose b k s
  case h_9 b =>
    exact (keepsClose_of_sync (s := s) (t := s.updOsc b (Osc.settle (s.shipFresh b))) rfl).trans (evaluate_keepsClose b _)
  case h_11 b =>
    exact (keepsClose_of_sync (s := s) (t := s.updSeq b fun q => { q with volt := .nominal }) rfl).trans
      (checkEnergising_keepsClose b _)
  case h_12 b =>
    exact (keepsClose_of_sync (s := s) (t := s.updSeq b fun q => { q with energise := .stopped }) rfl).trans
      (enterTripped_keepsClose ..)
  case h_13 b =>
    exact (keepsClose_of_sync (s := s) (t := s.updSeq b fun q => { q with volt := .zero }) rfl).trans
      (deEnergised_keepsClose b _)
  case h_14 b => exact keepsClose_of_sync (recomputeShares_sync b s)
  case h_15 b =>
    refine keepsClose_of_sync ((recomputeShares_sync b _).trans ?_)
    rw [(blankBerth_driveOnly b _).rest]
    rfl
  case h_16 b => exact entered_keepsClose b .energised _ _ s
  case h_17 b => exact controlledOpen_keepsClose ..
  case h_18 b => exact overloadExpired_keepsClose b s
  case h_19 b => exact controlledOpen_keepsClose ..
  case h_20 b => exact absurd rfl (other b)
  case h_21 b => exact updSync_keepsClose b (fun u => { u with closePulse := .stopped }) (fun _ => ⟨nofun, id⟩) s
  case h_22 b => exact tripPulseEnd_keepsClose b s
  case h_23 b => exact closeFailed_keepsClose b s
  case h_24 b => exact openFailed_keepsClose b s
  case h_25 b => exact updSync_keepsClose b (fun u => { u with deadTime := .stopped }) (fun _ => ⟨id, id⟩) s
  case h_26 => exact keepsClose_of_drive (tick_drive s)
  case h_28 => exact heartbeatLost_keepsClose s
  case h_30 => exact keepsClose_of_drive (startWrite_drive s)
  all_goals exact keepsClose_of_sync rfl

end Sys2Proof.Machine
end

section
/-! Proofs: the due instant of a close, and that no other event raises CLOSE (R79, R83, R84). -/

namespace Sys2Proof.Machine

/-! ## The due instant (R83) -/

/-- R83 step 1: a due instant whose window fails is as an evaluation of it. -/
theorem closeDue_fails {b : Berth} {s : State} (armed : (s.seq.get b).state = .armed)
    (fails : (s.evalWindow b).holds = false) : closeDue b s = evaluate b s := by
  unfold closeDue evaluate
  rw [armed]
  dsimp only
  rw [fails]
  rfl

theorem closeDue_postpones {b : Berth} {s : State} {x : Int} (holds : (s.evalWindow b).holds = true)
    (slip : (s.evalWindow b).slip = some x)
    (stays : (s.sync.get b).deadTime.isRunning = true ∨ s.tripLine b = true ∨ (s.sync.get b).closeUsed = true) :
    closeDue b s = s.updSync b fun u => postponeClose (slipPeriod x.toNat) { u with window := s.evalWindow b } := by
  let u := s.updSync b fun u => { u with window := s.evalWindow b }
  have own : u.sync.get b = { s.sync.get b with window := s.evalWindow b } := State.updSync_self ..
  have line : u.tripLine b = s.tripLine b := by
    unfold State.tripLine
    rw [own]
    rfl
  have blocked : ((u.sync.get b).deadTime.isRunning || u.tripLine b || (u.sync.get b).closeUsed) = true := by
    rw [line, own]
    simpa only [Bool.or_eq_true, or_assoc] using stays
  unfold closeDue
  dsimp only
  rw [holds, if_neg nofun, if_pos blocked, updSync_updSync, slip]
  rfl

/-- R83 step 4: the unit whose close is pulsed. -/
def State.pulsed (b : Berth) (s : State) : State :=
  s.updSync b fun u => pulseClose s.now (s.closeUs b) { u with window := s.evalWindow b }

theorem closeDue_pulses {b : Berth} {s : State} (holds : (s.evalWindow b).holds = true)
    (dead : (s.sync.get b).deadTime.isRunning = false) (low : s.tripLine b = false)
    (unused : (s.sync.get b).closeUsed = false) : closeDue b s = enterState b .closing (s.pulsed b) := by
  let u := s.updSync b fun u => { u with window := s.evalWindow b }
  have own : u.sync.get b = { s.sync.get b with window := s.evalWindow b } := State.updSync_self ..
  have line : u.tripLine b = false := by
    unfold State.tripLine
    rw [own]
    exact low
  have free : ¬((u.sync.get b).deadTime.isRunning || u.tripLine b || (u.sync.get b).closeUsed) = true := by
    rw [line, own]
    dsimp only
    rw [dead, unused]
    nofun
  unfold closeDue
  dsimp only
  rw [holds, if_neg nofun, if_neg free, updSync_updSync]
  rfl

theorem pulsed_sync {b : Berth} {s : State} : (enterState b .closing (s.pulsed b)).sync.get b =
    { s.sync.get b with
      window := s.evalWindow b, closeUsed := true, closeCount := (s.sync.get b).closeCount + 1
      closePulse := .running 100000
      closeConfirm := .running ((s.params.get b).closeTimeMs * 1000 + 200000)
      closeDue := .stopped, pulseStart := s.now } := by
  rw [enterState_sync, PerBerth.get_set_self, enteredSync_in b _ _ (.inr rfl)]
  exact State.updSync_self ..

/-! ## What raises CLOSE, and what makes a close unused -/

/-- The due instant of a close that is pulsed, seen from before and after it. -/
def State.Closes (b : Berth) (s t : State) : Prop :=
  (s.seq.get b).state = .armed ∧ (s.meas.get b).ship.fresh = .fresh ∧ (s.meas.get b).shore.fresh = .fresh ∧
    (s.evalWindow b).holds = true ∧ (s.sync.get b).deadTime.isRunning = false ∧ s.tripLine b = false ∧
    (s.sync.get b).closeUsed = false ∧ (s.sync.get b).closeDue = .running 0 ∧
    (t.sync.get b).closeUsed = true ∧ (t.seq.get b).state = .closing

/-- The start of watching on an accepted SYNC, seen from before and after it. -/
def State.StartsWatch (b : Berth) (s t : State) : Prop :=
  (s.seq.get b).state = .energised ∧ ((t.seq.get b).state = .matching ∨ (t.seq.get b).state = .armed)

/-- No CLOSE is raised, and a used close becomes unused only at the start of watching. -/
structure State.KeepsCloseOrWatches (s t : State) : Prop where
  berth : ∀ b, ((t.sync.get b).closeHigh = true → (s.sync.get b).closeHigh = true) ∧
    ((s.sync.get b).closeUsed = true → (t.sync.get b).closeUsed = false → s.StartsWatch b t)

theorem State.KeepsClose.orWatches {s t : State} (h : s.KeepsClose t) : s.KeepsCloseOrWatches t :=
  ⟨fun b => ⟨(h.berth b).low, fun used unused => absurd ((h.berth b).used used) (by rw [unused]; nofun)⟩⟩

theorem predict_seq (b : Berth) (s : State) : (predict b s).seq = s.seq := by
  unfold predict
  split <;> rfl

theorem evaluate_from_matching {b : Berth} {s : State} (h : (s.seq.get b).state = .matching) :
    ((evaluate b s).seq.get b).state = .matching ∨ ((evaluate b s).seq.get b).state = .armed := by
  by_cases holds : (s.evalWindow b).holds = true
  · refine .inr ?_
    have e : evaluate b s = predict b (enterState b .armed (s.updSync b fun u => { u with window := s.evalWindow b })) := by
      unfold evaluate
      rw [h]
      dsimp only
      rw [holds]
      rfl
    rw [e, predict_seq]
    exact enterState_state b .armed _
  · rw [evaluate_matching h (Bool.eq_false_iff.mpr holds)]
    exact .inl h

theorem evaluate_other {b c : Berth} (ne : c ≠ b) (s : State) : (evaluate b s).sync.get c = s.sync.get c :=
  (evaluate_only b s).sync c ne

/-- R79: an accepted SYNC. -/
theorem takeSync_watches {b : Berth} {s : State} (energised : (s.seq.get b).state = .energised) (t : BitVec 16) :
    s.KeepsCloseOrWatches (takeSync b t s) := by
  let u := enterState b .matching (makeCurrent b .sync t s)
  let v := u.updSync b fun u => { u with closeUsed := false, prediction := none, closeDue := .stopped }
  have entered : s.KeepsClose u :=
    (keepsClose_of_sync (s := s) (t := makeCurrent b .sync t s) rfl).trans (enterState_keepsClose b .matching _)
  have evaluated : v.KeepsClose (evaluate b v) := evaluate_keepsClose b v
  have state : (v.seq.get b).state = .matching := enterState_state b .matching _
  refine ⟨fun c => ?_⟩
  by_cases same : c = b
  · subst same
    have high : (v.sync.get c).closeHigh = (u.sync.get c).closeHigh := by
      rw [show v.sync.get c = _ from State.updSync_self ..]
      rfl
    refine ⟨fun rises => (entered.berth c).low (high ▸ (evaluated.berth c).low rises), fun _ _ => ⟨energised, ?_⟩⟩
    exact evaluate_from_matching state
  · have kept : (takeSync b t s).sync.get c = u.sync.get c :=
      (evaluate_other same v).trans (State.updSync_other u b _ c same)
    rw [kept]
    exact entered.orWatches.berth c |>.imp id fun h used unused =>
      absurd ((entered.berth c).used used) (by rw [unused]; nofun)

theorem refuse_keepsClose (b : Berth) (k : BitVec 8) (t : BitVec 16) (o : ReqOutcome) (s : State) :
    s.KeepsClose (refuse b k t o s) := keepsClose_of_sync rfl

theorem takeConnect_keepsClose (b : Berth) (t : BitVec 16) (s : State) : s.KeepsClose (takeConnect b t s) := by
  have taken (p : ShipProfile) : s.KeepsClose (makeCurrent b .connect t (s.updSeq b fun q =>
      { q with profile := some p, firstEnergised := false })) := keepsClose_of_sync rfl
  have queued (u : State) (l : List Claim) : u.KeepsClose { u with claims := l } := keepsClose_of_sync rfl
  unfold takeConnect
  dsimp only
  split
  · exact refuse_keepsClose ..
  · split
    · exact refuse_keepsClose ..
    · split
      · exact refuse_keepsClose ..
      · split
        · exact refuse_keepsClose ..
        · unfold connectWith
          dsimp only
          split
          · exact refuse_keepsClose ..
          · exact (taken _).trans (energiseWith_keepsClose ..)
          · exact ((taken _).trans (queued _ _)).trans (enterState_keepsClose b .waitingModules _)

theorem abortEffect_keepsClose (b : Berth) (s : State) : s.KeepsClose (abortEffect b s) := by
  unfold abortEffect
  split
  · exact ((removeClaim_keepsClose b s).trans (enterIdle_keepsClose b _)).trans (tryIf_keepsClose _ _)
  iterate 2 exact enterState_keepsClose b .energised s
  · exact enterState_keepsClose b .parallelOut s
  · exact .refl s

theorem takeDisconnect_keepsClose (b : Berth) (t : BitVec 16) (s : State) : s.KeepsClose (takeDisconnect b t s) := by
  have entered : s.KeepsClose (enterState b .deEnergising (makeCurrent b .disconnect t s)) :=
    (keepsClose_of_sync (s := s) (t := makeCurrent b .disconnect t s) rfl).trans (enterState_keepsClose b .deEnergising _)
  unfold takeDisconnect
  dsimp only
  split
  · exact entered.trans (deEnergised_keepsClose b _)
  · exact entered

theorem energised_of_accepts {b : Berth} {s : State} (h : s.accepts b .sync = true) :
    (s.seq.get b).state = .energised := by
  unfold State.accepts at h
  cases at_ : (s.seq.get b).state <;> rw [at_] at h <;> first | rfl | cases h

theorem takeAccepted_watches {b : Berth} {k : RequestKind} {s : State} (accepts : s.accepts b k = true) (t : BitVec 16) :
    s.KeepsCloseOrWatches (takeAccepted b t k s) := by
  have current (k : RequestKind) : s.KeepsClose (makeCurrent b k t s) := keepsClose_of_sync rfl
  cases k with
  | connect => exact (takeConnect_keepsClose b t s).orWatches
  | sync => exact takeSync_watches (energised_of_accepts accepts) t
  | gensOff =>
    exact (((enterState_keepsClose b .shoreOnly s).trans (emitEvent_keepsClose ..)).trans
      (writeResult_keepsClose ..)).orWatches
  | gensOn => exact ((current .gensOn).trans (enterState_keepsClose b .parallelOut _)).orWatches
  | abort =>
    exact (((completeCurrent_keepsClose b ..).trans (abortEffect_keepsClose b _)).trans
      (writeResult_keepsClose ..)).orWatches
  | disconnect => exact (takeDisconnect_keepsClose b t s).orWatches
  | clear =>
    have cleared : s.KeepsClose ((makeCurrent b .clear t s).updSeq b fun q => { q with tripCause := none }) :=
      keepsClose_of_sync rfl
    exact (cleared.trans (rejoin_keepsClose b _)).orWatches

theorem takeRequest_watches (b : Berth) (k : BitVec 8) (t : BitVec 16) (s : State) :
    s.KeepsCloseOrWatches (takeRequest b k t s) := by
  have refused (o : ReqOutcome) : s.KeepsCloseOrWatches (refuse b k t o s) := (refuse_keepsClose b k t o s).orWatches
  unfold takeRequest
  split
  · exact refused _
  · split
    · exact refused _
    · split
      · exact refused _
      · split
        · exact refused _
        next accepts => exact takeAccepted_watches (by simpa using accepts) t

/-- The words of a burst leave the units and the states of the sequencers as they were. -/
theorem writeShadow_rest (b : Berth) (ws : List (Nat × Word)) (s : State) :
    (writeShadow b ws s).sync = s.sync ∧ ∀ c, ((writeShadow b ws s).seq.get c).state = (s.seq.get c).state := by
  unfold writeShadow
  induction ws generalizing s with
  | nil => exact ⟨rfl, fun _ => rfl⟩
  | cons x ws ih =>
    have one : (shadowWord b x.1 x.2 s).sync = s.sync ∧
        ∀ c, ((shadowWord b x.1 x.2 s).seq.get c).state = (s.seq.get c).state := by
      unfold shadowWord
      split
      · refine ⟨rfl, fun c => ?_⟩
        by_cases same : c = b
        · rw [same, State.updSeq_self]
        · rw [State.updSeq_other s b _ c same]
      · exact ⟨rfl, fun _ => rfl⟩
    obtain ⟨sync, state⟩ := ih (shadowWord b x.1 x.2 s)
    exact ⟨sync.trans one.1, fun c => (state c).trans (one.2 c)⟩

theorem takeBerthWords_watches (b : Berth) (ws : List (Nat × Word)) (s : State) :
    s.KeepsCloseOrWatches (takeBerthWords b ws s) := by
  obtain ⟨sync, state⟩ := writeShadow_rest b ws s
  unfold takeBerthWords
  dsimp only
  split
  · refine ⟨fun c => ?_⟩
    obtain ⟨low, used⟩ := takeRequest_watches b _ _ (writeShadow b _ s) |>.berth c
    rw [sync] at low used
    refine ⟨low, fun was now => ?_⟩
    obtain ⟨energised, watches⟩ := used was now
    exact ⟨(state c).symm.trans energised, watches⟩
  · exact (keepsClose_of_sync sync).orWatches

/-- A transfer raises no CLOSE, and makes a used close unused at the start of watching only. -/
theorem watches_rule : TransferRule State.KeepsClose State.KeepsCloseOrWatches where
  refl := .refl
  trans := .trans
  weaken := State.KeepsClose.orWatches
  passAfter {s u} i _ _ h := ⟨fun c => by
    have drive := (passOn_busOnly i u).drive
    have sync : (passOn i u).sync = u.sync := congrArg Drive.sync drive
    have seq : (passOn i u).seq = u.seq := congrArg Drive.seq drive
    obtain ⟨low, used⟩ := h.berth c
    unfold State.StartsWatch
    rw [sync, seq]
    exact ⟨low, used⟩⟩
  passOn i s _ _ := keepsClose_of_drive (passOn_busOnly i s).drive
  respond t r s := keepsClose_of_drive (respond_busOnly t r s).drive
  refuse t c s := keepsClose_of_drive (refuseTransfer_busOnly t c s).drive
  clearRefused r s := keepsClose_of_drive (setRefused_busOnly r s).drive
  measurement := takeMeasurement_keepsClose
  status := statusRecord_keepsClose
  stationWord := takeStationWord_keepsClose
  berthWords := takeBerthWords_watches

/-! ## Resets -/

theorem powerOnReset_low (c0 c1 c2 : Bool) (s : State) (b : Berth) :
    ((powerOnReset c0 c1 c2 s).sync.get b).closeHigh = false := by
  have kept := (forBerths_keepsClose tripIfClosed_keepsClose (powerOn c0 c1 c2 s)).berth b
  rw [Bool.eq_false_iff]
  intro high
  have before := kept.low high
  rw [powerOn_sync] at before
  cases before

theorem lineReset_low (s : State) (b : Berth) : ((lineReset s).sync.get b).closeHigh = false := by
  cases b <;> rfl

theorem releaseReset_keepsClose (s : State) : s.KeepsClose (releaseReset s) :=
  keepsClose_of_sync (congrArg Drive.sync (closeAllCarried_drive _))

/-! ## Every event -/

theorem closeDue_closes {b : Berth} {s : State} (due : isDue s (.closeDueExpiry b) = true) (c : Berth) :
    (((closeDue b s).sync.get c).closeHigh = true → (s.sync.get c).closeHigh = true ∨ s.Closes c (closeDue b s)) ∧
      ((s.sync.get c).closeUsed = true → ((closeDue b s).sync.get c).closeUsed = true) := by
  obtain ⟨timer, state⟩ := Bool.and_eq_true_iff.mp due
  have armed := beq_iff_eq.mp state
  have expired := (Timer.isDue_iff _).mp timer
  have kept {t : State} (h : s.KeepsClose t) : ((t.sync.get c).closeHigh = true → (s.sync.get c).closeHigh = true ∨ s.Closes c t) ∧
      ((s.sync.get c).closeUsed = true → (t.sync.get c).closeUsed = true) := ⟨fun high => .inl ((h.berth c).low high), (h.berth c).used⟩
  by_cases holds : (s.evalWindow b).holds = true
  · obtain ⟨-, x, -, slip, -⟩ := evalWindow_held holds
    by_cases stays : (s.sync.get b).deadTime.isRunning = true ∨ s.tripLine b = true ∨ (s.sync.get b).closeUsed = true
    · rw [closeDue_postpones holds slip stays]
      exact kept (updSync_keepsClose b (fun u => postponeClose (slipPeriod x.toNat) { u with window := s.evalWindow b })
        (fun _ => ⟨id, id⟩) s)
    · simp only [not_or, Bool.not_eq_true] at stays
      obtain ⟨dead, low, unused⟩ := stays
      rw [closeDue_pulses holds dead low unused]
      by_cases same : c = b
      · subst same
        obtain ⟨c1, -⟩ := (evalWindow_holds_iff c s).mp holds
        obtain ⟨ship, shore⟩ := (evalWindow_c1_iff c s).mp c1
        refine ⟨fun _ => .inr ⟨armed, ship, shore, holds, dead, low, unused, expired, ?_, enterState_state ..⟩, fun used => ?_⟩
        · rw [pulsed_sync]
        · rw [pulsed_sync]
      · have other : (enterState b .closing (s.pulsed b)).sync.get c = s.sync.get c := by
          rw [enterState_sync, PerBerth.get_set_ne _ _ _ _ same]
          exact State.updSync_other s b _ c same
        rw [other]
        exact ⟨.inl, id⟩
  · rw [closeDue_fails armed (Bool.eq_false_iff.mpr holds)]
    exact kept (evaluate_keepsClose b s)

/-- What an event from `s` to `t` does to the closes of berth `b`. -/
def State.ClosesOrNot (b : Berth) (reset : Prop) (s t : State) : Prop :=
  ((t.sync.get b).closeHigh = true → (s.sync.get b).closeHigh = true ∨ s.Closes b t) ∧
    ((s.sync.get b).closeUsed = true → (t.sync.get b).closeUsed = false → s.StartsWatch b t ∨ reset)

theorem State.KeepsCloseOrWatches.closesOrNot {s t : State} (h : s.KeepsCloseOrWatches t) (b : Berth) (reset : Prop) :
    s.ClosesOrNot b reset t := ⟨fun high => .inl ((h.berth b).1 high), fun used unused => .inl ((h.berth b).2 used unused)⟩

theorem executes_closes {c : Instr} {s t : State} (h : Executes c s t) (b : Berth) :
    s.ClosesOrNot b ((∃ c0 c1 c2, c = .powerOnReset c0 c1 c2) ∨ c = .lineReset) t := by
  have kept {u : State} (h : s.KeepsClose u) := h.orWatches.closesOrNot b
    ((∃ c0 c1 c2, c = .powerOnReset c0 c1 c2) ∨ c = .lineReset)
  cases h with
  | unchanged h => rw [h]; exact kept (.refl s)
  | timed due h =>
    rw [h]
    by_cases closes : ∃ d, c = .closeDueExpiry d
    · obtain ⟨d, rfl⟩ := closes
      obtain ⟨rises, uses⟩ := closeDue_closes due b
      exact ⟨rises, fun used unused => absurd (uses used) (Bool.eq_false_iff.mp unused)⟩
    · exact kept (timedEffect_keepsClose fun d is => closes ⟨d, is⟩)
  | transfer x h => exact (watches_rule.acceptTransfer h).closesOrNot b _
  | powerOn c0 c1 c2 is h =>
    rw [h]
    exact ⟨fun high => absurd high (Bool.eq_false_iff.mp (powerOnReset_low c0 c1 c2 s b)),
      fun _ _ => .inr (.inl ⟨c0, c1, c2, is⟩)⟩
  | lineReset is _ h =>
    rw [h]
    exact ⟨fun high => absurd high (Bool.eq_false_iff.mp (lineReset_low s b)), fun _ _ => .inr (.inr is)⟩
  | release _ h => rw [h]; exact kept (releaseReset_keepsClose s)
  | viewHeld d closed _ h => rw [h]; exact kept (setView_keepsClose d closed s)
  | rise d _ _ h => rw [h]; exact kept ((setView_keepsClose d true s).trans (breakerRise_keepsClose d _))
  | fall d _ _ h => rw [h]; exact kept ((setView_keepsClose d false s).trans (breakerFall_keepsClose d _))
  | faceDone h => rw [h]; exact kept (keepsClose_of_drive (faceDone_drive s))
  | claimDone h => rw [h]; exact kept (keepsClose_of_drive (claimDone_drive s))

theorem idle_keepsClose (s : State) : s.KeepsClose (idle s) := by
  unfold idle
  split
  · exact advance_keepsClose s
  · exact keepsClose_of_sync rfl

theorem step_closes {s t : State} (h : step s = .next t) (b : Berth) :
    s.ClosesOrNot b ((∃ c0 c1 c2 rest, s.pending = .powerOnReset c0 c1 c2 :: rest) ∨
      ∃ rest, s.pending = .lineReset :: rest) t := by
  unfold step at h
  split at h
  · rw [next_inj h]
    exact (idle_keepsClose s).orWatches.closesOrNot b _
  next c rest waits =>
    obtain ⟨rises, unuses⟩ := executes_closes (executes_of_exec h) b
    refine ⟨rises, fun used unused => (unuses used unused).imp id fun reset => ?_⟩
    refine reset.imp (fun ⟨c0, c1, c2, is⟩ => ⟨c0, c1, c2, rest, ?_⟩) fun is => ⟨rest, ?_⟩
    · rw [waits, is]
    · rw [waits, is]

theorem Timer.isRunning_iff (t : Timer) : t.isRunning = true ↔ ∃ n, t = .running n := by
  cases t <;> simp [Timer.isRunning]

/-- Settles O42. -/
theorem closeDueDecides : Obligations.CloseDueDecides := by
  refine ⟨fun s b => ⟨Timer.isRunning_iff _, ?_⟩, fun s t b h => ?_, fun b s expired armed => ?_⟩
  · unfold State.tripLine
    rw [Bool.or_eq_true, Timer.isRunning_iff]
  · obtain ⟨rises, unuses⟩ := step_closes h b
    exact ⟨fun low high => (rises high).resolve_left (Bool.eq_false_iff.mp low), unuses⟩
  · have due : exec (.closeDueExpiry b) s = .next (closeDue b s) :=
      exec_expired_in rfl (s.sync.get b).closeDue _ rfl expired (beq_iff_eq.mpr armed)
    refine ⟨fun fails => ⟨closeDue b s, due, ?_⟩, fun x holds slip stays => ?_, fun holds dead low unused => ⟨closeDue b s, due, ?_⟩⟩
    · rw [closeDue_fails armed fails]
      refine ⟨evaluate_only b s, ?_, evaluate_armed_sync armed fails⟩
      rw [evaluate_armed armed fails]
      exact (enterState_stands b .matching _).of_inputs rfl rfl rfl rfl rfl rfl rfl
    · rw [due, closeDue_postpones holds slip stays]
      rfl
    · have stands : s.Stands b .closing (enterState b .closing (s.pulsed b)) :=
        (enterState_stands b .closing (s.pulsed b)).of_inputs rfl rfl rfl rfl rfl rfl rfl
      have only : s.OnlyBerth b (enterState b .closing (s.pulsed b)) :=
        (updSync_only b _ s).trans (enterState_only b .closing (s.pulsed b))
      rw [closeDue_pulses holds dead low unused]
      refine ⟨only, stands, ?_, ?_, pulsed_sync⟩
      · unfold State.closeLine
        rw [pulsed_sync]
        rfl
      · unfold State.tripLine State.inHold at low ⊢
        rw [pulsed_sync, only.resetLow, only.tripHold]
        exact low

end Sys2Proof.Machine
end

section
/-! Proofs: the movements of a breaker (R76, R86, R87, R90 to R93). -/

namespace Sys2Proof.Machine

/-! ## A berth that enters a state, tells of it and ends its request -/

theorem emitEvent_stands {b : Berth} {new : BerthState} {s t : State} (h : s.Stands b new t) (e : EventCode) (n : Nat)
    (o : Option Berth) (ws : List Word) : s.Stands b new (emitEvent e n o ws t) := by
  obtain ⟨l, k, p, same⟩ := emitEvent_rest e n o ws t
  rw [same]
  exact h.marked ⟨rfl, rfl, rfl, rfl⟩ ⟨_, rfl⟩ rfl rfl

/-- A berth enters a state, an EVENT tells of it, and the request in progress ends. -/
def entersTelling (b : Berth) (new : BerthState) (e : EventCode) (n : Nat) (ws : List Word) (o : ReqOutcome)
    (c : Option Cause) (s : State) : State :=
  completeCurrent b o c (emitEvent e n (some b) ws (enterState b new s))

section
variable (b : Berth) (new : BerthState) (e : EventCode) (n : Nat) (ws : List Word) (o : ReqOutcome) (c : Option Cause)
  (s : State)

theorem entersTelling_stands : s.Stands b new (entersTelling b new e n ws o c s) :=
  completeCurrent_stands o c (emitEvent_stands (enterState_stands b new s) e n _ ws)

theorem entersTelling_only : s.OnlyBerth b (entersTelling b new e n ws o c s) :=
  ((enterState_only b new s).trans (emitEvent_only b _ _ _ _ _)).trans (completeCurrent_only b _ _ _)

theorem entersTelling_completes : (s.seq.get b).Completes o c ((entersTelling b new e n ws o c s).seq.get b) :=
  entered_completes (by rw [emitEvent_seq, enterState_seq, PerBerth.get_set_self])

theorem entersTelling_sync : (entersTelling b new e n ws o c s).sync.get b = enteredSync b new s := by
  unfold entersTelling
  rw [completeCurrent_sync, emitEvent_sync, enterState_sync, PerBerth.get_set_self]

theorem entersTelling_sessions : (entersTelling b new e n ws o c s).sessions = enteredSessions b new s := by
  unfold entersTelling
  rw [completeCurrent_sessions, emitEvent_sessions, enterState_sessions]

theorem entersTelling_jour : (entersTelling b new e n ws o c s).jour = (emitEvent e n (some b) ws s).jour :=
  (completeCurrent_quiet b o c _).jour.trans (emitEvent_jour (enterState_quiet b new s) ..)

/-- The context is as the entry left it but for the request. -/
theorem entersTelling_seq : ∃ l k, (entersTelling b new e n ws o c s).seq.get b =
    { enteredSeq b new s with current := none, last := l, count := k } := by
  obtain ⟨-, l, k, same⟩ := completeCurrent_seq b o c (emitEvent e n (some b) ws (enterState b new s))
  rw [emitEvent_seq, enterState_seq, PerBerth.get_set_self] at same
  exact ⟨l, k, same⟩

end

/-! ## What a rise and a fall come to (R76, R96) -/

theorem exec_rise_held {b : Berth} {s : State} (low : (s.sync.get b).view = false) (hold : s.inHold = true) :
    exec (.breakerViewRise b) s = .next (setView b true s) := by
  show execBreakerViewRise b s = _
  unfold execBreakerViewRise
  rw [low, hold]
  rfl

theorem exec_rise {b : Berth} {s : State} (low : (s.sync.get b).view = false) (hold : s.inHold = false) :
    exec (.breakerViewRise b) s = .next (breakerRise b (setView b true s)) := by
  show execBreakerViewRise b s = _
  unfold execBreakerViewRise
  rw [low, hold]
  rfl

theorem exec_fall_held {b : Berth} {s : State} (high : (s.sync.get b).view = true) (hold : s.inHold = true) :
    exec (.breakerViewFall b) s = .next (setView b false s) := by
  show execBreakerViewFall b s = _
  unfold execBreakerViewFall
  rw [high, hold]
  rfl

theorem exec_fall {b : Berth} {s : State} (high : (s.sync.get b).view = true) (hold : s.inHold = false) :
    exec (.breakerViewFall b) s = .next (breakerFall b (setView b false s)) := by
  show execBreakerViewFall b s = _
  unfold execBreakerViewFall
  rw [high, hold]
  rfl

theorem breakerRise_closed {b : Berth} {s : State} (h : (s.seq.get b).state.isClosed = true) : breakerRise b s = s := by
  have at_ := (isClosed_iff _).mp h
  unfold breakerRise
  simp only [List.mem_cons, List.not_mem_nil, or_false] at at_
  rcases at_ with e | e | e | e <;> rw [e]

theorem breakerRise_open {b : Berth} {s : State} (h : (s.seq.get b).state.isClosed = false)
    (other : (s.seq.get b).state ≠ .closing) : breakerRise b s = uncommandedClose b s := by
  unfold breakerRise
  split
  next e => exact absurd e other
  iterate 4 (next e => rw [e] at h; cases h)
  · rfl

/-- R93: the unit of a breaker that has opened. -/
def Sync.fallen (deadUs : Nat) (u : Sync) : Sync :=
  { u with level := false, heldUs := 0, view := false, deadTime := .running deadUs }

/-- R93: the view follows the fall and the dead time starts. -/
def State.fallen (b : Berth) (s : State) : State := s.updSync b (Sync.fallen ((s.params.get b).deadTimeS * 1000000))

theorem startDeadTime_setView (b : Berth) (s : State) : startDeadTime b (setView b false s) = s.fallen b := by
  unfold startDeadTime setView
  rw [updSync_updSync]
  rfl

theorem breakerFall_open {b : Berth} {s : State} (h : (s.seq.get b).state.isClosed = false) :
    breakerFall b (setView b false s) = s.fallen b := by
  have state : ((s.fallen b).seq.get b).state.isClosed = false := h
  unfold breakerFall
  dsimp only
  rw [startDeadTime_setView]
  split
  iterate 4 (next e => rw [e] at state; cases state)
  · rfl

/-- R90: the unit of a berth whose opening is confirmed. -/
def State.opened (b : Berth) (s : State) : State :=
  s.updSync b fun u => { u.fallen ((s.params.get b).deadTimeS * 1000000) with openConfirm := .stopped }

theorem breakerFall_opening {b : Berth} {s : State} (h : (s.seq.get b).state = .opening) :
    breakerFall b (setView b false s) = openingConfirmed b (s.opened b) := by
  have state : ((s.fallen b).seq.get b).state = .opening := h
  unfold breakerFall
  dsimp only
  rw [startDeadTime_setView, state]
  dsimp only
  unfold State.fallen
  rw [updSync_updSync]
  rfl

theorem breakerFall_external {b : Berth} {s : State} (h : (s.seq.get b).state.isClosed = true)
    (other : (s.seq.get b).state ≠ .opening) :
    breakerFall b (setView b false s) = externalOpen b (s.fallen b) := by
  have state : ((s.fallen b).seq.get b).state ≠ .opening := other
  have closed : ((s.fallen b).seq.get b).state.isClosed = true := h
  unfold breakerFall
  dsimp only
  rw [startDeadTime_setView]
  split
  next e => exact absurd e state
  iterate 3 rfl
  next out1 out2 out3 out4 =>
    have at_ := (isClosed_iff _).mp closed
    simp only [List.mem_cons, List.not_mem_nil, or_false] at at_
    rcases at_ with e | e | e | e
    · exact absurd e out2
    · exact absurd e out3
    · exact absurd e out4
    · exact absurd e out1

theorem feederWord_eq (s : State) (b : Berth) :
    s.feederWord b = putInt 0 32 (((s.meas.get b).feeder.latest.map Feeder.power).getD 0) := rfl

theorem openingConfirmed_eq (b : Berth) (s : State) : openingConfirmed b s =
    entersTelling b .energised .returned (causeCode ((s.seq.get b).openCause.map OpenCause.toCause))
      [s.feederWord b] .done ((s.seq.get b).openCause.map OpenCause.toCause) s := by
  have seq : (enterState b .energised s).seq.get b = enteredSeq b .energised s := by
    rw [enterState_seq, PerBerth.get_set_self]
  have cause : ((enterState b .energised s).seq.get b).openCause = (s.seq.get b).openCause := by rw [seq]; rfl
  have feeder : (enterState b .energised s).feederWord b = s.feederWord b := by
    rw [feederWord_eq, enterState_meas]
    rfl
  unfold openingConfirmed entersTelling State.openCode
  dsimp only
  rw [emitEvent_seq, cause, feeder]

theorem externalOpen_eq (b : Berth) (s : State) : externalOpen b s =
    entersTelling b .energised .externalOpen (s.seq.get b).state.code [s.feederWord b] .done (some .externalOpen) s := by
  have feeder : (enterState b .energised s).feederWord b = s.feederWord b := by
    rw [feederWord_eq, enterState_meas]
    rfl
  unfold externalOpen entersTelling
  dsimp only
  rw [feeder]

end Sys2Proof.Machine
end

section
/-! Proofs: a close is confirmed, or made without a command (R86, R87, R91, R118). -/

namespace Sys2Proof.Machine

/-! ## A confirmed close (R86, R87, R106) -/

theorem closeRecord_eq (b : Berth) (s : State) : s.closeRecord b =
    { angle := s.feedbackAngle b, timeUs := (s.now - (s.sync.get b).pulseStart).toNat
      rough := isRough (s.feedbackAngle b) (s.params.get b).angleMax } := rfl

theorem feedbackAngle_stale {b : Berth} {s : State} (h : s.shipFresh b = false) : s.feedbackAngle b = none := by
  unfold State.feedbackAngle
  rw [h]
  rfl

theorem feedbackAngle_fresh {b : Berth} {s : State} {p : Phasor} (h : s.shipFresh b = true)
    (latest : (s.meas.get b).ship.latest = some p) :
    s.feedbackAngle b = some ((s.osc.get b).phaseError p s.now) := by
  unfold State.feedbackAngle
  rw [h, latest]
  rfl

theorem isRough_iff (d : Int) (n : Nat) : isRough (some d) n = true ↔ n * 65536 < d.natAbs * 360 := by
  show (!withinAngle d.natAbs n) = true ↔ _
  unfold withinAngle
  rw [Bool.not_eq_true', decide_eq_false_iff_not, Nat.not_le]

/-- R86: the unit whose close is confirmed. -/
def State.confirmed (b : Berth) (r : LastClose) (s : State) : State :=
  s.updSync b fun u =>
    { u with level := true, heldUs := 0, view := true, closeConfirm := .stopped, lastClose := some r }

/-- R86, R87: a confirmed close before PARALLEL_IN is entered. -/
def State.closedIn (b : Berth) (r : LastClose) (s : State) : State := noteParallel b (emitRough b r (s.confirmed b r))

theorem closeRecord_seen (b : Berth) (closed : Bool) (s : State) : (setView b closed s).closeRecord b = s.closeRecord b := by
  rw [closeRecord_eq, closeRecord_eq]
  unfold setView
  rw [State.updSync_self]
  rfl

theorem confirmClose_eq (b : Berth) (s : State) : confirmClose b (setView b true s) =
    entersTelling b .parallelIn .paralleled (if (s.closeRecord b).angle.isSome = true then 1 else 0)
      [putInt 0 32 ((s.closeRecord b).angle.getD 0), put 0 32 (s.closeRecord b).timeUs] .done none
      (s.closedIn b (s.closeRecord b)) := by
  unfold confirmClose
  dsimp only
  rw [closeRecord_seen]
  unfold setView
  rw [updSync_updSync]
  rfl

theorem closedIn_rest (b : Berth) (r : LastClose) (s : State) : ∃ j p, s.closedIn b r =
    { s with
      sync := (s.confirmed b r).sync, jour := j, page := { s.page with summary := p }
      sessions := s.sessions.set b ((s.sessions.get b).map fun x => { x with parallels := min (x.parallels + 1) 65535 }) } := by
  unfold State.closedIn noteParallel emitRough
  split
  · obtain ⟨l, n, p, e⟩ := emitEvent_rest .roughClose 0 (some b)
      [putInt 0 32 (r.angle.getD 0), putInt 0 32 (((s.confirmed b r).sync.get b).window.slip.getD 0), put 0 32 r.timeUs]
      (s.confirmed b r)
    rw [e]
    exact ⟨_, p, rfl⟩
  · exact ⟨s.jour, s.page.summary, rfl⟩

theorem emitRough_quiet {b : Berth} {s t : State} (quiet : s.Quiet t)
    (slip : (t.sync.get b).window.slip = (s.sync.get b).window.slip) (r : LastClose) :
    (emitRough b r s).Quiet (emitRough b r t) := by
  unfold emitRough
  split
  · rw [slip]
    obtain ⟨l, n, p, e⟩ := emitEvent_rest .roughClose 0 (some b)
      [putInt 0 32 (r.angle.getD 0), putInt 0 32 ((s.sync.get b).window.slip.getD 0), put 0 32 r.timeUs] s
    obtain ⟨l', n', p', e'⟩ := emitEvent_rest .roughClose 0 (some b)
      [putInt 0 32 (r.angle.getD 0), putInt 0 32 ((s.sync.get b).window.slip.getD 0), put 0 32 r.timeUs] t
    refine ⟨emitEvent_jour quiet .., ?_, fun c => ?_⟩
    · rw [e, e']
      exact quiet.clock
    · have number := quiet.number c
      unfold State.sessionNumber at number ⊢
      rw [emitEvent_sessions, emitEvent_sessions]
      exact number
  · exact quiet

theorem closedIn_jour (b : Berth) (r : LastClose) (e : EventCode) (n : Nat) (ws : List Word) (s : State) :
    (emitEvent e n (some b) ws (s.closedIn b r)).jour =
      (emitEvent e n (some b) ws (emitRough b r s)).jour := by
  have slip : ((s.confirmed b r).sync.get b).window.slip = (s.sync.get b).window.slip := by
    unfold State.confirmed
    rw [State.updSync_self]
  have rough : (emitRough b r s).Quiet (emitRough b r (s.confirmed b r)) :=
    emitRough_quiet (quiet_of (s := s) (t := s.confirmed b r) rfl rfl rfl) slip r
  exact emitEvent_jour (rough.trans (updSession_quiet b (fun x => { x with parallels := sat16 (x.parallels + 1) }) _ fun _ => rfl)) ..

/-- What PARALLEL_IN makes of the context (R98, R106). -/
theorem enteredSeq_parallelIn (b : Berth) (s : State) : (enteredSeq b .parallelIn s).setpoint = 0 ∧
    (enteredSeq b .parallelIn s).target = s.bound b ∧
    (enteredSeq b .parallelIn s).parallel = .running ((s.params.get b).parallelS * 1000000) := ⟨rfl, rfl, rfl⟩

theorem wantDir_parallelIn {q : Seq} {n : Nat} (state : q.state = .parallelIn) (zero : q.setpoint = 0)
    (target : q.target = n) : q.wantDir =
      if q.staleHold = true ∨ q.lostHold = true then .level else if 0 < n then .rising else .level := by
  rw [wantDir_eq, state, zero, target]
  by_cases held : q.staleHold = true ∨ q.lostHold = true
  · rw [if_pos held, if_pos held]
  · rw [if_neg held, if_neg held]
    by_cases some : 0 < n
    · rw [if_pos ⟨rfl, by omega⟩, if_pos some]
    · rw [if_neg fun h => some (by omega), if_neg nofun, if_neg some]

/-- R86, R106: a berth whose close has been confirmed. -/
def State.paralleled (b : Berth) (s : State) : State :=
  entersTelling b .parallelIn .paralleled (if (s.closeRecord b).angle.isSome = true then 1 else 0)
    [putInt 0 32 ((s.closeRecord b).angle.getD 0), put 0 32 (s.closeRecord b).timeUs] .done none
    (s.closedIn b (s.closeRecord b))

theorem breakerRise_closing {b : Berth} {s : State} (h : (s.seq.get b).state = .closing) :
    breakerRise b (setView b true s) = s.paralleled b := by
  have state : ((setView b true s).seq.get b).state = .closing := h
  rw [State.paralleled, ← confirmClose_eq]
  unfold breakerRise
  rw [state]

theorem paralleled_stands (b : Berth) (s : State) : s.Stands b .parallelIn (s.paralleled b) := by
  obtain ⟨j, p, rest⟩ := closedIn_rest b (s.closeRecord b) s
  refine (entersTelling_stands b .parallelIn _ _ _ _ _ (s.closedIn b (s.closeRecord b))).of_inputs
    ?_ ?_ ?_ ?_ ?_ ?_ ?_ <;> rw [rest] <;> rfl

theorem paralleled_only (b : Berth) (s : State) : s.OnlyBerth b (s.paralleled b) :=
  (((updSync_only b _ s).trans (emitRough_only b _ _)).trans (updSession_only b _ _)).trans
    (entersTelling_only b _ _ _ _ _ _ _)

theorem paralleled_context (b : Berth) (s : State) : ((s.paralleled b).seq.get b).setpoint = 0 ∧
    ((s.paralleled b).seq.get b).target = s.bound b ∧
    ((s.paralleled b).seq.get b).parallel = .running ((s.params.get b).parallelS * 1000000) ∧
    (s.seq.get b).Completes .done none ((s.paralleled b).seq.get b) := by
  obtain ⟨j, p, rest⟩ := closedIn_rest b (s.closeRecord b) s
  obtain ⟨l, k, seq⟩ := entersTelling_seq b .parallelIn .paralleled (if (s.closeRecord b).angle.isSome = true then 1 else 0)
    [putInt 0 32 ((s.closeRecord b).angle.getD 0), put 0 32 (s.closeRecord b).timeUs] .done none
    (s.closedIn b (s.closeRecord b))
  have done := entersTelling_completes b .parallelIn .paralleled (if (s.closeRecord b).angle.isSome = true then 1 else 0)
    [putInt 0 32 ((s.closeRecord b).angle.getD 0), put 0 32 (s.closeRecord b).timeUs] .done none
    (s.closedIn b (s.closeRecord b))
  obtain ⟨setpoint, target, parallel⟩ := enteredSeq_parallelIn b (s.closedIn b (s.closeRecord b))
  have bound : (s.closedIn b (s.closeRecord b)).bound b = s.bound b := by rw [rest]; rfl
  have params : (s.closedIn b (s.closeRecord b)).params = s.params := by rw [rest]
  have before : (s.closedIn b (s.closeRecord b)).seq = s.seq := by rw [rest]
  rw [bound] at target
  rw [params] at parallel
  rw [before] at done
  refine ⟨?_, ?_, ?_, done⟩
  · exact (congrArg Seq.setpoint seq).trans setpoint
  · exact (congrArg Seq.target seq).trans target
  · exact (congrArg Seq.parallel seq).trans parallel

theorem paralleled_sync {b : Berth} {s : State} (h : (s.seq.get b).state = .closing) :
    (s.paralleled b).sync.get b =
      { s.sync.get b with
        level := true, heldUs := 0, view := true, closeConfirm := .stopped, lastClose := some (s.closeRecord b) } := by
  obtain ⟨j, p, rest⟩ := closedIn_rest b (s.closeRecord b) s
  have state : ((s.closedIn b (s.closeRecord b)).seq.get b).state.isWatching = false := by
    rw [rest]
    exact (congrArg BerthState.isWatching h).trans rfl
  unfold State.paralleled
  rw [entersTelling_sync, enteredSync_not b _ _ state, rest]
  dsimp only
  unfold State.confirmed
  rw [State.updSync_self]

theorem paralleled_sessions {b : Berth} {s : State} (h : (s.seq.get b).state = .closing) :
    (s.paralleled b).sessions.get b =
      (s.sessions.get b).map fun x => { x with parallels := min (x.parallels + 1) 65535 } := by
  obtain ⟨j, p, rest⟩ := closedIn_rest b (s.closeRecord b) s
  unfold State.paralleled
  rw [entersTelling_sessions, enteredSessions_other, rest]
  · exact PerBerth.get_set_self ..
  · rw [rest]
    exact fun e => nomatch h.symm.trans e

theorem paralleled_jour (b : Berth) (s : State) : (s.paralleled b).jour =
    (emitEvent .paralleled (if (s.closeRecord b).angle.isSome = true then 1 else 0) (some b)
      [putInt 0 32 ((s.closeRecord b).angle.getD 0), put 0 32 (s.closeRecord b).timeUs]
      (emitRough b (s.closeRecord b) s)).jour := (entersTelling_jour ..).trans (closedIn_jour ..)

/-! ## An uncommanded close (R91) -/

theorem serveClaims_inputs (cs : List Claim) (s : State) : s.SameInputs (serveClaims cs s) := by
  induction cs generalizing s with
  | nil => exact ⟨rfl, rfl, rfl, rfl⟩
  | cons c cs ih =>
    unfold serveClaims
    split
    · exact ⟨rfl, rfl, rfl, rfl⟩
    next ms _ =>
      have given := assignAll_modsOnly c.berth ms { s with claims := cs }
      obtain ⟨ns, -, entered⟩ := enterState_spec c.berth .energising (assignAll c.berth ms { s with claims := cs })
      have served : s.SameInputs (energiseWith c.berth ms { s with claims := cs }) := by
        unfold energiseWith
        rw [entered, given]
        exact ⟨rfl, rfl, rfl, rfl⟩
      exact served.trans (ih _)

theorem tryIf_inputs (head : Bool) (s : State) : s.SameInputs (tryIf head s) := by
  unfold tryIf
  split
  · have served : s.SameInputs (serveNeeds none s) := by
      rw [serveNeeds_modsOnly none s]
      exact ⟨rfl, rfl, rfl, rfl⟩
    exact served.trans (serveClaims_inputs _ _)
  · exact .refl s

theorem tryIf_page (head : Bool) (s : State) : (tryIf head s).page = s.page := by
  unfold tryIf
  split
  · exact tryPool_page s
  · rfl

/-- A trip is still told after a try of the pool. -/
theorem trips_tryIf {b : Berth} {c : TripCause} {s t : State} (h : s.Trips b c t) (claims : ∀ d ∈ t.claims, d.berth ≠ b)
    (head : Bool) : s.Trips b c (tryIf head t) := by
  obtain ⟨stands, cause, bit, jour, done, blocked⟩ := h
  have kept := tryIf_keeps head t claims (by rw [stands.state]; rfl)
  refine ⟨?_, by rw [kept.seq]; exact cause, ?_, (tryIf_quiet head t).jour.trans jour, by rw [kept.seq]; exact done,
    fun m served => ?_⟩
  · refine stands.after (tryIf_inputs head t) ⟨_, _, _, _, kept.seq⟩ kept.osc nofun (fun m at_ => ?_) fun m _ serves => ?_
    · have same := kept.mods m (.inr (at_.elim serves_of_assigned serves_of_assigned))
      rw [same] at at_ ⊢
      exact stands.modules m at_
    · have same := kept.mods m (.inr serves)
      rw [same] at serves ⊢
      exact ⟨serves, rfl, rfl, rfl⟩
  · unfold State.summaryBit at bit ⊢
    rw [tryIf_page]
    exact bit
  · have after := blocked m served
    rw [kept.mods m (.inl (serves_of_assigned after.1))]
    exact after

/-- R91: an uncommanded close of a berth that is not tripped. -/
theorem uncommandedClose_trips {b : Berth} {s : State} (live : (s.seq.get b).state ≠ .tripped)
    (away : (s.seq.get b).state ≠ .shoreOnly) : s.Trips b .uncommandedClose (uncommandedClose b s) ∧
      (uncommandedClose b s).sessions.get b =
        (s.sessions.get b).map fun x => { x with trips := min (x.trips + 1) 65535 } := by
  let u := beforeTrip b s
  let w := enterTripped b .uncommandedClose u
  have trips : s.Trips b .uncommandedClose w :=
    (enterTripped_trips b .uncommandedClose u live).1.of_context (fun _ => rfl) rfl rfl rfl rfl rfl rfl rfl rfl rfl rfl rfl
      rfl (quiet_of rfl rfl rfl)
  have claims : ∀ d ∈ w.claims, d.berth ≠ b := (enterTripped_pulsed b s).claims
  have kept := tryIf_keeps (s.headClaim b) w claims (by rw [trips.1.state]; rfl)
  rw [uncommandedClose_eq]
  exact ⟨trips_tryIf trips claims _, kept.sessions.trans (enterTripped_counts (s := u) _ live away)⟩

theorem uncommandedClose_tripped {b : Berth} {s : State} (h : (s.seq.get b).state = .tripped) :
    (uncommandedClose b s).seq.get b = s.seq.get b ∧ (uncommandedClose b s).jour = s.jour := by
  let u := beforeTrip b s
  have stays : enterTripped b .uncommandedClose u = u := if_pos h
  have kept := tryIf_keeps (s.headClaim b) u (removeClaim_none b _) (by rw [show (u.seq.get b).state = _ from h]; rfl)
  rw [uncommandedClose_eq, stays]
  exact ⟨kept.seq, (tryIf_quiet _ u).jour⟩

/-- R91: the prediction is gone after an uncommanded close. -/
theorem uncommandedClose_closeDue (b : Berth) (s : State) : ((uncommandedClose b s).sync.get b).closeDue = .stopped := by
  let w := enterTripped b .uncommandedClose (beforeTrip b s)
  have pulsed := enterTripped_pulsed b s
  have kept := tryIf_keeps (s.headClaim b) w pulsed.claims (by rw [pulsed.state]; rfl)
  rw [uncommandedClose_eq, kept.sync]
  rcases enterTripped_sync b .uncommandedClose (beforeTrip b s) with sync | sync
  · rw [sync, beforeTrip_sync]
  · rw [sync]
    rfl

/-- Settles O43. -/
theorem breakerMovements : Obligations.BreakerMovements := by
  refine ⟨fun o p t => rfl, fun b s => ⟨fun high => ?_, fun low still => ?_, fun low hold closing => ?_,
    fun low hold opened other => ?_, fun low => ?_, exec_fall_held, fun high hold => ⟨fun opened => ?_,
      fun opening => ?_, fun closed other => ?_⟩⟩⟩
  · show execBreakerViewRise b s = _
    unfold execBreakerViewRise
    rw [if_pos high]
  · by_cases hold : s.inHold = true
    · exact exec_rise_held low hold
    · have closed := still.resolve_left hold
      rw [exec_rise low (Bool.eq_false_iff.mpr hold), breakerRise_closed (s := setView b true s) closed]
      rfl
  · have stands := paralleled_stands b s
    obtain ⟨setpoint, target, parallel, done⟩ := paralleled_context b s
    refine ⟨s.paralleled b, s.closeRecord b, (exec_rise low hold).trans (congrArg _ (breakerRise_closing closing)),
      paralleled_only b s, stands, setpoint, target, stands.staleHold, stands.lostHold, ?_, parallel, done,
      paralleled_sync closing, rfl, fun stale => ?_, fun p seen latest => ?_, paralleled_jour b s, paralleled_sessions closing⟩
    · rw [stands.direction]
      exact wantDir_parallelIn stands.state setpoint target
    · rw [closeRecord_eq, feedbackAngle_stale stale]
      exact ⟨rfl, rfl⟩
    · rw [closeRecord_eq, feedbackAngle_fresh seen latest]
      exact ⟨rfl, isRough_iff _ _⟩
  · have rises : breakerRise b (setView b true s) = uncommandedClose b (setView b true s) := breakerRise_open opened other
    let v := setView b true s
    have pulsed := uncommandedClose_pulsed b v
    refine ⟨uncommandedClose b v, (exec_rise low hold).trans (congrArg _ rises), ?_, ?_, ?_, pulsed.trip, ?_,
      uncommandedClose_closeDue b v, pulsed.claims, fun live => ?_, fun tripped => ?_⟩
    · exact (updSync_only b _ s).toSameStation.trans (uncommandedClose_same b v)
    · rw [(uncommandedClose_sameViews b v b).1]
      exact congrArg Sync.view (State.updSync_self ..)
    · unfold State.tripLine
      rw [pulsed.trip]
      rfl
    · unfold State.closeLine Sync.closeHigh
      rw [pulsed.close]
      rfl
    · have away : (s.seq.get b).state ≠ .shoreOnly := fun e => by rw [e] at opened; cases opened
      obtain ⟨trips, sessions⟩ := uncommandedClose_trips (s := v) live away
      refine ⟨trips.of_context (fun _ => rfl) rfl rfl rfl rfl rfl rfl rfl rfl rfl rfl rfl rfl (quiet_of rfl rfl rfl), sessions⟩
    · exact uncommandedClose_tripped (s := v) tripped
  · show execBreakerViewFall b s = _
    unfold execBreakerViewFall
    rw [low]
    rfl
  · rw [exec_fall high hold, breakerFall_open opened]
    rfl
  · let u := s.opened b
    have falls : breakerFall b (setView b false s) = _ := (breakerFall_opening opening).trans (openingConfirmed_eq b u)
    have watching : (u.seq.get b).state.isWatching = false := by rw [show (u.seq.get b).state = _ from opening]; rfl
    refine ⟨_, (exec_fall high hold).trans (congrArg Host.Outcome.next falls), ?_, ?_, ?_, ?_, ?_⟩
    · exact (updSync_only b _ s).trans (entersTelling_only b _ _ _ _ _ _ u)
    · exact (entersTelling_stands b _ _ _ _ _ _ u).of_inputs rfl rfl rfl rfl rfl rfl rfl
    · exact entersTelling_completes b _ _ _ _ _ _ u
    · rw [entersTelling_sync, enteredSync_not b _ u watching]
      exact State.updSync_self ..
    · rw [entersTelling_jour]
      exact emitEvent_jour (quiet_of (s := s) (t := u) rfl rfl rfl) ..
  · let u := s.fallen b
    have falls : breakerFall b (setView b false s) = _ := (breakerFall_external closed other).trans (externalOpen_eq b u)
    have watching : (u.seq.get b).state.isWatching = false := by
      have at_ := (isClosed_iff _).mp closed
      simp only [List.mem_cons, List.not_mem_nil, or_false] at at_
      rcases at_ with e | e | e | e <;> rw [show (u.seq.get b).state = _ from e] <;> rfl
    refine ⟨_, (exec_fall high hold).trans (congrArg Host.Outcome.next falls), ?_, ?_, ?_, ?_, ?_, ?_⟩
    · exact (updSync_only b _ s).trans (entersTelling_only b _ _ _ _ _ _ u)
    · exact (entersTelling_stands b _ _ _ _ _ _ u).of_inputs rfl rfl rfl rfl rfl rfl rfl
    · exact entersTelling_completes b _ _ _ _ _ _ u
    · rw [entersTelling_sync, enteredSync_not b _ u watching]
      exact State.updSync_self ..
    · rw [entersTelling_jour]
      exact emitEvent_jour (quiet_of (s := s) (t := u) rfl rfl rfl) ..
    · rw [entersTelling_sessions]
      by_cases shore : (s.seq.get b).state = .shoreOnly
      · rw [enteredSessions_shore b .energised u shore nofun, PerBerth.get_set_self]
        simp only [if_pos shore]
        rfl
      · rw [enteredSessions_other b .energised u shore]
        simp only [if_neg shore]
        exact Option.map_id'.symm ▸ rfl

end Sys2Proof.Machine
end

section
/-! Proofs: request words and the checks of a request (R97, R99, R100, R102). -/

namespace Sys2Proof.Machine

/-! ## The request shadow (R99) -/

/-- The request shadow after numbered words of a burst. -/
def overwritten (ws : List (Nat × Word)) (sh : List Word) : List Word :=
  ws.foldl (fun l x => if 1 ≤ x.1 then l.set (x.1 - 1) x.2 else l) sh

theorem updSeq_shadow (b : Berth) (s : State) : s = s.updSeq b fun q => { q with shadow := (s.seq.get b).shadow } := by
  unfold State.updSeq
  rw [PerBerth.set_get]

theorem writeShadow_eq (b : Berth) (ws : List (Nat × Word)) (s : State) :
    writeShadow b ws s = s.updSeq b fun q => { q with shadow := overwritten ws (s.seq.get b).shadow } := by
  unfold writeShadow overwritten
  induction ws generalizing s with
  | nil => exact updSeq_shadow b s
  | cons x ws ih =>
    rw [List.foldl_cons, List.foldl_cons, ih]
    unfold shadowWord
    split
    · rw [State.updSeq_self]
      unfold State.updSeq
      dsimp only
      rw [PerBerth.get_set_self, PerBerth.set_set]
    · rfl

theorem overwritten_length (ws : List (Nat × Word)) (sh : List Word) : (overwritten ws sh).length = sh.length := by
  unfold overwritten
  induction ws generalizing sh with
  | nil => rfl
  | cons x ws ih =>
    rw [List.foldl_cons, ih]
    split
    · exact List.length_set
    · rfl

theorem overwritten_getD {n i : Nat} (ws : List Word) (sh : List Word) (first : 1 ≤ n) (inside : i < sh.length) :
    (overwritten (numbered n ws) sh).getD i 0 =
      if n ≤ i + 1 ∧ i + 1 < n + ws.length then ws.getD (i + 1 - n) 0 else sh.getD i 0 := by
  induction ws generalizing n sh with
  | nil => exact (if_neg fun h => by have := h.2; simp only [List.length_nil] at this; omega).symm
  | cons w ws ih =>
    have step : overwritten (numbered n (w :: ws)) sh = overwritten (numbered (n + 1) ws) (sh.set (n - 1) w) := by
      show overwritten (numbered (n + 1) ws) (if 1 ≤ n then sh.set (n - 1) w else sh) = _
      rw [if_pos first]
    rw [step, ih _ (by omega) (by rw [List.length_set]; exact inside), List.length_cons]
    by_cases own : n = i + 1
    · subst own
      rw [if_neg (by omega), if_pos (by omega), Nat.add_sub_cancel, Nat.sub_self, List.getD_cons_zero]
      simp [inside]
    · by_cases later : n + 1 ≤ i + 1 ∧ i + 1 < n + 1 + ws.length
      · obtain ⟨k, at_⟩ : ∃ k, i + 1 - n = k + 1 := ⟨i - n, by omega⟩
        rw [if_pos later, if_pos (by omega), at_, List.getD_cons_succ]
        congr 1
        omega
      · rw [if_neg later, if_neg (by omega), List.getD_eq_getElem?_getD, List.getD_eq_getElem?_getD,
          List.getElem?_set_ne (by omega)]

/-! ## Request words (R99, 11.4) -/

theorem requestWord_kind (k : BitVec 8) (t : BitVec 16) : (requestWord k.toNat t).extractLsb' 0 8 = k := by
  apply BitVec.eq_of_getLsbD_eq
  intro i small
  unfold requestWord put
  have high : ((t.toNat % 2 ^ 16) <<< 16).testBit i = false := by
    rw [Nat.testBit_shiftLeft]
    simp
    omega
  rw [BitVec.getLsbD_extractLsb', BitVec.getLsbD_or, Nat.zero_add, BitVec.getLsbD_ofNat, BitVec.getLsbD_ofNat, high,
    Nat.shiftLeft_zero, Nat.testBit_mod_two_pow]
  simp [small, BitVec.testBit_toNat]
  omega

theorem requestWord_tag (k : Nat) (t : BitVec 16) : (requestWord k t).extractLsb' 16 16 = t := by
  apply BitVec.eq_of_getLsbD_eq
  intro i small
  unfold requestWord put
  have low : ((k % 2 ^ 8) <<< 0).testBit (16 + i) = false := by
    rw [Nat.shiftLeft_zero, Nat.testBit_mod_two_pow]
    simp
    omega
  rw [BitVec.getLsbD_extractLsb', BitVec.getLsbD_or, BitVec.getLsbD_ofNat, BitVec.getLsbD_ofNat, low,
    Nat.testBit_shiftLeft, Nat.testBit_mod_two_pow]
  simp [small, BitVec.testBit_toNat]
  omega

theorem takeBerthWords_asks (b : Berth) (w : Word) (rest : List Word) (s : State) :
    takeBerthWords b (numbered 0 (w :: rest)) s =
      takeRequest b (w.extractLsb' 0 8) (w.extractLsb' 16 16) (writeShadow b (numbered 1 rest) s) := rfl

theorem takeBerthWords_shadow {b : Berth} {n : Nat} (ws : List Word) (h : 1 ≤ n) (s : State) :
    takeBerthWords b (numbered n ws) s = writeShadow b (numbered n ws) s := by
  cases ws with
  | nil => rfl
  | cons w ws =>
    obtain ⟨k, rfl⟩ := Nat.exists_eq_add_of_le' h
    rfl

/-- A request command is a write of word 0 with its kind and tag, and the words after it. -/
theorem exec_asks {c : Instr} {b : Berth} {e : WindowEntry} {k : BitVec 8} {t : BitVec 16} {rest : List Word} {s : State}
    (opened : s.PageOpen b e) (names : request? c = some (b, k, t, rest)) (short : rest.length ≤ 7) :
    exec c s = .next (passOn (requestItem e k t rest) (takeRequest b k t (writeShadow b (numbered 1 rest) s))) := by
  obtain ⟨ok, window, takes⟩ := opened
  rw [exec_request names]
  refine (berthWrite_next s b e 0 (requestWord k.toNat t :: rest) ok window takes (Nat.succ_pos _)
    (by rw [List.length_cons]; omega)).trans ?_
  rw [takeBerthWords_asks, requestWord_kind, requestWord_tag]
  rfl

/-- Settles O44. -/
theorem requestWordsReachSequencer : Obligations.RequestWordsReachSequencer := by
  refine ⟨fun _ _ => rfl, fun b e s opened => ⟨fun n ws first some fits => ⟨?_, overwritten (numbered n ws) (s.seq.get b).shadow,
    writeShadow_eq b _ s, fun seven => ⟨(overwritten_length _ _).trans seven, fun i inside =>
      overwritten_getD ws _ first (by omega)⟩⟩, fun w rest short => ?_, fun c k t rest names short => exec_asks opened names short⟩⟩
  · obtain ⟨ok, window, takes⟩ := opened
    exact (berthWrite_next s b e n ws ok window takes some fits).trans (by rw [takeBerthWords_shadow ws first])
  · obtain ⟨ok, window, takes⟩ := opened
    exact berthWrite_next s b e 0 (w :: rest) ok window takes (Nat.succ_pos _) (by rw [List.length_cons]; omega)

/-! ## The checks of a request (R100) -/

theorem parseProfile_iff (shadow : List Word) (p : ShipProfile) : parseProfile shadow = some p ↔
    p = { shipCode := wordAt shadow 0, callNumber := (wordAt shadow 1).extractLsb' 0 16
          reserve := field (wordAt shadow 1) 16 2, nominalFreq := (wordAt shadow 2).toNat
          nominalVolt := (wordAt shadow 3).toNat, demand := (wordAt shadow 4).toNat } ∧
      (p.nominalFreq = 50000 ∨ p.nominalFreq = 60000) ∧ (p.nominalVolt = 6600 ∨ p.nominalVolt = 11000) ∧
      1000 ≤ p.demand ∧ p.demand ≤ 16000 ∧ p.demand % 100 = 0 ∧ p.reserve ≤ 2 := by
  unfold parseProfile
  dsimp only
  rw [Option.ite_none_right_eq_some, Option.some.injEq]
  constructor
  · rintro ⟨ranges, rfl⟩
    exact ⟨rfl, ranges⟩
  · rintro ⟨rfl, ranges⟩
    exact ⟨ranges, rfl⟩

theorem accepts_iff (s : State) (b : Berth) (k : RequestKind) : s.accepts b k = true ↔
    k = .connect ∧ (s.seq.get b).state = .idle ∨ k = .sync ∧ (s.seq.get b).state = .energised ∨
      k = .gensOff ∧ (s.seq.get b).state = .parallelIn ∨ k = .gensOn ∧ (s.seq.get b).state = .shoreOnly ∨
      k = .abort ∧ ((s.seq.get b).state = .waitingModules ∨ (s.seq.get b).state = .matching ∨
        (s.seq.get b).state = .armed ∨ (s.seq.get b).state = .parallelIn) ∨
      k = .disconnect ∧ ((s.seq.get b).state = .energised ∨ (s.seq.get b).state = .tripped) ∨
      k = .clear ∧ (s.seq.get b).state = .tripped ∧ (s.seq.get b).profile.isSome = true ∧
        (s.sync.get b).view = false ∧ s.tripLine b = false := by
  unfold State.accepts
  cases k <;> cases (s.seq.get b).state <;> simp [and_assoc]

theorem isLost_iff (s : State) : s.isLost = true ↔ s.page.presence = .lost := beq_iff_eq

theorem takeRequest_unknown {k : BitVec 8} (h : RequestKind.ofCode? k.toNat = none) (b : Berth) (t : BitVec 16) (s : State) :
    takeRequest b k t s = refuse b k t .refusedParam s := by
  unfold takeRequest
  rw [h]

theorem takeRequest_lost {k : BitVec 8} {r : RequestKind} {s : State} (h : RequestKind.ofCode? k.toNat = some r)
    (lost : s.page.presence = .lost) (b : Berth) (t : BitVec 16) : takeRequest b k t s = refuse b k t .refusedLost s := by
  unfold takeRequest
  rw [h]
  exact if_pos ((isLost_iff s).mpr lost)

theorem takeRequest_busy {b : Berth} {k : BitVec 8} {r : RequestKind} {s : State} (h : RequestKind.ofCode? k.toNat = some r)
    (present : s.page.presence ≠ .lost) (busy : (s.seq.get b).current.isSome = true) (other : r ≠ .abort) (t : BitVec 16) :
    takeRequest b k t s = refuse b k t .refusedBusy s := by
  unfold takeRequest
  rw [h]
  dsimp only
  rw [if_neg fun lost => present ((isLost_iff s).mp lost), if_pos ((Bool.and_eq_true _ _).mpr ⟨busy, bne_iff_ne.mpr other⟩)]

/-- A request that finds the station present, and no request in progress but for ABORT. -/
theorem takeRequest_free {b : Berth} {k : BitVec 8} {r : RequestKind} {s : State} (h : RequestKind.ofCode? k.toNat = some r)
    (present : s.page.presence ≠ .lost) (free : (s.seq.get b).current = none ∨ r = .abort) (t : BitVec 16) :
    takeRequest b k t s = if s.accepts b r = true then takeAccepted b t r s else refuse b k t .refusedState s := by
  have not_busy : ¬((s.seq.get b).current.isSome && r != .abort) = true := by
    rcases free with none | abort
    · rw [none]
      nofun
    · rw [abort, Bool.and_eq_true]
      exact fun h => absurd h.2 (by decide)
  unfold takeRequest
  rw [h]
  dsimp only
  rw [if_neg fun lost => present ((isLost_iff s).mp lost), if_neg not_busy]
  cases s.accepts b r <;> rfl

theorem takeRequest_state {b : Berth} {k : BitVec 8} {r : RequestKind} {s : State} (h : RequestKind.ofCode? k.toNat = some r)
    (present : s.page.presence ≠ .lost) (free : (s.seq.get b).current = none ∨ r = .abort) (no : ¬s.accepts b r = true)
    (t : BitVec 16) : takeRequest b k t s = refuse b k t .refusedState s := by
  rw [takeRequest_free h present free, if_neg no]

theorem takeRequest_accepted {b : Berth} {k : BitVec 8} {r : RequestKind} {s : State}
    (h : RequestKind.ofCode? k.toNat = some r) (present : s.page.presence ≠ .lost)
    (free : (s.seq.get b).current = none ∨ r = .abort) (accepts : s.accepts b r = true) (t : BitVec 16) :
    takeRequest b k t s = takeAccepted b t r s := by
  rw [takeRequest_free h present free, if_pos accepts]

theorem bits_of_code {k : BitVec 8} {r : RequestKind} (h : RequestKind.ofCode? k.toNat = some r) : k = r.bits := by
  have code := (ofCode_iff k.toNat r).mp h
  unfold RequestKind.bits
  rw [← code, BitVec.ofNat_toNat, BitVec.setWidth_eq]

/-! ## The further checks of CONNECT (R102) -/

theorem backlog_iff (s : State) (b : Berth) : s.backlog b = true ↔ billingHeld s.jour.queue b ≠ 0 := bne_iff_ne

theorem takeConnect_unset {s : State} (h : s.clock.timeUnset = true) (b : Berth) (t : BitVec 16) :
    takeConnect b t s = refuse b RequestKind.connect.bits t .refusedTimeUnset s := by
  unfold takeConnect
  exact if_pos h

theorem takeConnect_backlog {b : Berth} {s : State} (set : s.clock.timeUnset = false)
    (held : billingHeld s.jour.queue b ≠ 0) (t : BitVec 16) :
    takeConnect b t s = refuse b RequestKind.connect.bits t .refusedBacklog s := by
  unfold takeConnect
  rw [set]
  exact if_pos ((backlog_iff s b).mpr held)

theorem takeConnect_unspelled {b : Berth} {s : State} (set : s.clock.timeUnset = false)
    (room : billingHeld s.jour.queue b = 0)
    (bad : (s.params.get b).configured = false ∨ parseProfile (s.seq.get b).shadow = none) (t : BitVec 16) :
    takeConnect b t s = refuse b RequestKind.connect.bits t .refusedParam s := by
  have clear : ¬s.backlog b = true := fun held => (backlog_iff s b).mp held room
  unfold takeConnect
  dsimp only
  rw [if_neg (by rw [set]; nofun), if_neg clear]
  rcases bad with bad | bad
  · rw [bad]
    rfl
  · rw [bad]
    split <;> rfl

theorem takeConnect_spelled {b : Berth} {s : State} {p : ShipProfile} (set : s.clock.timeUnset = false)
    (room : billingHeld s.jour.queue b = 0) (good : (s.params.get b).configured = true)
    (spelled : parseProfile (s.seq.get b).shadow = some p) (t : BitVec 16) :
    takeConnect b t s = connectWith b t p s := by
  have clear : ¬s.backlog b = true := fun held => (backlog_iff s b).mp held room
  unfold takeConnect
  dsimp only
  rw [if_neg (by rw [set]; nofun), if_neg clear, good, spelled]
  rfl

theorem connectWith_unservable {p : ShipProfile} {s : State} (h : s.poolAnswer p = .unservable) (b : Berth) (t : BitVec 16) :
    connectWith b t p s = refuse b RequestKind.connect.bits t .refusedParam s := by
  unfold connectWith
  rw [h]

/-- Settles O45. -/
theorem requestsRefusedInOrder : Obligations.RequestsRefusedInOrder := by
  refine ⟨parseProfile_iff, fun b e c k t rest s u opened short names given => ?_⟩
  intro no
  have asks := exec_asks opened names short
  rw [← given] at asks
  obtain ⟨sync, state⟩ := writeShadow_rest b (numbered 1 rest) s
  have shadow := writeShadow_eq b (numbered 1 rest) s
  rw [← given] at sync state shadow
  have own : u.seq.get b = { s.seq.get b with shadow := overwritten (numbered 1 rest) (s.seq.get b).shadow } := by
    rw [shadow]
    exact State.updSeq_self ..
  have page : u.page = s.page := by rw [shadow]; rfl
  have current : (u.seq.get b).current = (s.seq.get b).current := by rw [own]
  have refused {o : ReqOutcome} (h : takeRequest b k t u = refuse b k t o u) : no o := by
    show exec c s = _
    rw [asks, h]
    rfl
  refine ⟨fun unknown => refused (takeRequest_unknown unknown b t u), fun r kind =>
    ⟨fun lost => refused (takeRequest_lost kind (by rw [page]; exact lost) b t), fun present busy other =>
      refused (takeRequest_busy kind (by rw [page]; exact present) (by rw [current]; exact busy) other t),
      fun present free => ?_⟩⟩
  rw [← page] at present
  rw [← current] at free
  have wrong (not : ¬s.accepts b r = true) : no .refusedState := by
    refine refused (takeRequest_state kind present free (fun accepts => not ?_) t)
    rw [accepts_iff] at accepts ⊢
    have line : u.tripLine b = s.tripLine b := by rw [shadow]; rfl
    rw [state b, sync, line, own] at accepts
    exact accepts
  refine ⟨⟨?_, ?_, ?_, ?_, ?_, ?_, ?_⟩, ?_⟩
  · rintro rfl other
    exact wrong (by simp [accepts_iff, other])
  · rintro rfl other
    exact wrong (by simp [accepts_iff, other])
  · rintro rfl other
    exact wrong (by simp [accepts_iff, other])
  · rintro rfl other
    exact wrong (by simp [accepts_iff, other])
  · rintro rfl waiting matching armed parallel
    exact wrong (by simp [accepts_iff, waiting, matching, armed, parallel])
  · rintro rfl energised tripped
    exact wrong (by simp [accepts_iff, energised, tripped])
  · rintro rfl not
    refine wrong fun accepts => not ?_
    simpa [accepts_iff] using accepts
  · rintro rfl idle
    have accepted : takeRequest b k t u = takeConnect b t u :=
      takeRequest_accepted kind present free ((accepts_iff ..).mpr (.inl ⟨rfl, (state b).trans idle⟩)) t
    have clock : u.clock = s.clock := by rw [shadow]; rfl
    have jour : u.jour = s.jour := by rw [shadow]; rfl
    have params : u.params = s.params := by rw [shadow]; rfl
    have bits := bits_of_code kind
    rw [← clock, ← jour, ← params]
    refine ⟨fun unset => ?_, fun set held => ?_, fun set room => ⟨fun bad => ?_, fun p good spelled never => ?_⟩⟩
    · exact refused (accepted.trans (bits ▸ takeConnect_unset unset b t))
    · exact refused (accepted.trans (bits ▸ takeConnect_backlog set held t))
    · exact refused (accepted.trans (bits ▸ takeConnect_unspelled set room bad t))
    · have answer : u.poolAnswer p = .unservable := by rw [shadow]; exact never
      exact refused (accepted.trans (bits ▸ (takeConnect_spelled set room good spelled t).trans
        (connectWith_unservable answer b t)))

end Sys2Proof.Machine
end

section
/-! Proofs: an accepted CONNECT is served or queued (R8, R102, R103). -/

namespace Sys2Proof.Machine

/-! ## A request that is accepted (R100) -/

theorem accepts_shadow (b c : Berth) (r : RequestKind) (sh : List Word) (s : State) :
    (s.updSeq b fun q => { q with shadow := sh }).accepts c r = s.accepts c r := by
  by_cases same : c = b
  · subst same
    unfold State.accepts State.tripLine
    rw [State.updSeq_self]
    rfl
  · unfold State.accepts State.tripLine
    rw [State.updSeq_other s b _ c same]
    rfl

/-- A request command whose kind is accepted in the state in which it finds the berth. -/
theorem exec_accepted {c : Instr} {b : Berth} {e : WindowEntry} {k : BitVec 8} {r : RequestKind} {t : BitVec 16}
    {rest : List Word} {s : State} (opened : s.PageOpen b e) (short : rest.length ≤ 7) (present : s.page.presence ≠ .lost)
    (free : (s.seq.get b).current = none ∨ r = .abort) (names : request? c = some (b, k, t, rest))
    (kind : RequestKind.ofCode? k.toNat = some r) (accepts : s.accepts b r = true) : ∃ sh,
    exec c s = .next (passOn (requestItem e k t rest)
      (takeAccepted b t r (s.updSeq b fun q => { q with shadow := sh }))) ∧
    writeShadow b (numbered 1 rest) s = s.updSeq b fun q => { q with shadow := sh } := by
  have shadow := writeShadow_eq b (numbered 1 rest) s
  refine ⟨overwritten (numbered 1 rest) (s.seq.get b).shadow, ?_, shadow⟩
  rw [exec_asks opened names short, shadow]
  rw [takeRequest_accepted
    (s := s.updSeq b fun q => { q with shadow := overwritten (numbered 1 rest) (s.seq.get b).shadow }) kind present
    (by rw [State.updSeq_self]; exact free) (by rw [accepts_shadow]; exact accepts)]

/-! ## The pool's answer (R8) -/

theorem present_eq (s : State) : s.pickModules (·.present) =
    (ModuleId.list.filter fun m => (s.mods.get m).present).map fun m => (m, (s.mods.get m).rating) := rfl

theorem poolAnswer_iff {s : State} {p : ShipProfile} {all : Option (List ModuleId)}
    (h : all = allocate (s.pickModules (·.present)) p.demand p.reserve) :
    (s.poolAnswer p = .unservable ↔ all = none) ∧
      (∀ ms, s.poolAnswer p = .served ms ↔
        all.isSome = true ∧ s.claims = [] ∧ s.allocation p.demand p.reserve = some ms) ∧
      (s.poolAnswer p = .queued ↔
        all.isSome = true ∧ (s.claims ≠ [] ∨ s.allocation p.demand p.reserve = none)) := by
  unfold State.poolAnswer
  rw [← h]
  rcases Option.eq_none_or_eq_some all with rfl | ⟨x, rfl⟩
  · simp
  · cases claims : s.claims with
    | cons c cs => simp
    | nil => cases s.allocation p.demand p.reserve <;> simp

/-! ## Modules given to a berth (R7, R103) -/

/-- A module that joins a berth: its staleness timer starts, and it takes the berth's mode. -/
structure Module.Taken (b : Berth) (given : CmdMode) (r x : Module) : Prop where
  standing : x.standing = .assigned b .joining
  staleTimer : x.staleTimer = .running 100000
  mode : x.mode = given
  blank : r.mode = given → x.blankExpiry = r.blankExpiry

theorem enterJoining_taken (b : Berth) (m : ModuleId) (s : State) :
    (s.mods.get m).Taken b (s.seq.get b).state.moduleMode ((enterJoining b m s).mods.get m) := by
  rw [enterJoining_eq, State.updMod_self]
  exact ⟨rfl, rfl, rfl, fun same => if_pos same⟩

theorem assignAll_other {b : Berth} {m : ModuleId} {ms : List ModuleId} (h : m ∉ ms) (s : State) :
    (assignAll b ms s).mods.get m = s.mods.get m := by
  induction ms generalizing s with
  | nil => rfl
  | cons k ms ih =>
    obtain ⟨ne, later⟩ := List.ne_and_not_mem_of_not_mem_cons h
    exact (ih later (enterJoining b k s)).trans (enterJoining_other b k m s ne)

theorem assignAll_taken {b : Berth} {m : ModuleId} {ms : List ModuleId} (h : m ∈ ms) (s : State) :
    (s.mods.get m).Taken b (s.seq.get b).state.moduleMode ((assignAll b ms s).mods.get m) := by
  induction ms generalizing s with
  | nil => cases h
  | cons k ms ih =>
    have seq : (enterJoining b k s).seq = s.seq := by rw [enterJoining_modsOnly b k s]
    by_cases later : m ∈ ms
    · have taken := ih later (enterJoining b k s)
      rw [seq] at taken
      by_cases same : m = k
      · subst same
        have first := enterJoining_taken b m s
        exact ⟨taken.standing, taken.staleTimer, taken.mode, fun stays =>
          (taken.blank first.mode).trans (first.blank stays)⟩
      · rw [enterJoining_other b k m s same] at taken
        exact taken
    · have same : m = k := (List.mem_cons.mp h).resolve_right later
      subst same
      show (s.mods.get m).Taken b _ ((assignAll b ms (enterJoining b m s)).mods.get m)
      rw [assignAll_other later]
      exact enterJoining_taken b m s

/-- A berth stands in a state, seen from before a change of modules that serve it not. -/
theorem State.Stands.of_mods {b : Berth} {new : BerthState} {s u t : State} (h : u.Stands b new t) (only : s.ModsOnly u)
    (modes : s.ModesOk → u.ModesOk) (kept : ∀ m, (s.mods.get m).serves b = true → u.mods.get m = s.mods.get m) :
    s.Stands b new t := by
  have seq : u.seq = s.seq := by rw [only]
  have now : u.now = s.now := by rw [only]
  have prot : u.prot = s.prot := by rw [only]
  have osc : u.osc = s.osc := by rw [only]
  have fresh : u.feederFresh b = s.feederFresh b := by rw [only]; rfl
  have lost : u.isLost = s.isLost := by rw [only]; rfl
  exact
    { state := h.state, entry := h.entry.trans now, volt := by rw [← seq]; exact h.volt, setpoint := h.setpoint
      level := h.level, direction := h.direction
      staleHold := by rw [← seq, ← fresh]; exact h.staleHold, lostHold := by rw [← seq, ← lost]; exact h.lostHold
      energise := h.energise, syncT := h.syncT, parallel := h.parallel, overload := h.overload, reverse := h.reverse
      osc := by rw [← osc]; exact h.osc, mode := h.mode, modules := h.modules
      blanking := fun ok m before after => by
        have same := kept m before
        have blanked := h.blanking (modes ok) m (by rw [same]; exact before) after
        unfold State.Blanked at blanked ⊢
        rw [same, seq, now, prot] at blanked
        exact blanked }

theorem energiseWith_stands {b : Berth} {ms : List ModuleId} {s : State}
    (free : ∀ m ∈ ms, (s.mods.get m).standing = .available) : s.Stands b .energising (energiseWith b ms s) := by
  have given := assignAll_pool (b := b) (s := s) fun m at_ => .inl (free m at_)
  refine (enterState_stands b .energising (assignAll b ms s)).of_mods (assignAll_modsOnly b ms s) given.modes fun m serves =>
    assignAll_other (fun at_ => ?_) s
  rw [not_serves_of_available (free m at_)] at serves
  cases serves

/-- R103: the modules with which a berth out of IDLE energises: they join in FORM, blanked for the change from OFF. -/
theorem energiseWith_taken {b : Berth} {m : ModuleId} {ms : List ModuleId} {s : State}
    (idle : (s.seq.get b).state = .idle) (free : (s.mods.get m).standing = .available) (h : m ∈ ms) :
    ((energiseWith b ms s).mods.get m).standing = .assigned b .joining ∧
      ((energiseWith b ms s).mods.get m).mode = .form ∧
      ((energiseWith b ms s).mods.get m).staleTimer = .running 100000 ∧
      (s.ModesOk → ((energiseWith b ms s).mods.get m).blankExpiry =
        blankedUntil s.now s.prot.blankingMs (s.mods.get m).blankExpiry) := by
  let u := assignAll b ms s
  have taken := assignAll_taken (b := b) h s
  have only := assignAll_modsOnly b ms s
  rw [idle] at taken
  have serves : (u.mods.get m).serves b = true := serves_of_assigned taken.standing
  have standing : ((energiseWith b ms s).mods.get m).standing = .assigned b .joining :=
    (enterState_standing b .energising u m).trans taken.standing
  have mode : ((energiseWith b ms s).mods.get m).mode = .form :=
    (enterState_stands b .energising u).modules m (.inl standing)
  obtain ⟨ns, driven, e⟩ := enterState_spec b .energising u
  have timer : ((energiseWith b ms s).mods.get m).staleTimer = (u.mods.get m).staleTimer := by
    unfold energiseWith
    rw [e]
    exact SameButDrive_staleTimer (driven.1 m)
  refine ⟨standing, mode, timer.trans taken.staleTimer, fun ok => ?_⟩
  have off : (s.mods.get m).mode = .off := by
    rw [ok m, commandedMode_unassigned (by rw [free]; rfl)]
  have blanked := enterState_blanks b .energising u m serves (serves_of_assigned standing)
  have now : u.now = s.now := by rw [show u = _ from only]
  have prot : u.prot = s.prot := by rw [show u = _ from only]
  have changes : ((enterState b .energising u).mods.get m).mode ≠ (u.mods.get m).mode := by
    rw [show ((enterState b .energising u).mods.get m).mode = .form from mode, taken.mode]
    nofun
  unfold State.Blanked at blanked
  rw [if_pos (.inl changes), now, prot, taken.blank off] at blanked
  exact blanked

/-! ## CONNECT (R102) -/

/-- R102: an accepted CONNECT, before its modules are given or its claim queued. -/
def State.profiled (b : Berth) (t : BitVec 16) (p : ShipProfile) (sh : List Word) (s : State) : State :=
  makeCurrent b .connect t ((s.updSeq b fun q => { q with shadow := sh }).updSeq b fun q =>
    { q with profile := some p, firstEnergised := false })

theorem profiled_seq (b : Berth) (t : BitVec 16) (p : ShipProfile) (sh : List Word) (s : State) :
    (s.profiled b t p sh).seq.get b = { s.seq.get b with
      shadow := sh, profile := some p, firstEnergised := false, current := some { kind := .connect, tag := t } } := by
  unfold State.profiled makeCurrent
  rw [State.updSeq_self, State.updSeq_self, State.updSeq_self]

theorem profiled_state (b c : Berth) (t : BitVec 16) (p : ShipProfile) (sh : List Word) (s : State) :
    ((s.profiled b t p sh).seq.get c).state = (s.seq.get c).state := by
  by_cases same : c = b
  · rw [same, profiled_seq]
  · unfold State.profiled makeCurrent
    rw [State.updSeq_other _ _ _ _ same, State.updSeq_other _ _ _ _ same, State.updSeq_other _ _ _ _ same]

theorem profiled_only (b : Berth) (t : BitVec 16) (p : ShipProfile) (sh : List Word) (s : State) :
    s.OnlyBerth b (s.profiled b t p sh) :=
  ((updSeq_only b _ s).trans (updSeq_only b _ _)).trans (makeCurrent_only b .connect t _)

theorem stands_of_profiled {b : Berth} {t : BitVec 16} {p : ShipProfile} {sh : List Word} {new : BerthState} {s x : State}
    (h : (s.profiled b t p sh).Stands b new x) : s.Stands b new x :=
  h.of_context (fun c => profiled_state b c t p sh s) (by rw [profiled_seq]) (by rw [profiled_seq]) (by rw [profiled_seq])
    (by rw [profiled_seq]) rfl rfl rfl rfl rfl rfl

theorem start_eq (n : Nat) : Osc.start n =
    { running := true, freq := (max 45000 (min 65000 n)) * 1000000, phase := 0, requested := .nominal, effective := .nominal
      beforeHold := none, target := (max 45000 (min 65000 n)) * 1000000, lock := false, lastError := none
      gliding := false } := by
  unfold Osc.start
  rw [Osc.boundFreq_eq]
  rfl

/-- Settles O46. -/
theorem connectServedOrQueued : Obligations.ConnectServedOrQueued := by
  refine ⟨fun s p all given => poolAnswer_iff given, fun b e tag rest s u p asked given idle set room good spelled => ?_⟩
  obtain ⟨opened, short, present, free⟩ := asked
  obtain ⟨sh, asks, shadow⟩ := exec_accepted (c := .connect b tag rest) (k := 1) (r := .connect) opened short present
    (.inl free) rfl rfl ((accepts_iff s b .connect).mpr (.inl ⟨rfl, idle⟩))
  rw [← given] at shadow
  rw [← shadow] at asks
  let v := s.profiled b tag p sh
  have taken : takeAccepted b tag .connect u = connectWith b tag p u :=
    takeConnect_spelled (by rw [shadow]; exact set) (by rw [shadow]; exact room) (by rw [shadow]; exact good) spelled tag
  have answer : u.poolAnswer p = s.poolAnswer p := by rw [shadow]; rfl
  rw [taken] at asks
  have profiled := profiled_only b tag p sh s
  have own := profiled_seq b tag p sh s
  refine ⟨fun ms served => ?_, fun queued => ?_⟩
  · have gives : connectWith b tag p u = energiseWith b ms v := by
      unfold connectWith
      rw [answer, served, shadow]
      rfl
    have available := allocation_available (poolAnswer_served served)
    have stands : s.Stands b .energising (energiseWith b ms v) := stands_of_profiled (energiseWith_stands available)
    have seq : (energiseWith b ms v).seq.get b = enteredSeq b .energising (assignAll b ms v) := by
      unfold energiseWith
      rw [enterState_seq, PerBerth.get_set_self]
    have before : (assignAll b ms v).seq = v.seq := by rw [assignAll_modsOnly b ms v]
    have params : (assignAll b ms v).params = s.params := by rw [assignAll_modsOnly b ms v]; rfl
    have profile : ((energiseWith b ms v).seq.get b).profile = some p := by
      rw [seq, enteredSeq_profile, before, own]
    rw [gives] at asks
    refine ⟨_, asks, ?_, stands, profile, ?_, ?_, stands.volt, ?_, ?_, ?_, fun stopped f bound => ?_, fun m at_ => ?_⟩
    · exact profiled.toSameStation.trans ((assignAll_modsOnly b ms v).same.trans (enterState_only b .energising _).toSameStation)
    · rw [seq, enteredSeq_current, before, own]
    · rw [seq, enteredSeq_firstEnergised, before, own]
    · rw [seq, ← params]
      rfl
    · rw [seq, enteredSeq_count, before, own]
    · rw [energiseWith_claims]
      exact profiled.claims
    · have started := stands.osc .nominal rfl
      rw [if_pos ⟨rfl, stopped⟩] at started
      unfold State.nominalFreq at started
      rw [profile] at started
      rw [started, start_eq, bound]
    · obtain ⟨standing, mode, timer, blank⟩ :=
        energiseWith_taken (s := v) ((profiled_state b b tag p sh s).trans idle) (available m at_) at_
      exact ⟨standing, mode, timer, fun ok =>
        blank fun k => (ok k).trans (commandedMode_congr (fun c => profiled_state b c tag p sh s) _).symm⟩
  · let w : State := { v with claims := v.claims ++ [newClaim b p (v.params.get b).claimTimeoutMin] }
    have gives : connectWith b tag p u = enterState b .waitingModules w := by
      unfold connectWith
      rw [answer, queued, shadow]
      rfl
    have stands : s.Stands b .waitingModules (enterState b .waitingModules w) :=
      stands_of_profiled ((enterState_stands b .waitingModules w).of_inputs rfl rfl rfl rfl rfl rfl rfl)
    have seq : (enterState b .waitingModules w).seq.get b = enteredSeq b .waitingModules w := by
      rw [enterState_seq, PerBerth.get_set_self]
    have before : w.seq.get b = _ := own
    rw [gives] at asks
    refine ⟨_, asks, ?_, stands, ?_, ?_, ?_, ?_, ?_⟩
    · exact profiled.toSameStation.trans ((by constructor <;> rfl : v.SameStation w).trans
        (enterState_only b .waitingModules w).toSameStation)
    · rw [seq, enteredSeq_profile, before]
    · rw [seq, enteredSeq_current, before]
    · rw [seq, enteredSeq_firstEnergised, before]
    · rw [seq, enteredSeq_count, before]
    · exact (enterState_only b .waitingModules w).claims

end Sys2Proof.Machine
end

section
/-! Proofs: SYNC, and the window it has evaluated (R79, R105). -/

namespace Sys2Proof.Machine

/-! ## The oscillator that is asked for a mode (R46) -/

theorem Osc.request_running (e : OscEnv) (m : OscMode) (o : Osc) : (o.request e m).running = o.running := by
  have ends (o : Osc) (fresh : Bool) : (o.endHold fresh).running = o.running := by
    unfold Osc.endHold
    split
    · split <;> rfl
    · rfl
  unfold Osc.request
  split
  · rfl
  · dsimp only
    split
    · unfold Osc.settleLock
      split <;> exact ends _ _
    · unfold Osc.settle
      split <;> exact ends _ _

/-! ## The window (R78) -/

theorem evalWindow_congr {b : Berth} {s t : State} (meas : t.meas = s.meas) (osc : t.osc.get b = s.osc.get b)
    (params : t.params = s.params) (residual : (t.sync.get b).residual = (s.sync.get b).residual)
    (profile : (t.seq.get b).profile = (s.seq.get b).profile) : t.evalWindow b = s.evalWindow b := by
  unfold State.evalWindow State.nominalVolt
  rw [meas, osc, params, residual, profile]

/-- R79: what a window that holds makes of a berth in MATCHING. -/
theorem evaluate_matching_eq {b : Berth} {s : State} (state : (s.seq.get b).state = .matching)
    (holds : (s.evalWindow b).holds = true) :
    evaluate b s = predict b (enterState b .armed (s.updSync b fun u => { u with window := s.evalWindow b })) := by
  unfold evaluate
  rw [state]
  dsimp only
  rw [holds]
  rfl

theorem predict_rest (b : Berth) (s : State) : predict b s = { s with sync := (predict b s).sync } := by
  unfold predict
  split <;> rfl

theorem evaluate_quiet (b : Berth) (s : State) : s.Quiet (evaluate b s) := by
  have told (u : State) : u.Quiet (predict b u) := by
    rw [predict_rest]
    exact quiet_of rfl rfl rfl
  have marked (u : State) (f : Sync → Sync) : u.Quiet (u.updSync b f) := quiet_of rfl rfl rfl
  unfold evaluate
  dsimp only
  split
  · split
    · split
      · exact ((marked s _).trans (enterState_quiet ..)).trans (told _)
      · exact (marked s _).trans (told _)
    · split
      · exact ((marked s _).trans (marked _ _)).trans (enterState_quiet ..)
      · exact marked s _
  · exact .refl s

/-! ## Shares of a state whose modules do not FOLLOW (R17) -/

theorem enterState_unshared {b : Berth} {new : BerthState} {s : State} {m : ModuleId} (form : new.moduleMode ≠ .follow)
    (serves : (s.mods.get m).serves b = true) : ((enterState b new s).mods.get m).share = 0 := by
  let x := refreshDirection b (holdIfStale b (refreshModes b (enteredMid b new s)))
  have entered : enterState b new s = judge b (recomputeShares b x) := enterState_mid b new s
  have mods : (enterState b new s).mods = (recomputeShares b x).mods := by rw [entered]; rfl
  obtain ⟨ms, driven, e⟩ := recomputeShares_spec b x
  have state : (x.seq.get b).state = new := by
    rw [← enterState_state b new s, entered, judge_eq, e]
    simp only [PerBerth.get_set_self]
    rfl
  have kept : (x.mods.get m).serves b = true := by
    rw [← (driven.1 m).serves, ← serves, ← enterState_serves (b := b) (new := new) (s := s), mods, e]
  rw [mods, recomputeShares_get b x m kept, shared_share]
  exact if_neg fun follows => form (state ▸ follows.1)

/-! ## MATCHING that arms at once (R79) -/

/-- A berth that has entered MATCHING and then ARMED stands in ARMED, seen from before the first. -/
theorem State.Stands.arms {b : Berth} {s v t : State} (h : s.Stands b .matching v) (k : v.Stands b .armed t)
    (inputs : s.SameInputs v) (later : v.SameInputs t) (osc : t.osc.get b = v.osc.get b)
    (profile : (t.seq.get b).profile = (v.seq.get b).profile)
    (mods : ∀ m, (s.mods.get m).serves b = true → (t.mods.get m).serves b = true →
      (v.mods.get m).serves b = true ∧ (t.mods.get m).mode = (v.mods.get m).mode ∧
        (t.mods.get m).share = (v.mods.get m).share ∧ (t.mods.get m).blankExpiry = (v.mods.get m).blankExpiry) :
    s.Stands b .armed t where
  state := k.state
  entry := k.entry.trans inputs.now
  volt := by rw [k.volt, h.volt]; rfl
  setpoint := k.setpoint
  level := k.level
  direction := k.direction
  staleHold := by
    rw [k.staleHold, h.staleHold, show BerthState.armed.isParallel = false from rfl, Bool.false_and, Bool.or_false]
    rfl
  lostHold := by
    rw [k.lostHold, h.lostHold, show (BerthState.armed == .parallelIn) = false from rfl, Bool.false_and, Bool.or_false]
    rfl
  energise := k.energise
  syncT := k.syncT
  parallel := k.parallel
  overload := k.overload
  reverse := k.reverse
  osc o asks := by
    have env : t.oscEnv b = v.oscEnv b := by
      unfold State.oscEnv State.shipFresh State.nominalFreq
      rw [later.meas, later.params, later.now, profile]
    have first := h.osc o asks
    rw [if_neg (by rintro ⟨entry, -⟩; cases entry)] at first ⊢
    rw [osc, env, first]
  mode := k.mode
  modules := k.modules
  blanking ok m before after := by
    obtain ⟨serves, mode, share, expiry⟩ := mods m before after
    have blanked := h.blanking ok m before serves
    unfold State.Blanked at blanked ⊢
    rw [expiry, mode, share, k.level rfl, ← h.level rfl]
    exact blanked

/-- R105: a berth whose SYNC has been accepted, before its window is evaluated. -/
def State.watching (b : Berth) (t : BitVec 16) (s : State) : State :=
  (enterState b .matching (makeCurrent b .sync t s)).updSync b fun u =>
    { u with closeUsed := false, prediction := none, closeDue := .stopped }

theorem takeSync_eq (b : Berth) (t : BitVec 16) (s : State) : takeSync b t s = evaluate b (s.watching b t) := rfl

section
variable {b : Berth} {t : BitVec 16} {s : State}

theorem watching_seq : (s.watching b t).seq.get b = enteredSeq b .matching (makeCurrent b .sync t s) :=
  (congrArg (PerBerth.get · b) (enterState_seq b .matching _)).trans (PerBerth.get_set_self ..)

theorem watching_stands : s.Stands b .matching (s.watching b t) := by
  have entered := enterState_stands b .matching (makeCurrent b .sync t s)
  have stands : (makeCurrent b .sync t s).Stands b .matching (s.watching b t) :=
    entered.after ⟨rfl, rfl, rfl, rfl⟩ ⟨_, _, _, _, rfl⟩ rfl (fun _ => rfl) entered.modules fun _ _ k => ⟨k, rfl, rfl, rfl⟩
  have own : (makeCurrent b .sync t s).seq.get b = { s.seq.get b with current := some { kind := .sync, tag := t } } :=
    State.updSeq_self ..
  refine stands.of_context (fun c => ?_) ?_ ?_ ?_ ?_ rfl rfl rfl rfl rfl rfl
  · by_cases same : c = b
    · rw [same, own]
    · exact congrArg Seq.state (State.updSeq_other s b _ c same)
  iterate 4 rw [own]

theorem watching_inputs : s.SameInputs (s.watching b t) := by
  have only := (makeCurrent_only b .sync t s).trans (enterState_only b .matching _)
  exact ⟨(enterState_meas b .matching _).trans rfl, only.params, only.prot, only.now⟩

theorem watching_sync (h : (s.seq.get b).state = .energised) : (s.watching b t).sync.get b =
    { s.sync.get b with closeUsed := false, prediction := none, closeDue := .stopped } := by
  have state : ((makeCurrent b .sync t s).seq.get b).state.isWatching = false := by
    rw [makeCurrent, State.updSeq_self]
    exact congrArg BerthState.isWatching h
  unfold State.watching
  rw [State.updSync_self, enterState_sync, PerBerth.get_set_self, enteredSync_not b .matching _ state]
  rfl

theorem watching_osc : (s.osc.get b).running = ((s.watching b t).osc.get b).running := by
  have entered : (s.watching b t).osc.get b = enteredOsc b .matching (makeCurrent b .sync t s) :=
    (congrArg (PerBerth.get · b) (enterState_osc b .matching _)).trans (PerBerth.get_set_self ..)
  rw [entered]
  exact (Osc.request_running _ .trackSlip (s.osc.get b)).symm

/-- The oscillator of a berth that watches is stopped or asked for TRACK_SLIP. -/
theorem watching_asked :
    ((s.watching b t).osc.get b).running = false ∨ ((s.watching b t).osc.get b).requested = .trackSlip := by
  by_cases run : ((s.watching b t).osc.get b).running = true
  · exact .inr ((watching_stands (t := t)).mode .trackSlip rfl run)
  · exact .inl (Bool.eq_false_iff.mpr run)

end

/-- R79: a berth in MATCHING, its oscillator stopped or in TRACK_SLIP, whose window is evaluated. -/
theorem evaluate_settled {b : Berth} {v : State} (state : (v.seq.get b).state = .matching)
    (asked : (v.osc.get b).running = false ∨ (v.osc.get b).requested = .trackSlip) :
    v.SameInputs (evaluate b v) ∧ (evaluate b v).evalWindow b = v.evalWindow b ∧
      ((evaluate b v).sync.get b).window = v.evalWindow b ∧ (evaluate b v).osc.get b = v.osc.get b ∧
      ((evaluate b v).seq.get b).profile = (v.seq.get b).profile ∧
      ((evaluate b v).seq.get b).current = (v.seq.get b).current ∧
      ((evaluate b v).seq.get b).syncT = (v.seq.get b).syncT ∧
      ((evaluate b v).sync.get b).closeUsed = (v.sync.get b).closeUsed ∧
      ((evaluate b v).sync.get b).closeCount = (v.sync.get b).closeCount := by
  have only := evaluate_only b v
  have inputs : v.SameInputs (evaluate b v) := ⟨evaluate_meas b v, only.params, only.prot, only.now⟩
  by_cases holds : (v.evalWindow b).holds = true
  · obtain ⟨p, x, ship, slip, -⟩ := evalWindow_held holds
    obtain ⟨stands, sync⟩ := evaluate_matching_holds state asked holds ship slip
    let u := v.updSync b fun y => { y with window := v.evalWindow b }
    have e := evaluate_matching_eq state holds
    have osc : (evaluate b v).osc.get b = v.osc.get b := by
      rw [e, predict_rest]
      refine (congrArg (PerBerth.get · b) (enterState_osc b .armed u)).trans ?_
      rw [PerBerth.get_set_self]
      exact enteredOsc_armed (s := u) asked
    have seq : (evaluate b v).seq.get b = enteredSeq b .armed u := by
      rw [e, predict_seq, enterState_seq, PerBerth.get_set_self]
    have profile : ((evaluate b v).seq.get b).profile = (v.seq.get b).profile := by rw [seq]; rfl
    have timer : ((evaluate b v).seq.get b).syncT = (v.seq.get b).syncT := by
      rw [seq]
      exact if_pos (congrArg BerthState.isWatching state)
    refine ⟨inputs, evalWindow_congr inputs.meas osc inputs.params ?_ profile, ?_, osc, profile, ?_, timer, ?_, ?_⟩
    · rw [sync]; rfl
    · rw [sync]; rfl
    · rw [seq]; rfl
    · rw [sync]; rfl
    · rw [sync]; rfl
  · have e := evaluate_matching state (Bool.eq_false_iff.mpr holds)
    rw [e] at inputs ⊢
    rw [State.updSync_self]
    exact ⟨inputs, evalWindow_stored b _ v, rfl, rfl, rfl, rfl, rfl, rfl, rfl⟩

/-- R105, R79: an accepted SYNC whose window holds. -/
theorem takeSync_armed {b : Berth} {t : BitVec 16} {s : State} (holds : ((s.watching b t).evalWindow b).holds = true) :
    s.Stands b .armed (takeSync b t s) ∧ ((takeSync b t s).sync.get b).prediction.isSome = true := by
  let v := s.watching b t
  have first : s.Stands b .matching v := watching_stands
  obtain ⟨p, x, ship, slip, -⟩ := evalWindow_held holds
  obtain ⟨stands, sync⟩ := evaluate_matching_holds first.state watching_asked holds ship slip
  obtain ⟨later, -, -, osc, profile, -⟩ := evaluate_settled (v := v) first.state watching_asked
  let u := v.updSync b fun y => { y with window := v.evalWindow b }
  have mods : (evaluate b v).mods = (enterState b .armed u).mods := by
    rw [evaluate_matching_eq first.state holds, predict_rest]
  rw [takeSync_eq]
  refine ⟨first.arms stands watching_inputs later osc profile fun m before after => ?_, by rw [sync]; rfl⟩
  have served : (v.mods.get m).serves b = true := by
    rw [mods, enterState_serves] at after
    exact after
  have unshared : (v.mods.get m).share = 0 := enterState_unshared (s := makeCurrent b .sync t s) (by decide) before
  have share : ((enterState b .armed u).mods.get m).share = 0 := enterState_unshared (by decide) served
  have standing := enterState_standing b .matching (makeCurrent b .sync t s) m
  have mode : ((enterState b .armed u).mods.get m).mode = (v.mods.get m).mode := by
    obtain ⟨r, assigned⟩ := (serves_iff_standing _ b).mp served
    have armed := (enterState_mode b .armed u m).2 served
    have matching := (enterState_mode b .matching (makeCurrent b .sync t s) m).2 before
    rw [← standing] at matching
    have modes (x : Standing) (h : x = .assigned b r) : (enterState b .armed u).commandedMode x =
        (enterState b .matching (makeCurrent b .sync t s)).commandedMode x := by
      rw [h]
      cases r <;> unfold State.commandedMode <;> dsimp only <;> rw [enterState_state, enterState_state] <;> rfl
    exact armed.trans ((modes _ assigned).trans matching.symm)
  rw [mods]
  refine ⟨served, mode, share.trans unshared.symm, ?_⟩
  have blanked := enterState_blanks b .armed u m served ((enterState_serves b b .armed u m).trans served)
  have level : ((enterState b .armed u).seq.get b).dir = (u.seq.get b).dir :=
    ((enterState_stands b .armed u).level rfl).trans (first.level rfl).symm
  unfold State.Blanked at blanked
  rw [if_neg] at blanked
  · exact blanked
  · rintro (change | step | turn)
    · exact change mode
    · rw [show ((enterState b .armed u).mods.get m).share = (u.mods.get m).share from share.trans unshared.symm,
        Int.sub_self] at step
      exact Nat.not_lt_zero _ step
    · exact turn level

end Sys2Proof.Machine
end

section
/-! Proofs: what an accepted request makes of its berth (R108 to R110, R113, R114). -/

namespace Sys2Proof.Machine

/-! ## The state in which a request is judged (R99) -/

/-- R99: the berth after the words that came with a request. -/
def State.shadowed (b : Berth) (sh : List Word) (s : State) : State := s.updSeq b fun q => { q with shadow := sh }

section
variable (b : Berth) (sh : List Word) (s : State)

theorem shadowed_seq : (s.shadowed b sh).seq.get b = { s.seq.get b with shadow := sh } := State.updSeq_self ..

theorem shadowed_state (c : Berth) : ((s.shadowed b sh).seq.get c).state = (s.seq.get c).state := by
  by_cases same : c = b
  · rw [same, shadowed_seq]
  · exact congrArg Seq.state (State.updSeq_other s b _ c same)

theorem shadowed_only : s.OnlyBerth b (s.shadowed b sh) := updSeq_only b _ s

theorem shadowed_quiet : s.Quiet (s.shadowed b sh) := quiet_of rfl rfl rfl

end

theorem stands_of_shadowed {b : Berth} {sh : List Word} {new : BerthState} {s t : State}
    (h : (s.shadowed b sh).Stands b new t) : s.Stands b new t := by
  refine h.of_context (shadowed_state b sh s) ?_ ?_ ?_ ?_ rfl rfl rfl rfl rfl rfl <;> rw [shadowed_seq]

section
variable {b : Berth} {new : BerthState} {s t : State}

theorem stands_of_makeCurrent {k : RequestKind} {g : BitVec 16} (h : (makeCurrent b k g s).Stands b new t) :
    s.Stands b new t := by
  have own : (makeCurrent b k g s).seq.get b = { s.seq.get b with current := some { kind := k, tag := g } } :=
    State.updSeq_self ..
  refine h.of_context (fun c => ?_) ?_ ?_ ?_ ?_ rfl rfl rfl rfl rfl rfl
  · by_cases same : c = b
    · rw [same, own]
    · exact congrArg Seq.state (State.updSeq_other s b _ c same)
  iterate 4 rw [own]

/-! ## A result (R101) -/

theorem writeResult_seq (b : Berth) (k : BitVec 8) (g : BitVec 16) (o : ReqOutcome) (c : Option Cause)
    (v : Option (BitVec 16)) (s : State) : (writeResult b k g o c v s).seq.get b =
      { s.seq.get b with
        last := { kind := k, tag := g, outcome := o, cause := c, overtaken := v }, count := (s.seq.get b).count + 1 } := by
  unfold writeResult
  rw [setSummary_seq, State.updSeq_self]

theorem writeResult_stands (h : s.Stands b new t) (k : BitVec 8) (g : BitVec 16) (o : ReqOutcome) (c : Option Cause)
    (v : Option (BitVec 16)) : s.Stands b new (writeResult b k g o c v t) :=
  h.after ⟨rfl, rfl, rfl, rfl⟩ ⟨_, _, _, _, writeResult_seq b k g o c v t⟩ rfl (fun _ => rfl) h.modules
    fun _ _ after => ⟨after, rfl, rfl, rfl⟩

/-! ## PARALLEL_OUT (R109, R110) -/

/-- R110, R117: the ramp of PARALLEL_OUT falls but where a hold is set. -/
theorem dir_parallelOut (h : s.Stands b .parallelOut t) : (t.seq.get b).dir =
    if (t.seq.get b).staleHold = true ∨ (s.seq.get b).lostHold = true then .level
    else if 0 < (t.seq.get b).setpoint then .falling else .level := by
  have lost : (t.seq.get b).lostHold = (s.seq.get b).lostHold := h.lostHold.trans (Bool.or_false _)
  rw [h.direction, wantDir_eq, lost, h.state]
  simp

theorem staleHold_parallelOut (h : s.Stands b .parallelOut t) :
    (t.seq.get b).staleHold = ((s.seq.get b).staleHold || !s.feederFresh b) := h.staleHold

end

/-- R109: an accepted GENS_ON. -/
theorem takeGensOn_spec {b : Berth} {g : BitVec 16} {s : State} (shore : (s.seq.get b).state = .shoreOnly) :
    s.Stands b .parallelOut (takeGensOn b g s) ∧
      ((takeGensOn b g s).seq.get b).current = some { kind := .gensOn, tag := g } ∧
      ((takeGensOn b g s).seq.get b).parallel = .running ((s.params.get b).parallelS * 1000000) ∧
      ((takeGensOn b g s).seq.get b).target = 0 ∧
      ((takeGensOn b g s).seq.get b).setpoint =
        min (((s.meas.get b).feeder.latest.map Feeder.power).getD 0).toNat (s.bound b) * 1000000 ∧
      (takeGensOn b g s).sessions = s.sessions := by
  let u := makeCurrent b .gensOn g s
  have own : u.seq.get b = { s.seq.get b with current := some { kind := .gensOn, tag := g } } := State.updSeq_self ..
  have seq : (takeGensOn b g s).seq.get b = enteredSeq b .parallelOut u := by
    unfold takeGensOn
    rw [enterState_seq, PerBerth.get_set_self]
  have bound : u.bound b = s.bound b := by
    unfold State.bound State.demand
    rw [own]
    rfl
  refine ⟨stands_of_makeCurrent (enterState_stands b .parallelOut u), ?_, ?_, ?_, ?_, ?_⟩
  · rw [seq, enteredSeq_current, own]
  · rw [seq]
    show parallelOnEntry (u.params.get b) (u.seq.get b).state .parallelOut (u.seq.get b).parallel = _
    rw [own]
    exact if_neg (by rw [shore]; nofun)
  · rw [seq]; rfl
  · rw [seq, ← bound]; rfl
  · exact (enterState_sessions b .parallelOut u).trans (if_neg fun away => away.2 rfl)

/-- R108: an accepted GENS_OFF. -/
theorem takeGensOff_spec {b : Berth} {g : BitVec 16} {s : State} (free : (s.seq.get b).current = none) :
    s.Stands b .shoreOnly (takeGensOff b g s) ∧ ((takeGensOff b g s).seq.get b).current = none ∧
      ((takeGensOff b g s).seq.get b).count = (s.seq.get b).count + 1 ∧
      ((takeGensOff b g s).seq.get b).last =
        { kind := 3, tag := g, outcome := .done, cause := none, overtaken := none } ∧
      (takeGensOff b g s).jour = (emitEvent .shoreOnly 0 (some b)
        [putInt 0 32 (((s.meas.get b).feeder.latest.map Feeder.power).getD 0)] s).jour := by
  let u := enterState b .shoreOnly s
  have word : u.feederWord b = putInt 0 32 (((s.meas.get b).feeder.latest.map Feeder.power).getD 0) := by
    rw [feederWord_eq, enterState_meas]
  have seq : (takeGensOff b g s).seq.get b = { enteredSeq b .shoreOnly s with
      last := { kind := RequestKind.gensOff.bits, tag := g, outcome := .done, cause := none, overtaken := none }
      count := (s.seq.get b).count + 1 } := by
    unfold takeGensOff
    rw [writeResult_seq, emitEvent_seq, enterState_seq, PerBerth.get_set_self]
    rfl
  refine ⟨writeResult_stands (emitEvent_stands (enterState_stands b .shoreOnly s) ..) .., ?_, ?_, ?_, ?_⟩
  · rw [seq]; exact free
  · rw [seq]
  · rw [seq]; rfl
  · rw [← word]
    exact emitEvent_jour (enterState_quiet b .shoreOnly s) ..

/-! ## DISCONNECT (R114) -/

/-- R114: the berth that de-energises on a DISCONNECT. -/
def State.leaving (b : Berth) (g : BitVec 16) (s : State) : State :=
  enterState b .deEnergising (makeCurrent b .disconnect g s)

section
variable {b : Berth} {g : BitVec 16} {s : State}

theorem leaving_stands : s.Stands b .deEnergising (s.leaving b g) :=
  stands_of_makeCurrent (enterState_stands b .deEnergising _)

theorem leaving_only : s.OnlyBerth b (s.leaving b g) :=
  (makeCurrent_only b .disconnect g s).trans (enterState_only b .deEnergising _)

theorem leaving_seq : ((s.leaving b g).seq.get b).current = some { kind := .disconnect, tag := g } ∧
    ((s.leaving b g).seq.get b).last = (s.seq.get b).last ∧ ((s.leaving b g).seq.get b).count = (s.seq.get b).count ∧
    ((s.leaving b g).seq.get b).profile = (s.seq.get b).profile := by
  have own : (makeCurrent b .disconnect g s).seq.get b =
      { s.seq.get b with current := some { kind := .disconnect, tag := g } } := State.updSeq_self ..
  unfold State.leaving
  rw [enterState_seq, PerBerth.get_set_self, enteredSeq_current, enteredSeq_last, enteredSeq_count, enteredSeq_profile, own]
  exact ⟨rfl, rfl, rfl, rfl⟩

theorem leaving_quiet : s.Quiet (s.leaving b g) :=
  (quiet_of (s := s) (t := makeCurrent b .disconnect g s) rfl rfl rfl).trans (enterState_quiet b .deEnergising _)

theorem takeDisconnect_falls (h : (s.seq.get b).volt ≠ .zero) : takeDisconnect b g s = s.leaving b g := by
  have volt := (leaving_stands (b := b) (g := g) (s := s)).volt
  refine if_neg fun zero => ?_
  rw [show ((s.leaving b g).seq.get b).volt = .zero from zero] at volt
  unfold voltOnEntry at volt
  rw [if_neg h] at volt
  cases volt

theorem takeDisconnect_done (h : (s.seq.get b).volt = .zero) : takeDisconnect b g s = deEnergised b (s.leaving b g) :=
  if_pos ((leaving_stands (b := b) (g := g) (s := s)).volt.trans (if_pos h))

/-- R114, R121: a DISCONNECT from TRIPPED is done at once. -/
theorem takeDisconnect_idles (tripped : (s.seq.get b).state = .tripped) (zero : (s.seq.get b).volt = .zero)
    (claims : ∀ c ∈ s.claims, c.berth ≠ b) : s.Idles b (takeDisconnect b g s) ∧
      ((takeDisconnect b g s).seq.get b).current = none ∧
      ((takeDisconnect b g s).seq.get b).count = (s.seq.get b).count + 1 ∧
      ((takeDisconnect b g s).seq.get b).last =
        { kind := 6, tag := g, outcome := .done, cause := none, overtaken := none } ∧
      (takeDisconnect b g s).jour =
        (produceReleased b (s.seq.get b).profile (produceClose 1 s.clock.time b s)).jour ∧
      ∀ m, ((takeDisconnect b g s).mods.get m).serves b = false := by
  let v := s.leaving b g
  have only : s.OnlyBerth b v := leaving_only
  have waiting : ∀ c ∈ v.claims, c.berth ≠ b := by rw [only.claims]; exact claims
  obtain ⟨current, last, count, profile⟩ := leaving_seq (b := b) (g := g) (s := s)
  obtain ⟨quiet, now, queue, force, waits, session, state, named, asked, result, number⟩ := released_spec waiting
  have steady : s.Quiet (v.released b) := leaving_quiet.trans quiet
  have opened : v.sessions.get b = s.sessions.get b := by
    refine congrArg (PerBerth.get · b) ((enterState_sessions b .deEnergising _).trans (enteredSessions_other b _ _ ?_))
    rw [makeCurrent, State.updSeq_self]
    exact fun shore => nomatch tripped.symm.trans shore
  have completes : (v.seq.get b).Completes .done none ((deEnergised b v).seq.get b) :=
    idles_completes asked result number (.refl b _)
  obtain ⟨ended, told⟩ := completes
  rw [current] at told
  obtain ⟨is, counted⟩ := told
  rw [takeDisconnect_done zero]
  refine ⟨?_, ended, counted.trans (congrArg (· + 1) count), is, ?_, fun m => ?_⟩
  · refine idles_of .done none (only.toSameStation.trans (deEnergised_same b v)) ?_ (now.trans only.now)
      (force.trans (by rw [only.params])) (waits.trans (by rw [only.pendingParams])) (.refl b _)
    rw [deEnergised_eq, (completeCurrent_only b _ _ _).claims, enterIdle_claims]
    exact queue
  · have jour := closed_jour_released (state.trans leaving_stands.state)
    rw [named, profile, steady.clock] at jour
    exact (idles_jour .done none).trans (jour.trans (produceReleased_jour steady (session.trans opened) _ _ _))
  · rw [deEnergised_eq, completeCurrent_mods, enterIdle_serves]
    exact released_none waiting m

end

end Sys2Proof.Machine
end

section
/-! Proofs: CLEAR rejoins the blocked modules (R14, R118), and the other requests. -/

namespace Sys2Proof.Machine

/-! ## What a try of the pool gives an active berth (R10, R13) -/

/-- Berth `b` keeps its context and its modules, and those that come to it join in its mode. -/
structure State.Recruits (b : Berth) (s t : State) : Prop where
  seq : t.seq.get b = s.seq.get b
  osc : t.osc.get b = s.osc.get b
  inputs : s.SameInputs t
  kept : ∀ m, (s.mods.get m).serves b = true → t.mods.get m = s.mods.get m
  joined : ∀ m, (s.mods.get m).serves b = false → (t.mods.get m).serves b = true →
    (t.mods.get m).standing = .assigned b .joining ∧ (t.mods.get m).mode = (s.seq.get b).state.moduleMode

namespace State.Recruits

variable {b : Berth} {s t u : State}

theorem refl (b : Berth) (s : State) : s.Recruits b s :=
  ⟨rfl, rfl, .refl s, fun _ _ => rfl, fun _ before after => nomatch before.symm.trans after⟩

theorem trans (h : s.Recruits b t) (k : t.Recruits b u) : s.Recruits b u where
  seq := k.seq.trans h.seq
  osc := k.osc.trans h.osc
  inputs := h.inputs.trans k.inputs
  kept m before := (k.kept m (by rw [h.kept m before]; exact before)).trans (h.kept m before)
  joined m before after := by
    cases mid : (t.mods.get m).serves b with
    | true =>
      rw [k.kept m mid]
      exact h.joined m before mid
    | false =>
      rw [← h.seq]
      exact k.joined m mid after

theorem of_keeps (h : s.KeepsBerth b t) (inputs : s.SameInputs t) : s.Recruits b t :=
  ⟨h.seq, h.osc, inputs, fun m before => h.mods m (.inl before), fun m before after => by
    rw [h.mods m (.inr after), before] at after
    cases after⟩

end State.Recruits

theorem State.ModsOnly.inputs {s t : State} (h : s.ModsOnly t) : s.SameInputs t := by
  rw [h]
  exact ⟨rfl, rfl, rfl, rfl⟩

theorem enterJoining_recruits {b : Berth} {m : ModuleId} {s : State} (free : (s.mods.get m).standing = .available) :
    s.Recruits b (enterJoining b m s) := by
  have only := enterJoining_modsOnly b m s
  have taken := enterJoining_taken b m s
  refine ⟨by rw [only], by rw [only], only.inputs, fun k before => enterJoining_other b m k s ?_, fun k before after => ?_⟩
  · rintro rfl
    rw [not_serves_of_available free] at before
    cases before
  · by_cases same : k = m
    · subst same
      exact ⟨taken.standing, taken.mode⟩
    · rw [enterJoining_other b m k s same, before] at after
      cases after

theorem replaceWith_recruits (b c : Berth) (m : ModuleId) (s : State) : s.Recruits b (replaceWith c m s) := by
  by_cases same : c = b
  · subst same
    rw [replaceWith_eq]
    split
    next given => exact enterJoining_recruits (isCandidate_available given.2)
    next => exact .refl c s
  · exact .of_keeps (replaceWith_keeps same m s) (replaceWith_modsOnly c m s).inputs

theorem forModules_recruits {b : Berth} {f : ModuleId → State → State} (h : ∀ m (s : State), s.Recruits b (f m s))
    (s : State) : s.Recruits b (forModules f s) :=
  (((((((h .m0 _).trans (h .m1 _)).trans (h .m2 _)).trans (h .m3 _)).trans (h .m4 _)).trans (h .m5 _)).trans
    (h .m6 _)).trans (h .m7 _)

theorem tryPool_recruits {b : Berth} {s : State} (claims : ∀ c ∈ s.claims, c.berth ≠ b) : s.Recruits b (tryPool s) := by
  have serve (c : Berth) (s : State) : s.Recruits b (serveNeed c s) := forModules_recruits (replaceWith_recruits b c) s
  let u := serveNeed .b2 (serveNeed .b1 (serveNeed .b0 s))
  have needs : s.Recruits b u := ((serve .b0 s).trans (serve .b1 _)).trans (serve .b2 _)
  have queue : u.claims = s.claims := by
    rw [show u = _ from ((serveNeed_modsOnly .b0 s).trans (serveNeed_modsOnly .b1 _)).trans (serveNeed_modsOnly .b2 _)]
  rw [tryPool_eq]
  exact needs.trans (.of_keeps (serveClaims_keeps _ u (by rw [queue]; exact claims)) (serveClaims_inputs _ u))

theorem healthy_eq_of {b : Berth} {s t : State} (h : ∀ m, t.mods.get m = s.mods.get m ∨
    (s.mods.get m).healthyFor b = false ∧ (t.mods.get m).healthyFor b = false) : t.healthy b = s.healthy b := by
  unfold State.healthy
  rw [sumRatings_eq, sumRatings_eq]
  refine congrArg List.sum (List.map_congr_left fun m _ => ?_)
  rcases h m with same | ⟨before, after⟩
  · rw [same]
  · rw [before, after]
    rfl

/-- Modules that join are not healthy yet. -/
theorem State.Recruits.healthy {b : Berth} {s t : State} (h : s.Recruits b t) : t.healthy b = s.healthy b := by
  refine healthy_eq_of fun m => ?_
  cases before : (s.mods.get m).serves b with
  | true => exact .inl (h.kept m before)
  | false =>
    refine .inr ⟨not_healthyFor fun running => ?_, not_healthyFor fun running => ?_⟩
    · exact nomatch before.symm.trans (serves_of_assigned running)
    · exact nomatch (h.joined m before (serves_of_assigned running)).1.symm.trans running

/-- A berth still stands in a state whose modules a try of the pool has filled up. -/
theorem State.Stands.recruits {b : Berth} {new : BerthState} {s t t' : State} (h : s.Stands b new t)
    (k : t.Recruits b t') (serves : ∀ m, (s.mods.get m).serves b = true → (t.mods.get m).serves b = true) : s.Stands b new t' := by
  refine h.after k.inputs ⟨_, _, _, _, k.seq⟩ k.osc (fun _ => k.healthy) (fun m at_ => ?_)
    fun m before _ => ?_
  · cases mid : (t.mods.get m).serves b with
    | true =>
      rw [k.kept m mid] at at_ ⊢
      exact h.modules m at_
    | false =>
      rw [← h.state]
      exact (k.joined m mid (at_.elim serves_of_assigned serves_of_assigned)).2
  · have mid := serves m before
    rw [k.kept m mid]
    exact ⟨mid, rfl, rfl, rfl⟩

/-! ## Blocked modules rejoin (R14) -/

theorem unblockModules_get (b : Berth) (s : State) (m : ModuleId) : (unblockModules b s).mods.get m =
    if (s.mods.get m).standing = .assigned b .blockedByBerth then
      refreshed s { s.mods.get m with standing := .assigned b .joining, staleTimer := .running 100000 }
    else s.mods.get m :=
  forModules_get
    (h := fun s _ r =>
      if r.standing = .assigned b .blockedByBerth then
        refreshed s { r with standing := .assigned b .joining, staleTimer := .running 100000 }
      else r)
    (fun m s => by
      by_cases blocked : (s.mods.get m).standing = .assigned b .blockedByBerth
      · rw [if_pos blocked]
        unfold enterJoining
        rw [refreshMode_updMod]
        simp only [State.updMod, blocked, if_true]
        rfl
      · rw [if_neg blocked, State.updMod_id]
        simp only [blocked, if_false])
    (fun _ _ => rfl) s m

/-- R14, R118: a berth that leaves TRIPPED, before the pool is tried. -/
def State.unblocked (b : Berth) (s : State) : State := unblockModules b (enterState b .energising s)

theorem rejoin_eq (b : Berth) (s : State) : rejoin b s = tryIfNeeded b (s.unblocked b) := rfl

section
variable {b : Berth} {s : State}

theorem unblocked_modsOnly : (enterState b .energising s).ModsOnly (s.unblocked b) := unblockModules_modsOnly b _

theorem unblocked_seq : (s.unblocked b).seq.get b = enteredSeq b .energising s := by
  rw [unblocked_modsOnly, enterState_seq]
  exact PerBerth.get_set_self ..

/-- A module that stays where it is, or joins where it was blocked. -/
theorem unblocked_get (m : ModuleId) :
    (s.mods.get m).standing ≠ .assigned b .blockedByBerth ∧
        (s.unblocked b).mods.get m = (enterState b .energising s).mods.get m ∨
      (s.mods.get m).standing = .assigned b .blockedByBerth ∧
        ((s.unblocked b).mods.get m).standing = .assigned b .joining ∧ ((s.unblocked b).mods.get m).mode = .form ∧
        (((enterState b .energising s).mods.get m).mode = .blocked →
          ((s.unblocked b).mods.get m).blankExpiry = blankedUntil s.now s.prot.blankingMs
            ((enterState b .energising s).mods.get m).blankExpiry) := by
  have only := enterState_only b .energising s
  have standing := enterState_standing b .energising s m
  have get := unblockModules_get b (enterState b .energising s) m
  by_cases blocked : (s.mods.get m).standing = .assigned b .blockedByBerth
  · rw [if_pos (standing.trans blocked), refreshed_eq, only.now, only.prot] at get
    have mode : (enterState b .energising s).commandedMode (.assigned b .joining) = .form :=
      congrArg BerthState.moduleMode (enterState_state b .energising s)
    refine .inr ⟨blocked, ?_, ?_, fun before => ?_⟩
    · exact congrArg Module.standing get
    · exact (congrArg Module.mode get).trans mode
    · refine (congrArg Module.blankExpiry get).trans (if_neg fun same => ?_)
      rw [mode] at same
      exact nomatch before.symm.trans same
  · rw [if_neg (by rw [standing]; exact blocked)] at get
    exact .inl ⟨blocked, get⟩

theorem unblocked_serves (m : ModuleId) (serves : (s.mods.get m).serves b = true) :
    ((s.unblocked b).mods.get m).serves b = true := by
  rcases unblocked_get (b := b) (s := s) m with ⟨-, same⟩ | ⟨-, joined, -⟩
  · rw [same, enterState_serves]
    exact serves
  · exact serves_of_assigned joined

theorem unblocked_healthy : (s.unblocked b).healthy b = (enterState b .energising s).healthy b := by
  refine healthy_eq_of fun m => ?_
  have standing := enterState_standing b .energising s m
  rcases unblocked_get (b := b) (s := s) m with ⟨-, same⟩ | ⟨blocked, joined, -⟩
  · exact .inl same
  · refine .inr ⟨not_healthyFor fun running => ?_, not_healthyFor fun running => nomatch joined.symm.trans running⟩
    exact nomatch (standing.trans blocked).symm.trans running

theorem unblocked_stands : s.Stands b .energising (s.unblocked b) := by
  have h := enterState_stands b .energising s
  have e : s.unblocked b = { enterState b .energising s with mods := (s.unblocked b).mods } := unblocked_modsOnly
  have modules (m : ModuleId) (at_ : ((s.unblocked b).mods.get m).standing = .assigned b .joining ∨
      ((s.unblocked b).mods.get m).standing = .assigned b .running) : ((s.unblocked b).mods.get m).mode = .form := by
    rcases unblocked_get (b := b) (s := s) m with ⟨-, same⟩ | ⟨-, -, form, -⟩
    · rw [same] at at_ ⊢
      exact h.modules m at_
    · exact form
  have blanking : s.ModesOk → s.BlanksModules b (s.unblocked b) := fun ok m before after => by
    have dir : ((s.unblocked b).seq.get b).dir = ((enterState b .energising s).seq.get b).dir := by rw [unblocked_modsOnly]
    have blanked := enterState_blanks b .energising s m before ((enterState_serves b b _ s m).trans before)
    unfold State.Blanked at blanked ⊢
    rw [dir]
    rcases unblocked_get (b := b) (s := s) m with ⟨-, same⟩ | ⟨blocked, -, form, expiry⟩
    · rw [same]
      exact blanked
    · have was : (s.mods.get m).mode = .blocked := by rw [ok m, blocked]; rfl
      have still : ((enterState b .energising s).mods.get m).mode = .blocked := by
        rw [(enterState_mode b .energising s m).2 before, blocked]; rfl
      rw [if_pos (.inl (by rw [form, was]; nofun)), expiry still, blanked]
      split
      · exact blankedUntil_idem ..
      · rfl
  have overload : (s.unblocked b).overloadAfter b .stopped = (enterState b .energising s).overloadAfter b .stopped := by
    have inputs := (unblocked_modsOnly (b := b) (s := s)).inputs
    unfold State.overloadAfter State.overloaded State.feederPower State.feederFresh
    rw [unblocked_healthy, inputs.meas, inputs.prot]
  rw [e] at modules blanking overload ⊢
  exact
    { state := h.state, entry := h.entry, volt := h.volt, setpoint := h.setpoint, level := h.level
      direction := h.direction, staleHold := h.staleHold, lostHold := h.lostHold, energise := h.energise
      syncT := h.syncT, parallel := h.parallel, overload := by rw [overload]; exact h.overload
      reverse := h.reverse, osc := h.osc, mode := h.mode, modules := modules, blanking := blanking }

theorem rejoin_recruits (claims : ∀ c ∈ s.claims, c.berth ≠ b) : (s.unblocked b).Recruits b (rejoin b s) := by
  have queue : (s.unblocked b).claims = s.claims := by
    rw [unblocked_modsOnly]
    exact (enterState_only b .energising s).claims
  rw [rejoin_eq]
  unfold tryIfNeeded
  split
  · exact tryPool_recruits (by rw [queue]; exact claims)
  · exact .refl b _

theorem rejoin_stands (claims : ∀ c ∈ s.claims, c.berth ≠ b) : s.Stands b .energising (rejoin b s) :=
  unblocked_stands.recruits (rejoin_recruits claims) unblocked_serves

theorem rejoin_seq (claims : ∀ c ∈ s.claims, c.berth ≠ b) :
    (rejoin b s).seq.get b = enteredSeq b .energising s := (rejoin_recruits claims).seq.trans unblocked_seq

theorem rejoin_joined (claims : ∀ c ∈ s.claims, c.berth ≠ b) {m : ModuleId}
    (blocked : (s.mods.get m).standing = .assigned b .blockedByBerth) :
    ((rejoin b s).mods.get m).standing = .assigned b .joining ∧ ((rejoin b s).mods.get m).mode = .form := by
  rcases unblocked_get (b := b) (s := s) m with ⟨other, -⟩ | ⟨-, joined, form, -⟩
  · exact absurd blocked other
  · rw [(rejoin_recruits claims).kept m (serves_of_assigned joined)]
    exact ⟨joined, form⟩

end

/-- R118: a berth whose CLEAR has been accepted. -/
def State.clearing (b : Berth) (g : BitVec 16) (s : State) : State :=
  (makeCurrent b .clear g s).updSeq b fun q => { q with tripCause := none }

theorem clearing_seq (b : Berth) (g : BitVec 16) (s : State) : (s.clearing b g).seq.get b =
    { s.seq.get b with current := some { kind := .clear, tag := g }, tripCause := none } := by
  unfold State.clearing makeCurrent
  rw [State.updSeq_self, State.updSeq_self]

theorem stands_of_clearing {b : Berth} {g : BitVec 16} {new : BerthState} {s t : State}
    (h : (s.clearing b g).Stands b new t) : s.Stands b new t :=
  stands_of_makeCurrent (h.ofCauses ⟨_, _, rfl⟩)

theorem watching_quiet {b : Berth} {g : BitVec 16} {s : State} : s.Quiet (s.watching b g) := by
  have entered := (quiet_of (s := s) (t := makeCurrent b .sync g s) rfl rfl rfl).trans (enterState_quiet b .matching _)
  exact entered.trans (quiet_of (s := enterState b .matching (makeCurrent b .sync g s)) (t := s.watching b g) rfl rfl rfl)

/-- A berth that enters IDLE after the words of a request. -/
theorem idles_of_shadowed {b : Berth} {sh : List Word} {s t : State} (h : (s.shadowed b sh).Idles b t) : s.Idles b t := by
  obtain ⟨state, entry, profile, setpoint, volt, cause, osc, session, claims, params, pending, same⟩ := h
  exact ⟨state, entry, profile, setpoint, volt, cause, osc, session, claims, params, pending,
    (shadowed_only b sh s).toSameStation.trans same⟩

/-- Settles O47. -/
theorem requestsMoveSequencer : Obligations.RequestsMoveSequencer := by
  intro b e tag rest s ⟨opened, short, present, free⟩
  have accepted {c : Instr} {k : BitVec 8} {r : RequestKind} (names : request? c = some (b, k, tag, rest))
      (kind : RequestKind.ofCode? k.toNat = some r) (accepts : s.accepts b r = true) : ∃ sh,
      exec c s = .next (passOn (requestItem e k tag rest) (takeAccepted b tag r (s.shadowed b sh))) := by
    obtain ⟨sh, runs, -⟩ := exec_accepted opened short present (.inl free) names kind accepts
    exact ⟨sh, runs⟩
  refine ⟨fun state => ?_, fun state => ?_, fun state => ?_, fun state volt => ?_, fun state zero claims => ?_,
    fun state profile view line claims => ?_⟩
  · obtain ⟨sh, runs⟩ := accepted (c := .sync b tag rest) (k := 2) (r := .sync) rfl rfl
      (by unfold State.accepts; rw [state])
    let u := s.shadowed b sh
    let v := u.watching b tag
    have first : u.Stands b .matching v := watching_stands
    have sync : v.sync.get b = { s.sync.get b with closeUsed := false, prediction := none, closeDue := .stopped } :=
      watching_sync (s := u) ((shadowed_state b sh s b).trans state)
    have seq : v.seq.get b = enteredSeq b .matching (makeCurrent b .sync tag u) := watching_seq
    obtain ⟨inputs, same, window, osc, -, current, timer, used, count⟩ := evaluate_settled (v := v) first.state watching_asked
    refine ⟨takeSync b tag u, runs, (shadowed_only b sh s).trans (takeSync_only b tag u), window.trans same.symm,
      fun holds => ?_, fun fails => ?_, fun run => ?_, inputs.meas.trans (watching_inputs (b := b) (t := tag) (s := u)).meas,
      ?_, current.trans ?_, timer.trans ?_, used.trans ?_, count.trans ?_⟩
    · obtain ⟨stands, predicted⟩ := takeSync_armed (s := u) (same ▸ holds)
      exact ⟨stands_of_shadowed stands, predicted⟩
    · have e : takeSync b tag u = v.updSync b fun y => { y with window := v.evalWindow b } :=
        evaluate_matching first.state (same ▸ fails)
      rw [e, State.updSync_self, sync]
      exact ⟨stands_of_shadowed (first.after ⟨rfl, rfl, rfl, rfl⟩ ⟨_, _, _, _, rfl⟩ rfl (fun _ => rfl) first.modules
        fun _ _ k => ⟨k, rfl, rfl, rfl⟩), rfl⟩
    · have runs : (v.osc.get b).running = true := (watching_osc (b := b) (t := tag) (s := u)).symm.trans run
      rw [show (takeSync b tag u).osc.get b = v.osc.get b from osc]
      exact ⟨runs, first.mode .trackSlip rfl runs⟩
    · exact (((shadowed_quiet b sh s).trans watching_quiet).trans (evaluate_quiet b v)).jour
    · rw [seq, enteredSeq_current, makeCurrent, State.updSeq_self]
    · rw [seq]
      show syncOnEntry _ ((makeCurrent b .sync tag u).seq.get b).state .matching _ = _
      rw [makeCurrent, State.updSeq_self]
      exact if_neg (by rw [shadowed_state, state]; nofun)
    · rw [sync]
    · rw [sync]
  · obtain ⟨sh, runs⟩ := accepted (c := .gensOff b tag rest) (k := 3) (r := .gensOff) rfl rfl
      (by unfold State.accepts; rw [state])
    obtain ⟨stands, current, count, last, jour⟩ := takeGensOff_spec (b := b) (g := tag) (s := s.shadowed b sh)
      (by rw [shadowed_seq]; exact free)
    rw [shadowed_seq] at count
    exact ⟨_, runs, (shadowed_only b sh s).trans (takeGensOff_only b tag _), stands_of_shadowed stands, current, count,
      last, jour.trans (emitEvent_jour (shadowed_quiet b sh s) ..)⟩
  · obtain ⟨sh, runs⟩ := accepted (c := .gensOn b tag rest) (k := 4) (r := .gensOn) rfl rfl
      (by unfold State.accepts; rw [state])
    obtain ⟨stands, current, parallel, target, setpoint, sessions⟩ := takeGensOn_spec (b := b) (g := tag)
      ((shadowed_state b sh s b).trans state)
    have seen := stands_of_shadowed stands
    have bound : (s.shadowed b sh).bound b = s.bound b := by
      unfold State.bound State.demand
      rw [shadowed_seq]
      rfl
    rw [bound] at setpoint
    exact ⟨_, runs, (shadowed_only b sh s).trans (takeGensOn_only b tag _), seen, current, parallel, target, setpoint,
      staleHold_parallelOut seen, dir_parallelOut seen, sessions⟩
  · obtain ⟨sh, runs⟩ := accepted (c := .disconnect b tag rest) (k := 6) (r := .disconnect) rfl rfl
      (by unfold State.accepts; rw [state])
    have falls : takeAccepted b tag .disconnect (s.shadowed b sh) = (s.shadowed b sh).leaving b tag :=
      takeDisconnect_falls (by rw [shadowed_seq]; exact volt)
    rw [falls] at runs
    have stands : s.Stands b .deEnergising ((s.shadowed b sh).leaving b tag) := stands_of_shadowed leaving_stands
    exact ⟨_, runs, (shadowed_only b sh s).trans leaving_only, stands, stands.volt.trans (if_neg volt), leaving_seq.1⟩
  · obtain ⟨sh, runs⟩ := accepted (c := .disconnect b tag rest) (k := 6) (r := .disconnect) rfl rfl
      (by unfold State.accepts; rw [state])
    obtain ⟨idles, current, count, last, jour, none⟩ := takeDisconnect_idles (b := b) (g := tag) (s := s.shadowed b sh)
      ((shadowed_state b sh s b).trans state) (by rw [shadowed_seq]; exact zero) claims
    rw [shadowed_seq] at count jour
    exact ⟨_, runs, idles_of_shadowed idles, current, count, last,
      jour.trans (produceReleased_jour (shadowed_quiet b sh s) rfl _ _ _), none⟩
  · obtain ⟨sh, runs⟩ := accepted (c := .clear b tag rest) (k := 7) (r := .clear) rfl rfl
      (by unfold State.accepts; rw [state, profile, view, line]; rfl)
    let u := s.shadowed b sh
    let v := u.clearing b tag
    have stands : s.Stands b .energising (rejoin b v) := stands_of_shadowed (stands_of_clearing (rejoin_stands (s := v) claims))
    have seq : (rejoin b v).seq.get b = enteredSeq b .energising v := rejoin_seq (s := v) claims
    have own : v.seq.get b = { s.seq.get b with
        shadow := sh, current := some { kind := .clear, tag := tag }, tripCause := none } := by
      rw [show v.seq.get b = _ from clearing_seq b tag u, shadowed_seq]
    refine ⟨rejoin b v, runs, ?_, stands, ?_, ?_, ?_, stands.volt, ?_, fun m blocked => rejoin_joined (s := v) claims blocked⟩
    · exact (shadowed_only b sh s).toSameStation.trans (((makeCurrent_only b .clear tag u).trans
        (updSeq_only b _ _)).toSameStation.trans (rejoin_same b v))
    · rw [seq, enteredSeq_current, own]
    · rw [seq, enteredSeq_tripCause, own]
    · rw [seq, enteredSeq_profile, own]
    · rw [seq]; rfl

end Sys2Proof.Machine
end

section
/-! Proofs: an accepted ABORT overtakes the request in progress (R113). -/

namespace Sys2Proof.Machine

/-- The requests that have ended once the one in progress, if there is one, has ended. -/
theorem completeCurrent_count (b : Berth) (o : ReqOutcome) (c : Option Cause) (s : State) :
    ((completeCurrent b o c s).seq.get b).count =
      (s.seq.get b).count + (if (s.seq.get b).current.isSome = true then 1 else 0) := by
  obtain ⟨ends, -⟩ := completeCurrent_seq b o c s
  obtain ⟨-, told⟩ := ends
  cases asked : (s.seq.get b).current with
  | none =>
    rw [asked] at told
    exact told.2.trans (BitVec.add_zero _).symm
  | some r =>
    rw [asked] at told
    exact told.2

/-- R101, R113: the berth whose request in progress an ABORT has overtaken. -/
def State.overtaken (b : Berth) (s : State) : State := completeCurrent b .aborted (some .abort) s

section
variable {b : Berth} {s t : State}

theorem overtaken_seq (b : Berth) (s : State) : ∃ l n, (s.overtaken b).seq.get b =
    { s.seq.get b with current := none, last := l, count := n } := (completeCurrent_seq b _ _ s).2

theorem overtaken_rest (b : Berth) (s : State) : ∃ x p, s.overtaken b =
    { s with seq := s.seq.set b x, page := { s.page with summary := p } } := by
  obtain ⟨x, p, e, -⟩ := completeCurrent_spec b .aborted (some .abort) s
  exact ⟨x, p, e⟩

theorem overtaken_state (b c : Berth) (s : State) : ((s.overtaken b).seq.get c).state = (s.seq.get c).state := by
  obtain ⟨l, n, seq⟩ := overtaken_seq b s
  by_cases same : c = b
  · rw [same, seq]
  · exact congrArg Seq.state ((completeCurrent_only b _ _ s).seq c same)

theorem stands_of_overtaken {new : BerthState} (h : (s.overtaken b).Stands b new t) : s.Stands b new t := by
  obtain ⟨l, n, seq⟩ := overtaken_seq b s
  obtain ⟨x, p, e⟩ := overtaken_rest b s
  refine h.of_context (overtaken_state b · s) ?_ ?_ ?_ ?_ ?_ ?_ ?_ ?_ ?_ ?_
  iterate 4 rw [seq]
  iterate 6 rw [e] <;> rfl

/-- R113: what an ABORT comes to once its effect is known. -/
theorem takeAbort_done {g : BitVec 16} (free : (t.seq.get b).current = none)
    (count : (t.seq.get b).count = ((s.overtaken b).seq.get b).count) (effect : abortEffect b (s.overtaken b) = t) :
    takeAbort b g s = writeResult b 5 g .done none ((s.seq.get b).current.map (·.tag)) t ∧
      ((takeAbort b g s).seq.get b).current = none ∧
      ((takeAbort b g s).seq.get b).last =
        { kind := 5, tag := g, outcome := .done, cause := none
          overtaken := (s.seq.get b).current.map (·.tag) } ∧
      ((takeAbort b g s).seq.get b).count =
        (s.seq.get b).count + (if (s.seq.get b).current.isSome = true then 2 else 1) ∧
      (takeAbort b g s).summaryBit (.requestDone b) = true := by
  have e : takeAbort b g s = writeResult b 5 g .done none ((s.seq.get b).current.map (·.tag)) t := by
    rw [← effect]; rfl
  rw [e]
  refine ⟨rfl, ?_, ?_, ?_, setSummary_bit ..⟩
  · rw [writeResult_seq]
    exact free
  · rw [writeResult_seq]
  · rw [writeResult_seq]
    refine (congrArg (· + 1) (count.trans (completeCurrent_count b _ _ s))).trans ?_
    split <;> rw [BitVec.add_assoc] <;> rfl

/-- R113: an ABORT in MATCHING, ARMED or PARALLEL_IN enters one state. -/
theorem abortEffect_enters {new : BerthState} (h : (s.seq.get b).state = .matching ∧ new = .energised ∨
    (s.seq.get b).state = .armed ∧ new = .energised ∨ (s.seq.get b).state = .parallelIn ∧ new = .parallelOut) :
    abortEffect b (s.overtaken b) = enterState b new (s.overtaken b) := by
  have state := overtaken_state b b s
  unfold abortEffect
  rcases h with ⟨at_, rfl⟩ | ⟨at_, rfl⟩ | ⟨at_, rfl⟩ <;> rw [state, at_]

theorem overtaken_entered (b : Berth) (new : BerthState) (s : State) :
    ((enterState b new (s.overtaken b)).seq.get b).current = none ∧
      ((enterState b new (s.overtaken b)).seq.get b).count = ((s.overtaken b).seq.get b).count := by
  obtain ⟨l, n, seq⟩ := overtaken_seq b s
  rw [enterState_seq, PerBerth.get_set_self, enteredSeq_current, enteredSeq_count, seq]
  exact ⟨rfl, rfl⟩

theorem completeCurrent_free (o : ReqOutcome) (c : Option Cause) (h : (s.seq.get b).current = none) :
    completeCurrent b o c s = s := by
  unfold completeCurrent
  rw [h]

theorem idles_of_overtaken (h : (s.overtaken b).Idles b t) : s.Idles b t := by
  obtain ⟨state, entry, profile, setpoint, volt, cause, osc, session, claims, params, pending, same⟩ := h
  have only := completeCurrent_only b .aborted (some .abort) s
  have force : (s.overtaken b).params = s.params := only.params
  have waits : (s.overtaken b).pendingParams = s.pendingParams := only.pendingParams
  rw [force, waits] at params
  exact ⟨state, entry.trans only.now, profile, setpoint, volt, cause, osc, session, claims, params, pending,
    only.toSameStation.trans same⟩

theorem idles_writeResult (h : s.Idles b t) (k : BitVec 8) (g : BitVec 16) (o : ReqOutcome) (c : Option Cause)
    (v : Option (BitVec 16)) : s.Idles b (writeResult b k g o c v t) := by
  obtain ⟨state, entry, profile, setpoint, volt, cause, osc, session, claims, params, pending, same⟩ := h
  have seq := writeResult_seq b k g o c v t
  refine ⟨?_, ?_, ?_, ?_, ?_, ?_, osc, session, claims, params, pending,
    same.trans (writeResult_only b k g o c v t).toSameStation⟩ <;> rw [seq] <;> assumption

/-- R113, R121: an ABORT in WAITING_MODULES. -/
def State.givenUp (b : Berth) (s : State) : State := tryIf (s.headClaim b) (enterIdle b (removeClaim b s))

theorem givenUp_keeps (b : Berth) (s : State) : (enterIdle b (removeClaim b s)).KeepsBerth b (s.givenUp b) := by
  refine tryIf_keeps (s.headClaim b) _ ?_ (congrArg BerthState.isActive (enterIdle_state b _))
  rw [enterIdle_claims]
  exact removeClaim_none b s

theorem givenUp_seq (b : Berth) (s : State) : ((s.givenUp b).seq.get b).current = (s.seq.get b).current ∧
    ((s.givenUp b).seq.get b).count = (s.seq.get b).count := by
  obtain ⟨seq, -⟩ := enterIdle_own b (removeClaim b s)
  obtain ⟨j, p, closed⟩ := closed_spec b (removeClaim b s)
  rw [(givenUp_keeps b s).seq, seq, closed]
  exact ⟨rfl, rfl⟩

theorem givenUp_idles (free : (s.seq.get b).current = none) : s.Idles b (s.givenUp b) := by
  have kept := givenUp_keeps b s
  have current : ((enterIdle b (removeClaim b s)).seq.get b).current = none := by
    rw [← kept.seq, (givenUp_seq b s).1, free]
  refine idles_of (u := removeClaim b s) .done none ?_ (fun c mem => ?_) rfl rfl rfl
    (by rw [completeCurrent_free .done none current]; exact kept)
  · exact ((removeClaim_same b s).trans (enterIdle_same b _)).trans (tryIf_same _ _)
  · have before := (tryIf_claims (s.headClaim b) _).subset mem
    rw [enterIdle_claims] at before
    exact removeClaim_none b s c before

end

/-- Settles O48. -/
theorem abortOvertakes : Obligations.AbortOvertakes := by
  intro b e tag rest s opened short present done
  have accepted (accepts : s.accepts b .abort = true) : ∃ sh, exec (.abort b tag rest) s =
      .next (passOn (requestItem e 5 tag rest) (takeAbort b tag (s.shadowed b sh))) := by
    obtain ⟨sh, runs, -⟩ := exec_accepted (c := .abort b tag rest) (k := 5) opened short present (.inr rfl) rfl rfl accepts
    exact ⟨sh, runs⟩
  have effected {sh : List Word} {t : State} (free : (t.seq.get b).current = none)
      (count : (t.seq.get b).count = (((s.shadowed b sh).overtaken b).seq.get b).count)
      (effect : abortEffect b ((s.shadowed b sh).overtaken b) = t) :
      takeAbort b tag (s.shadowed b sh) = writeResult b 5 tag .done none ((s.seq.get b).current.map (·.tag)) t ∧
        done (takeAbort b tag (s.shadowed b sh)) := by
    have ended := takeAbort_done (g := tag) free count effect
    rw [shadowed_seq] at ended
    exact ended
  have only {new : BerthState} (sh : List Word) (v : Option (BitVec 16)) : s.OnlyBerth b
      (writeResult b 5 tag .done none v (enterState b new ((s.shadowed b sh).overtaken b))) :=
    (((shadowed_only b sh s).trans (completeCurrent_only b _ _ _)).trans (enterState_only b new _)).trans
      (writeResult_only b _ _ _ _ _ _)
  have stands {new : BerthState} (sh : List Word) (v : Option (BitVec 16)) : s.Stands b new
      (writeResult b 5 tag .done none v (enterState b new ((s.shadowed b sh).overtaken b))) :=
    stands_of_shadowed (stands_of_overtaken (writeResult_stands (enterState_stands b new _) ..))
  refine ⟨fun state => ?_, fun state => ?_, fun state => ?_⟩
  · obtain ⟨sh, runs⟩ := accepted (by unfold State.accepts; rw [state])
    let v := (s.shadowed b sh).overtaken b
    obtain ⟨l, n, seq⟩ := overtaken_seq b (s.shadowed b sh)
    have free : (v.seq.get b).current = none := by rw [show v.seq.get b = _ from seq]
    obtain ⟨current, count⟩ := givenUp_seq b v
    have effect : abortEffect b v = v.givenUp b := by
      unfold abortEffect
      rw [overtaken_state, shadowed_state, state]
      rfl
    obtain ⟨is, ended⟩ := effected (current.trans free) count effect
    refine ⟨_, runs, ended, ?_⟩
    rw [is]
    exact idles_of_shadowed (idles_of_overtaken (idles_writeResult (givenUp_idles free) ..))
  · have watches : (s.seq.get b).state.isWatching = true := by rcases state with h | h <;> rw [h] <;> rfl
    obtain ⟨sh, runs⟩ := accepted (by unfold State.accepts; rcases state with h | h <;> rw [h])
    let v := (s.shadowed b sh).overtaken b
    have at_ : (v.seq.get b).state = (s.seq.get b).state := (overtaken_state b b _).trans (shadowed_state b sh s b)
    obtain ⟨current, count⟩ := overtaken_entered b .energised (s.shadowed b sh)
    obtain ⟨is, ended⟩ := effected current count (abortEffect_enters (by
      rw [shadowed_state]
      exact state.imp (⟨·, rfl⟩) fun armed => .inl ⟨armed, rfl⟩))
    have sync : ((enterState b .energised v).sync.get b).prediction = none ∧
        ((enterState b .energised v).sync.get b).closeDue = .stopped := by
      rw [enterState_sync, PerBerth.get_set_self, enteredSync_watch b .energised v (by rw [at_, watches]) rfl nofun]
      exact ⟨rfl, rfl⟩
    refine ⟨_, runs, ended, ?_⟩
    rw [is]
    exact ⟨only sh _, stands sh _, sync⟩
  · obtain ⟨sh, runs⟩ := accepted (by unfold State.accepts; rw [state])
    let v := (s.shadowed b sh).overtaken b
    obtain ⟨l, n, own⟩ := overtaken_seq b (s.shadowed b sh)
    obtain ⟨x, p, records⟩ := overtaken_rest b (s.shadowed b sh)
    obtain ⟨current, count⟩ := overtaken_entered b .parallelOut (s.shadowed b sh)
    obtain ⟨is, ended⟩ := effected current count (abortEffect_enters (.inr (.inr ⟨(shadowed_state b sh s b).trans state, rfl⟩)))
    have seen := stands (new := .parallelOut) sh ((s.seq.get b).current.map (·.tag))
    have seq : (enterState b .parallelOut v).seq.get b = enteredSeq b .parallelOut v := by
      rw [enterState_seq, PerBerth.get_set_self]
    rw [shadowed_seq] at own
    have bound : v.bound b = s.bound b := by
      have healthy : v.healthy b = s.healthy b := by rw [show v = _ from records]; rfl
      unfold State.bound State.demand
      rw [healthy, own]
    refine ⟨_, runs, ended, ?_⟩
    rw [is]
    refine ⟨only sh _, seen, ?_, ?_, staleHold_parallelOut seen, dir_parallelOut seen, ?_⟩
    · rw [writeResult_seq, seq]; rfl
    · rw [writeResult_seq, seq]
      show parallelOnEntry _ (v.seq.get b).state .parallelOut (v.seq.get b).parallel = _
      rw [own]
      exact if_pos state
    · have meas : v.meas = s.meas := by rw [show v = _ from records]; rfl
      rw [writeResult_seq, seq, ← bound, ← meas]
      rfl

end Sys2Proof.Machine
end

section
/-! Proofs: writes of the station page (R38, R169, R175 to R177). -/

namespace Sys2Proof.Machine

theorem takeStationWord_shadow {n : Nat} (h : n < 216) (v : Word) (s : State) :
    takeStationWord n v s = { s with page := { s.page with shadow := s.page.shadow.set n v } } := if_pos h

/-- R176: the words of substituted reads and the spare ones take nothing. -/
theorem takeStationWord_spare {n : Nat} (h : n = 217 ∨ 222 ≤ n ∧ n ≤ 226 ∨ 230 ≤ n ∧ n ≤ 251 ∨ 254 ≤ n) (v : Word) (s : State) :
    takeStationWord n v s = s := by
  unfold takeStationWord
  rw [if_neg (by omega)]
  split <;> first | omega | rfl

theorem takeStationWords_cons (n : Nat) (v : Word) (ws : List Word) (s : State) :
    takeStationWords (numbered n (v :: ws)) s = takeStationWords (numbered (n + 1) ws) (takeStationWord n v s) := rfl

theorem journalCommand_other {v : Word} (start : v ≠ 1) (stop : v ≠ 2) (reset : v ≠ 3) (s : State) : journalCommand v s = s := by
  unfold journalCommand
  split
  next h => exact absurd (BitVec.eq_of_toNat_eq h) start
  next h => exact absurd (BitVec.eq_of_toNat_eq h) stop
  next h => exact absurd (BitVec.eq_of_toNat_eq h) reset
  next => rfl

/-- R38: a MODULE_SERVICE word carries its index and its action. -/
theorem serviceWord_fields (i : BitVec 4) (a : BitVec 8) :
    (serviceWord i a).extractLsb' 0 4 = i ∧ (serviceWord i a).extractLsb' 8 8 = a := by
  have index (k : Nat) : (put 0 4 i.toNat).getLsbD k = i.getLsbD k := by
    unfold put
    rw [BitVec.getLsbD_ofNat, Nat.shiftLeft_zero, Nat.mod_eq_of_lt i.isLt, BitVec.testBit_toNat]
    by_cases small : k < 4
    · simp [small, show k < 32 by omega]
    · simp [BitVec.getLsbD_of_ge i k (by omega)]
  have action (k : Nat) (inside : k < 32) : (put 8 8 a.toNat).getLsbD k = (decide (8 ≤ k) && a.getLsbD (k - 8)) := by
    unfold put
    rw [BitVec.getLsbD_ofNat, Nat.testBit_shiftLeft, Nat.mod_eq_of_lt a.isLt, BitVec.testBit_toNat]
    simp [inside]
  constructor
  · refine BitVec.eq_of_getLsbD_eq fun k small => ?_
    unfold serviceWord
    rw [BitVec.getLsbD_extractLsb', BitVec.getLsbD_or, index, action _ (by omega)]
    simp [small, show ¬ 8 ≤ k by omega]
  · refine BitVec.eq_of_getLsbD_eq fun k small => ?_
    unfold serviceWord
    rw [BitVec.getLsbD_extractLsb', BitVec.getLsbD_or, index, action _ (by omega), BitVec.getLsbD_of_ge i _ (by omega)]
    simp [small]

theorem names_naming (x y : Section) (v : Word) : names (naming x v) y = (names v y || y == x) := by
  have bit : (BitVec.ofNat 32 (1 <<< x.bit)).getLsbD y.bit = (y == x) := by cases x <;> cases y <;> decide
  unfold names naming
  rw [BitVec.getLsbD_or, bit]

/-- Settles O49. -/
theorem stationPageWordsTaken : Obligations.StationPageWordsTaken := by
  intro s takes
  refine ⟨fun n ws some few inside => stationWrite_next s n ws takes some few inside, takeStationWords_cons,
    fun n v u => ⟨fun h => takeStationWord_shadow h v u, ?_, fun h => takeStationWord_spare h v u⟩,
    fun v => ⟨rfl, rfl, rfl, rfl, rfl, rfl, rfl⟩,
    ⟨rfl, rfl, rfl, fun v u start stop reset => journalCommand_other start stop reset u⟩,
    fun i a => ⟨rfl, rfl, rfl, rfl, rfl, fun v u index action => ?_⟩, fun x v => ⟨rfl, fun y => names_naming x y v⟩,
    fun c m commits => ?_⟩
  · rintro rfl
    rfl
  · obtain ⟨idx, act⟩ := serviceWord_fields i a
    show serviceWrite v u = serviceWrite (serviceWord i a) u
    unfold serviceWrite
    rw [index, action, idx, act]
  · cases c <;> cases commits <;> rfl

end Sys2Proof.Machine
end

section
/-! Proofs: the heartbeat, and the loss of the supervisor (R120, R186). -/

namespace Sys2Proof.Machine

/-! ## Operations of the other berths -/

/-- Nothing of berth `b` changes, nor what its sequencer reads. -/
structure State.Passes (b : Berth) (s t : State) : Prop where
  berth : s.KeepsBerth b t
  inputs : s.SameInputs t

namespace State.Passes

variable {b : Berth} {s t u v : State}

theorem refl (b : Berth) (s : State) : s.Passes b s := ⟨.refl b s, .refl s⟩

theorem trans (h : s.Passes b t) (k : t.Passes b u) : s.Passes b u := ⟨h.berth.trans k.berth, h.inputs.trans k.inputs⟩

/-- An operation of another berth that moves no module. -/
theorem of_only {c : Berth} (ne : c ≠ b) (only : s.OnlyBerth c t) (meas : t.meas = s.meas)
    (standing : ∀ m, (t.mods.get m).standing = (s.mods.get m).standing) : s.Passes b t := by
  refine ⟨only.keeps ne fun m serves => serves_unique (b := b) ?_ ne, meas, only.params, only.prot, only.now⟩
  refine serves.elim id fun after => ?_
  unfold Module.serves at after ⊢
  rw [← standing m]
  exact after

theorem serves (h : s.Passes b t) (m : ModuleId) : (t.mods.get m).serves b = (s.mods.get m).serves b := by
  cases before : (s.mods.get m).serves b with
  | true => rw [h.berth.mods m (.inl before), before]
  | false =>
    refine Bool.eq_false_iff.mpr fun after => ?_
    rw [h.berth.mods m (.inr after), before] at after
    cases after

theorem healthy (h : s.Passes b t) : t.healthy b = s.healthy b := by
  refine healthy_eq_of fun m => ?_
  cases before : (s.mods.get m).serves b with
  | true => exact .inl (h.berth.mods m (.inl before))
  | false =>
    have away (r : Module) (none : r.serves b = false) : r.healthyFor b = false :=
      not_healthyFor fun running => nomatch none.symm.trans (serves_of_assigned running)
    exact .inr ⟨away _ before, away _ ((h.serves m).trans before)⟩

theorem blanks (h : s.Passes b u) (mid : u.BlanksModules b v) (k : v.Passes b t) : s.BlanksModules b t := by
  intro m before after
  have first := h.berth.mods m (.inl before)
  have last := k.berth.mods m (.inr after)
  have blanked := mid m (by rw [first]; exact before) (by rw [← last]; exact after)
  unfold State.Blanked at blanked ⊢
  rw [last, k.berth.seq, ← first, ← h.berth.seq, ← h.inputs.now, ← h.inputs.prot]
  exact blanked

/-- Seen from before what other berths did. -/
theorem stands {new : BerthState} (h : s.Passes b u) (k : u.Stands b new t) (mid : u.BlanksModules b t)
    (away : new ≠ .parallelIn) : s.Stands b new t where
  state := k.state
  entry := k.entry.trans h.inputs.now
  volt := by rw [← h.berth.seq]; exact k.volt
  setpoint := k.setpoint
  level := k.level
  direction := k.direction
  staleHold := by
    have fresh : u.feederFresh b = s.feederFresh b := by unfold State.feederFresh; rw [h.inputs.meas]
    rw [← h.berth.seq, ← fresh]
    exact k.staleHold
  lostHold := by
    have other : (new == BerthState.parallelIn) = false := beq_eq_false_iff_ne.mpr away
    have kept := k.lostHold
    rw [other, Bool.false_and] at kept ⊢
    rw [← h.berth.seq]
    exact kept
  energise := k.energise
  syncT := k.syncT
  parallel := k.parallel
  overload := k.overload
  reverse := k.reverse
  osc := by rw [← h.berth.osc]; exact k.osc
  mode := k.mode
  modules := k.modules
  blanking _ := h.blanks mid (.refl b t)

/-- Only the journal and the station page have changed. -/
theorem of_page {j : Journal} {p : Page} (h : t = { s with jour := j, page := p }) : s.Passes b t := by
  rw [h]
  exact ⟨⟨rfl, rfl, rfl, rfl, rfl, rfl, rfl, fun _ _ => rfl⟩, rfl, rfl, rfl, rfl⟩

end State.Passes

/-- What other berths do afterwards leaves a berth standing. -/
theorem State.Stands.passes {b : Berth} {new : BerthState} {s t t' : State} (h : s.Stands b new t) (k : t.Passes b t') :
    s.Stands b new t' := by
  refine h.after k.inputs ⟨_, _, _, _, k.berth.seq⟩ k.berth.osc (fun _ => k.healthy) (fun m at_ => ?_) fun m _ after => ?_
  · have same := k.berth.mods m (.inr (at_.elim serves_of_assigned serves_of_assigned))
    rw [same] at at_ ⊢
    exact h.modules m at_
  · have same := k.berth.mods m (.inr after)
    rw [same] at after ⊢
    exact ⟨after, rfl, rfl, rfl⟩

/-- The turn of one berth in an operation of all. -/
theorem forBerths_own {f : Berth → State → State} {b : Berth} (other : ∀ c (s : State), c ≠ b → s.Passes b (f c s))
    (s : State) : ∃ u, s.Passes b u ∧ (f b u).Passes b (forBerths f s) := by
  obtain ⟨u, -, before, after⟩ := forBerths_turn (f := f) (P := fun _ => True) (R := State.Passes b) b (.refl b) .trans
    (fun _ _ => id) (fun c s _ => other c s) (s := s) trivial
  exact ⟨u, before, after⟩

/-! ## The restoration (R120) -/

theorem supervisorRestored_passes {b c : Berth} (ne : c ≠ b) (s : State) : s.Passes b (supervisorRestored c s) :=
  .of_only ne (supervisorRestored_only c s) (refreshDirection_meas c _) fun m => by
    unfold supervisorRestored
    rw [refreshDirection_mods]
    rfl

theorem supervisorRestored_spec (b : Berth) (s : State) :
    (supervisorRestored b s).seq.get b =
      { s.seq.get b with lostHold := false, dir := ((supervisorRestored b s).seq.get b).wantDir } ∧
      s.BlanksModules b (supervisorRestored b s) := by
  let u := s.updSeq b fun q => { q with lostHold := false }
  have own : u.seq.get b = { s.seq.get b with lostHold := false } := State.updSeq_self ..
  obtain ⟨ms, -, e⟩ := refreshDirection_spec b u
  have seq : (supervisorRestored b s).seq.get b = (u.seq.get b).directed := by
    show (refreshDirection b u).seq.get b = _
    rw [e]
    exact PerBerth.get_set_self ..
  have dir : ((supervisorRestored b s).seq.get b).dir = (u.seq.get b).wantDir := by rw [seq]; rfl
  refine ⟨?_, refreshDirection_blanks b (s := s) (u := u) rfl rfl rfl (by rw [own]) rfl dir⟩
  rw [seq, own]
  rfl

/-! ## The loss (R120) -/

theorem supervisorLost_enters {b : Berth} {s : State} (h : (s.seq.get b).state = .matching ∨ (s.seq.get b).state = .armed) :
    supervisorLost b s = completeCurrent b .aborted (some .lost) (enterState b .energised s) := by
  unfold supervisorLost
  rcases h with h | h <;> rw [h]

theorem supervisorLost_holds {b : Berth} {s : State} (h : (s.seq.get b).state = .parallelIn) :
    supervisorLost b s = refreshDirection b (s.updSeq b fun q => { q with lostHold := true }) := by
  unfold supervisorLost
  rw [h]

theorem supervisorLost_other {b : Berth} {s : State} (matching : (s.seq.get b).state ≠ .matching)
    (armed : (s.seq.get b).state ≠ .armed) (parallel : (s.seq.get b).state ≠ .parallelIn) : supervisorLost b s = s := by
  unfold supervisorLost
  split <;> trivial

theorem supervisorLost_meas (b : Berth) (s : State) : (supervisorLost b s).meas = s.meas := by
  unfold supervisorLost
  split
  iterate 2 rw [completeCurrent_meas, enterState_meas]
  · exact refreshDirection_meas b _
  · rfl

theorem supervisorLost_page (b : Berth) (s : State) : (supervisorLost b s).page =
    { s.page with summary := (supervisorLost b s).page.summary } := by
  have ended (o : ReqOutcome) (c : Option Cause) (u : State) (page : u.page = s.page) :
      (completeCurrent b o c u).page = { s.page with summary := (completeCurrent b o c u).page.summary } := by
    obtain ⟨x, p, e, -⟩ := completeCurrent_spec b o c u
    rw [e, page]
  unfold supervisorLost
  split
  iterate 2 exact ended _ _ _ (enterState_page ..)
  · rw [refreshDirection_page]
    rfl
  · rfl

theorem supervisorLost_quiet (b : Berth) (s : State) : s.Quiet (supervisorLost b s) := by
  unfold supervisorLost
  split
  iterate 2 exact (enterState_quiet ..).trans (completeCurrent_quiet ..)
  · exact (quiet_of (s := s) (t := s.updSeq b fun q => { q with lostHold := true }) rfl rfl rfl).trans
      (refreshDirection_quiet b _)
  · exact .refl s

theorem supervisorRestored_quiet (b : Berth) (s : State) : s.Quiet (supervisorRestored b s) :=
  (quiet_of (s := s) (t := s.updSeq b fun q => { q with lostHold := false }) rfl rfl rfl).trans
    (refreshDirection_quiet b _)

theorem supervisorLost_bits (b : Berth) (s : State) : s.KeepsBits (supervisorLost b s) := by
  unfold supervisorLost
  split
  iterate 2 exact (keepsBits_of_page (enterState_page ..)).trans (completeCurrent_bits _ _ _ _)
  · exact keepsBits_of_page (refreshDirection_page b _)
  · exact .refl s

theorem forBerths_page {f : Berth → State → State}
    (h : ∀ b (s : State), (f b s).page = { s.page with summary := (f b s).page.summary }) (s : State) :
    (forBerths f s).page = { s.page with summary := (forBerths f s).page.summary } :=
  (h .b2 _).trans (by rw [h .b1, h .b0]; rfl)

theorem supervisorLost_passes {b c : Berth} (ne : c ≠ b) (s : State) : s.Passes b (supervisorLost c s) := by
  refine .of_only ne (supervisorLost_only c s) (supervisorLost_meas c s) fun m => ?_
  unfold supervisorLost
  split
  iterate 2 rw [completeCurrent_mods, enterState_standing]
  · rw [refreshDirection_mods]
    rfl
  · rfl

/-- R117, R120: the ramp of PARALLEL_IN is held. -/
theorem supervisorLost_parallel {b : Berth} {s : State} (h : (s.seq.get b).state = .parallelIn) :
    (supervisorLost b s).seq.get b = { s.seq.get b with lostHold := true, dir := .level } ∧
      s.BlanksModules b (supervisorLost b s) := by
  let u := s.updSeq b fun q => { q with lostHold := true }
  have own : u.seq.get b = { s.seq.get b with lostHold := true } := State.updSeq_self ..
  have level : (u.seq.get b).wantDir = .level := by
    rw [own, wantDir_eq]
    exact if_pos (.inr rfl)
  obtain ⟨ms, -, e⟩ := refreshDirection_spec b u
  rw [supervisorLost_holds h]
  have seq : (refreshDirection b u).seq.get b = (u.seq.get b).directed := by
    rw [e]
    exact PerBerth.get_set_self ..
  have dir : ((refreshDirection b u).seq.get b).dir = (u.seq.get b).wantDir := by rw [seq]; rfl
  refine ⟨?_, refreshDirection_blanks b (s := s) (u := u) rfl rfl rfl (by rw [own]) rfl dir⟩
  rw [seq, show (u.seq.get b).directed = { u.seq.get b with dir := (u.seq.get b).wantDir } from rfl, level, own]

/-- R105, R120: a berth that watches is back in ENERGISED, its request ABORTED. -/
theorem supervisorLost_watching {b : Berth} {s : State}
    (h : (s.seq.get b).state = .matching ∨ (s.seq.get b).state = .armed) :
    s.Stands b .energised (supervisorLost b s) ∧ s.BlanksModules b (supervisorLost b s) ∧
      (s.seq.get b).Completes .aborted (some .lost) ((supervisorLost b s).seq.get b) ∧
      ((supervisorLost b s).sync.get b).prediction = none := by
  have watches : (s.seq.get b).state.isWatching = true := by rcases h with h | h <;> rw [h] <;> rfl
  have ends := completeCurrent_seq b .aborted (some .lost) (enterState b .energised s)
  rw [supervisorLost_enters h]
  refine ⟨entered_stands b .energised _ _ s, fun m before after => ?_, entered_completes (new := .energised) ?_, ?_⟩
  · rw [completeCurrent_mods] at after
    have blanked := enterState_blanks b .energised s m before after
    obtain ⟨l, n, seq⟩ := ends.2
    unfold State.Blanked at blanked ⊢
    rw [completeCurrent_mods, seq]
    exact blanked
  · rw [enterState_seq, PerBerth.get_set_self]
  · rw [completeCurrent_sync, enterState_sync, PerBerth.get_set_self, enteredSync_watch b .energised s watches rfl nofun]
    rfl

/-! ## HEARTBEAT (R186) -/

theorem stationWord_exec {n : Nat} {v : Word} {s : State} {c : Instr} (takes : s.Takes .supervisor) (small : n < 256)
    (writes : exec c s = acceptTransfer (stationWrite n [v]) s) :
    exec c s = .next (passOn (stationItem n [v]) (takeStationWord n v s)) :=
  writes.trans (stationWord_next s n v takes small)

/-- Settles O50. -/
theorem heartbeatAndLoss : Obligations.HeartbeatAndLoss := by
  refine ⟨fun v s takes => ?_, fun s expired present => ?_⟩
  · have runs : exec (.heartbeat v) s = .next (passOn (stationItem 216 [v]) (heartbeat s)) :=
      stationWord_exec takes (by decide) rfl
    refine ⟨fun inactive => ?_, fun there => ?_, fun lost => ?_⟩
    · have still : heartbeat s = s := by unfold heartbeat; rw [inactive]
      rw [runs, still]
    · have started : heartbeat s = startHeartbeat s := by unfold heartbeat; rcases there with h | h <;> rw [h]
      rw [runs, started]
      rfl
    · let u := startHeartbeat s
      let v := forBerths supervisorRestored u
      have e : heartbeat s = emitEvent .supervisorRestored 0 none [put 0 32 (s.page.lostUs / 1000)] v := by
        unfold heartbeat
        rw [lost]
        rfl
      obtain ⟨l, n, p, told⟩ := emitEvent_rest .supervisorRestored 0 none [put 0 32 (s.page.lostUs / 1000)] v
      have page : v.page = u.page := by
        have each (c : Berth) (x : State) : (supervisorRestored c x).page = x.page := refreshDirection_page c _
        exact (each .b2 _).trans ((each .b1 _).trans (each .b0 u))
      have quiet : s.Quiet v :=
        (quiet_of (s := s) (t := u) rfl rfl rfl).trans (forBerths_quiet supervisorRestored_quiet u)
      rw [runs, e]
      refine ⟨_, rfl, ?_, ?_, ?_, emitEvent_jour quiet .., fun b => ?_, ?_⟩
      · rw [told, page]; rfl
      · rw [told, page]; rfl
      · rw [told, page]; rfl
      · obtain ⟨w, before, after⟩ := forBerths_own (b := b) (fun c s ne => supervisorRestored_passes ne s) u
        obtain ⟨seq, blanks⟩ := supervisorRestored_spec b w
        have first : s.Passes b w := .trans (.of_page (t := u) rfl) before
        have last : (supervisorRestored b w).Passes b
            (emitEvent .supervisorRestored 0 none [put 0 32 (s.page.lostUs / 1000)] v) := by
          rw [told]
          exact after.trans (.of_page rfl)
        rw [← last.berth.seq, first.berth.seq] at seq
        refine ⟨seq, first.blanks blanks last, fun parallel => ?_⟩
        have state := (congrArg Seq.state seq).trans parallel
        have stale := congrArg Seq.staleHold seq
        have lost := congrArg Seq.lostHold seq
        have setpoint := congrArg Seq.setpoint seq
        have target := congrArg Seq.target seq
        dsimp only at stale lost setpoint target
        rw [congrArg Seq.dir seq, wantDir_eq, state, stale, lost, setpoint, target]
        cases (s.seq.get b).staleHold <;> simp
      · intro k bit
        refine summaryBit_emitEvent k _ _ _ _ _ ?_
        unfold State.summaryBit at bit ⊢
        rw [page]
        exact bit
  · let u := setSummary .supervisorLost { s with page := { s.page with presence := .lost, hbTimer := .stopped, lostUs := 0 } }
    let v := forBerths supervisorLost u
    let t := emitEvent .supervisorLost 0 none [put 0 32 s.prot.heartbeatMs, s.page.lastHeartbeat] v
    have runs : exec .heartbeatTimerExpiry s = .next t :=
      exec_expired_in rfl s.page.hbTimer (s.page.presence == .present) rfl expired (beq_iff_eq.mpr present)
    have page := forBerths_page supervisorLost_page u
    obtain ⟨l, n, p, told⟩ := emitEvent_rest .supervisorLost 0 none [put 0 32 s.prot.heartbeatMs, s.page.lastHeartbeat] v
    have bits : u.KeepsBits t := ((supervisorLost_bits .b0 u).trans ((supervisorLost_bits .b1 _).trans
      (supervisorLost_bits .b2 _))).trans (emitEvent_bits _ _ _ _ _)
    have quiet : s.Quiet v := (quiet_of (s := s) (t := u) rfl rfl rfl).trans (forBerths_quiet supervisorLost_quiet u)
    have tellsPage : t.page = { v.page with summary := p } := congrArg State.page told
    refine ⟨t, runs, ?_, ?_, ?_, bits _ (setSummary_bit ..), emitEvent_jour quiet .., fun b => ?_⟩
    iterate 3 (rw [tellsPage, page]; rfl)
    obtain ⟨w, before, after⟩ := forBerths_own (b := b) (fun c s ne => supervisorLost_passes ne s) u
    have first : s.Passes b w := .trans (.of_page (t := u) rfl) before
    have last : (supervisorLost b w).Passes b t := after.trans (.of_page told)
    rw [← first.berth.seq]
    refine ⟨fun watches => ?_, fun parallel => ?_, fun matching armed parallel => ?_⟩
    · obtain ⟨stands, blanks, ends, prediction⟩ := supervisorLost_watching watches
      rw [last.berth.seq, last.berth.sync]
      exact ⟨(first.stands stands blanks nofun).passes last, ends, prediction⟩
    · obtain ⟨seq, blanks⟩ := supervisorLost_parallel parallel
      rw [last.berth.seq]
      exact ⟨seq, first.blanks blanks last⟩
    · have still := supervisorLost_other matching armed parallel
      rw [last.berth.seq, last.berth.sync, still]
      exact ⟨rfl, first.berth.sync⟩

end Sys2Proof.Machine
end

section
/-! Proofs: acknowledgement, ATTENTION and the unlock window (R183 to R185). -/

namespace Sys2Proof.Machine

/-! ## The event summary (R184) -/

theorem mask_bit (k : SummaryBit) (i : Nat) : k.mask.getLsbD i = decide (i = k.pos) := by
  have small : k.pos < 16 := by cases k <;> first | decide | (rename_i b; cases b <;> decide)
  unfold SummaryBit.mask
  rw [BitVec.getLsbD_shiftLeft, BitVec.getLsbD_one]
  by_cases same : i = k.pos
  · subst same
    simp [small]
  · by_cases low : i < k.pos
    · simp [low, same]
    · simp [show i - k.pos ≠ 0 by omega, same]

/-- The bits in the order of their positions. -/
def SummaryBit.all : List SummaryBit :=
  [.journalReady, .requestDone .b0, .requestDone .b1, .requestDone .b2, .berthTrip .b0, .berthTrip .b1, .berthTrip .b2,
    .measureStale .b0, .measureStale .b1, .measureStale .b2, .moduleLockout, .configDone, .eventsLost, .refusedTransfer,
    .supervisorLost, .resetRecovered]

theorem all_pos (k : SummaryBit) : SummaryBit.all[k.pos]? = some k := by
  cases k with
  | requestDone b | berthTrip b | measureStale b => cases b <;> rfl
  | _ => rfl

theorem pos_inj {j k : SummaryBit} : j.pos = k.pos ↔ j = k := by
  refine ⟨fun h => Option.some.inj ?_, congrArg _⟩
  rw [← all_pos j, ← all_pos k, h]

theorem setSummary_bit_eq (k j : SummaryBit) (s : State) :
    (setSummary k s).summaryBit j = (s.summaryBit j || j == k) := by
  show (s.page.summary ||| k.mask).getLsbD j.pos = _
  rw [BitVec.getLsbD_or, mask_bit]
  congr 1
  exact decide_eq_decide.mpr pos_inj

theorem attention_iff (s : State) : s.attention = true ↔
    s.resetLow = false ∧ ∃ i, i < 16 ∧ s.page.summary.getLsbD i = true ∧ s.page.enable.getLsbD i = true := by
  unfold State.attention
  rw [Bool.and_eq_true, Bool.not_eq_true', bne_iff_ne]
  refine and_congr_right fun _ => ⟨fun some => ?_, fun ⟨i, small, set, enabled⟩ none => ?_⟩
  · by_contra h
    push Not at h
    refine some (BitVec.eq_of_getLsbD_eq fun i small => ?_)
    rw [BitVec.getLsbD_and, show (0 : BitVec 16).getLsbD i = false from BitVec.getLsbD_zero]
    refine Bool.eq_false_iff.mpr fun both => ?_
    obtain ⟨set, enabled⟩ := Bool.and_eq_true_iff.mp both
    exact h i small set enabled
  · have bit := congrArg (BitVec.getLsbD · i) none
    simp [set, enabled] at bit

/-! ## EVENT_ACK (R184) -/

theorem acknowledge_eq (v : Word) (s : State) : acknowledge v s = { s with
    page := { s.page with summary := s.page.summary &&& ~~~(v.setWidth 16) }
    jour := { s.jour with
      coalescing := if s.summaryBit .journalReady = true ∧ v.getLsbD 0 = true ∧ s.jour.coalescing = .signalled then
        .waitingFirst else s.jour.coalescing } } := by
  unfold acknowledge readyCleared
  dsimp only
  by_cases told : (s.summaryBit .journalReady && v.getLsbD 0) = true
  · obtain ⟨ready, bit⟩ := Bool.and_eq_true_iff.mp told
    rw [if_pos told]
    by_cases signalled : s.jour.coalescing = .signalled
    · rw [if_pos signalled, if_pos ⟨ready, bit, signalled⟩]
    · rw [if_neg signalled, if_neg fun h => signalled h.2.2]
  · rw [if_neg told, if_neg fun h => told (Bool.and_eq_true_iff.mpr ⟨h.1, h.2.1⟩)]

theorem acknowledged_bit (v : Word) (x : BitVec 16) (i : Nat) (small : i < 16) :
    (x &&& ~~~(v.setWidth 16)).getLsbD i = (x.getLsbD i && !v.getLsbD i) := by
  rw [BitVec.getLsbD_and, BitVec.getLsbD_not, BitVec.getLsbD_setWidth]
  simp [small]

/-! ## UNLOCK (R183) -/

theorem unlockWrite_closed {s : State} (h : s.page.unlock = .closed) (v : Word) : unlockWrite v s =
    if v = s.jour.nextSeq then { s with page := { s.page with unlock := .firstTaken v, unlockTimer := .running 1000000 } }
    else s := by
  unfold unlockWrite
  rw [h]
  rfl

theorem unlockWrite_first {s : State} {x : Word} (h : s.page.unlock = .firstTaken x) (v : Word) : unlockWrite v s =
    if v = ~~~x then { s with page := { s.page with unlock := .opened, unlockTimer := .running 10000000 } }
    else { s with page := { s.page with unlock := .closed, unlockTimer := .stopped } } := by
  unfold unlockWrite
  rw [h]
  rfl

theorem unlockWrite_opened {s : State} (h : s.page.unlock = .opened) (v : Word) : unlockWrite v s =
    { s with page := { s.page with unlock := .closed, unlockTimer := .stopped } } := by
  unfold unlockWrite
  rw [h]
  rfl

/-- Settles O51. -/
theorem acknowledgeAndUnlock : Obligations.AcknowledgeAndUnlock := by
  refine ⟨fun k j s => ⟨setSummary_bit_eq k j s, rfl, rfl⟩, attention_iff, fun v s takes => ?_⟩
  have acks : exec (.eventAck v) s = .next (passOn (stationItem 218 [v]) (acknowledge v s)) :=
    stationWord_exec takes (by decide) rfl
  have unlocks : exec (.unlock v) s = .next (passOn (stationItem 219 [v]) (unlockWrite v s)) :=
    stationWord_exec takes (by decide) rfl
  refine ⟨⟨_, acks, ?_⟩, fun closed => ⟨fun next => ?_, fun other => ?_⟩, fun x first => ⟨fun pair => ?_, fun other => ?_⟩,
    fun opened => ?_⟩
  · rw [acknowledge_eq]
    exact ⟨fun i small => acknowledged_bit v _ i small, rfl⟩
  · rw [unlocks, unlockWrite_closed closed, if_pos next]
  · rw [unlocks, unlockWrite_closed closed, if_neg other]
  · rw [unlocks, unlockWrite_first first, if_pos pair]
  · rw [unlocks, unlockWrite_first first, if_neg other]
  · rw [unlocks, unlockWrite_opened opened]

end Sys2Proof.Machine
end

section
/-! Proofs: the journal commands (R150, R155, R156). -/

namespace Sys2Proof.Machine

theorem channelAtRest_iff (s : State) : s.channelAtRest = true ↔ s.jour.channel = .initial ∨ s.jour.channel = .stopped := by
  unfold State.channelAtRest
  rw [Bool.or_eq_true, beq_iff_eq, beq_iff_eq]

theorem ringConfigured_iff (s : State) :
    s.ringConfigured = true ↔ s.bus.firstCommit = true ∧ s.jour.ring.isSome = true := by
  unfold State.ringConfigured
  rw [Bool.and_eq_true]

theorem journalStart_started {s : State} (rest : s.jour.channel = .initial ∨ s.jour.channel = .stopped)
    (first : s.bus.firstCommit = true) (ring : s.jour.ring.isSome = true) :
    journalStart s = { s with jour := { s.jour with channel := .started } } :=
  if_pos (Bool.and_eq_true_iff.mpr ⟨(channelAtRest_iff s).mpr rest, (ringConfigured_iff s).mpr ⟨first, ring⟩⟩)

theorem journalStart_refused {s : State} (h : (s.jour.channel = .started ∨ s.jour.channel = .stopPending) ∨
    s.bus.firstCommit = false ∨ s.jour.ring = none) : journalStart s = s := by
  refine if_neg fun starts => ?_
  obtain ⟨rest, ready⟩ := Bool.and_eq_true_iff.mp starts
  obtain ⟨first, ring⟩ := (ringConfigured_iff s).mp ready
  rcases h with busy | unset | none
  · rcases (channelAtRest_iff s).mp rest with at_ | at_ <;> rw [at_] at busy <;> rcases busy with h | h <;> cases h
  · rw [unset] at first
    cases first
  · rw [none] at ring
    cases ring

theorem journalReset_spec (s : State) : ∃ u, journalReset s = u ∧
    u.jour = { s.jour with
      writing := none, channel := .initial, produce := 0, consume := 0, coalTimer := .stopped
      coalescing := u.jour.coalescing } ∧
    (u.jour.coalescing = .signalled ∨ u.jour.coalescing = .waitingFirst) ∧
    (u.jour.coalescing = .signalled ↔ s.jour.coalescing = .signalled) ∧ u.bus = { s.bus with face := u.bus.face } ∧
    (∀ a ws live, s.bus.face = some (.journal a ws live) → u.bus.face = some (.journal a ws false)) ∧
    ((∀ a ws live, s.bus.face ≠ some (.journal a ws live)) → u.bus.face = s.bus.face) ∧
    u.mods = s.mods ∧ u.seq = s.seq ∧ u.page = s.page ∧ u.clock = s.clock ∧ u.sessions = s.sessions := by
  have coalescing : (journalReset s).jour.coalescing = if s.jour.coalescing = .signalled then .signalled else .waitingFirst :=
    rfl
  refine ⟨journalReset s, rfl, rfl, ?_, ?_, rfl, fun a ws live face => ?_, fun none => ?_, rfl, rfl, rfl, rfl, rfl⟩
  · rw [coalescing]
    split
    · exact .inl rfl
    · exact .inr rfl
  · rw [coalescing]
    split
    next signalled => exact iff_of_true rfl signalled
    next other => exact iff_of_false nofun other
  · show (abandonWrite s).bus.face = _
    unfold abandonWrite
    rw [face]
  · show (abandonWrite s).bus.face = _
    unfold abandonWrite
    dsimp only
    split
    next a ws live face => exact absurd face (none a ws live)
    next => rfl

theorem takesConsume_iff (j : Journal) (n : Nat) : j.takesConsume n = true ↔
    n < j.len ∧ unconsumed j.len n j.consume ≤ unconsumed j.len j.produce j.consume := by
  unfold Journal.takesConsume
  rw [Bool.and_eq_true, decide_eq_true_iff, decide_eq_true_iff]

/-- Settles O52. -/
theorem journalCommandsTaken : Obligations.JournalCommandsTaken := by
  intro s takes
  have starts : exec .journalCmdStart s = .next (passOn (stationItem 220 [1]) (journalStart s)) :=
    stationWord_exec takes (by decide) rfl
  have stops : exec .journalCmdStop s = .next (passOn (stationItem 220 [2]) (journalStop s)) :=
    stationWord_exec takes (by decide) rfl
  have resets : exec .journalCmdReset s = .next (passOn (stationItem 220 [3]) (journalReset s)) :=
    stationWord_exec takes (by decide) rfl
  refine ⟨fun rest first ring => ?_, fun busy => ?_, fun started => ?_, fun other => ?_, ?_, fun n => ?_⟩
  · rw [starts, journalStart_started rest first ring]
  · rw [starts, journalStart_refused busy]
  · rw [stops]
    unfold journalStop
    rw [if_pos started]
  · rw [stops]
    unfold journalStop
    rw [if_neg other]
  · obtain ⟨u, is, rest⟩ := journalReset_spec s
    rw [is] at resets
    exact ⟨u, resets, rest⟩
  · have consumes : exec (.journalConsume n) s = .next (passOn (stationItem 221 [n]) (consumeWrite n s)) :=
      stationWord_exec takes (by decide) rfl
    refine ⟨fun inside reached => ?_, fun bad => ?_⟩
    · rw [consumes]
      unfold consumeWrite
      rw [if_pos ((takesConsume_iff s.jour n.toNat).mpr ⟨inside, reached⟩)]
    · rw [consumes]
      unfold consumeWrite
      rw [if_neg fun taken => ?_]
      · rfl
      · obtain ⟨inside, reached⟩ := (takesConsume_iff s.jour n.toNat).mp taken
        omega

end Sys2Proof.Machine
end

section
/-! Proofs: the tariff clock (R125 to R130, R136, R137). -/

namespace Sys2Proof.Machine

/-! ## The band and the boundaries (R127, R128) -/

theorem bandAt_later {after : List TariffEntry} {second : Nat} (last : ∀ x ∈ after, second < x.start) (n : Nat) :
    after.foldl (fun b e => if e.start ≤ second then e.band else b) n = n := by
  induction after with
  | nil => rfl
  | cons x xs ih =>
    have future := last x List.mem_cons_self
    rw [List.foldl_cons, if_neg (by omega)]
    exact ih fun y mem => last y (List.mem_cons_of_mem _ mem)

theorem band_of_last {s : State} {before after : List TariffEntry} {e : TariffEntry}
    (schedule : s.clock.inForce.schedule = before ++ e :: after) (started : e.start ≤ s.clock.time.second)
    (last : ∀ x ∈ after, s.clock.time.second < x.start) : s.band = e.band := by
  unfold State.band bandAt
  rw [schedule, List.foldl_append, List.foldl_cons, if_pos started, bandAt_later last]

theorem nextBoundaryAfter_eq {x : StationTime} {minutes n : Nat} (pos : 0 < minutes) (multiple : minutes * 60 ∣ n)
    (later : x.second < n) (near : n ≤ x.second + minutes * 60) :
    nextBoundaryAfter x minutes = if n < 86400 then ⟨x.day, n⟩ else ⟨x.day + 1, 0⟩ := by
  obtain ⟨k, rfl⟩ := multiple
  have turn : x.second / (minutes * 60) + 1 = k := by
    have low : x.second / (minutes * 60) < k := Nat.div_lt_of_lt_mul later
    have high : k - 1 ≤ x.second / (minutes * 60) := by
      rw [Nat.le_div_iff_mul_le (by omega), Nat.sub_mul, Nat.mul_comm k]
      omega
    omega
  unfold nextBoundaryAfter
  dsimp only
  rw [turn, Nat.mul_comm k]
  rfl

/-! ## Intervals that close (R136, R137) -/

theorem State.OnlyQueue.eq {s t : State} (h : s.OnlyQueue t) : t = { s with jour := t.jour } := by
  unfold State.OnlyQueue at h
  generalize t.jour.queue = q at h
  rw [h]
  rfl

/-- R137: a session whose interval closes at `stop` and restarts. -/
def Session.split (minutes : Nat) (stop restart : StationTime) (step : Bool) (x : Session) : Session :=
  { (closeInterval minutes stop step step x).2 with acc := Accumulator.startAt restart false }

theorem produceInterval_none {b : Berth} {s : State} (h : s.sessions.get b = none) (forced step : Bool)
    (stop time : StationTime) : produceInterval forced step stop time b s = s := by
  unfold produceInterval
  rw [h]

theorem produceInterval_some {b : Berth} {s : State} {x : Session} (h : s.sessions.get b = some x) (forced step : Bool)
    (stop time : StationTime) {i : IntervalBody} (is : i = (closeInterval s.clock.inForce.intervalMin stop forced step x).1) :
    produceInterval forced step stop time b s =
      admitInterval b { berth := some b, session := x.number, time := time, body := .interval i } i s := by
  unfold produceInterval
  rw [h, is]

section
variable (forced step : Bool) (stop time : StationTime)

theorem produceInterval_onlyQueue (b : Berth) (s : State) : s.OnlyQueue (produceInterval forced step stop time b s) := by
  rcases Option.eq_none_or_eq_some (s.sessions.get b) with none | ⟨x, some⟩
  · rw [produceInterval_none none]
    rfl
  · rw [produceInterval_some some forced step stop time rfl]
    exact admitInterval_onlyQueue b _ _ s

/-- What an interval produces depends on the journal, the set in force and the berth's session. -/
theorem produceInterval_jour {b : Berth} {s t : State} (jour : t.jour = s.jour) (force : t.clock.inForce = s.clock.inForce)
    (session : t.sessions.get b = s.sessions.get b) :
    (produceInterval forced step stop time b t).jour = (produceInterval forced step stop time b s).jour := by
  rcases Option.eq_none_or_eq_some (s.sessions.get b) with none | ⟨x, some⟩
  · rw [produceInterval_none none, produceInterval_none (session.trans none)]
    exact jour
  · rw [produceInterval_some some forced step stop time rfl,
      produceInterval_some (session.trans some) forced step stop time rfl, force]
    exact admitInterval_jour jour _ _ _

end

/-- A split where the journal and the set in force are `v`'s. -/
theorem splitInterval_jour {b : Berth} {s v : State} (jour : s.jour = v.jour) (force : s.clock.inForce = v.clock.inForce)
    (session : s.sessions.get b = v.sessions.get b) (stop restart : StationTime) (step : Bool) :
    splitInterval stop restart step b s = { s with
      sessions := s.sessions.set b ((s.sessions.get b).map (Session.split s.clock.inForce.intervalMin stop restart step))
      jour := (produceInterval step step stop s.clock.time b v).jour } := by
  rw [← produceInterval_jour step step stop s.clock.time jour force session]
  unfold splitInterval
  rcases Option.eq_none_or_eq_some (s.sessions.get b) with none | ⟨x, some⟩
  · rw [none, produceInterval_none none]
    dsimp only
    rw [Option.map_none, ← none, PerBerth.set_get]
  · rw [some, produceInterval_some some step step stop s.clock.time rfl]
    dsimp only
    refine (admitInterval_onlyQueue b _ _ _).eq.trans ?_
    have jour (y : Option Session) (r : Record) (i : IntervalBody) :
        (admitInterval b r i (s.setSession b y)).jour = (admitInterval b r i s).jour :=
      admitInterval_jour (s := s) (t := s.setSession b y) rfl b r i
    rw [jour]
    rfl

/-- R137: the intervals of all open sessions, in the order B0, B1, B2. -/
theorem splits_all {s v : State} (jour : s.jour = v.jour) (force : s.clock.inForce = v.clock.inForce)
    (sessions : s.sessions = v.sessions) (stop restart : StationTime) (step : Bool) :
    forBerths (splitInterval stop restart step) s = { s with
      sessions := s.sessions.map (Option.map (Session.split s.clock.inForce.intervalMin stop restart step))
      jour := (forBerths (produceInterval step step stop s.clock.time) v).jour } := by
  have first := produceInterval_onlyQueue step step stop s.clock.time .b0 v
  have second := produceInterval_onlyQueue step step stop s.clock.time .b1 (produceInterval step step stop s.clock.time .b0 v)
  unfold forBerths
  rw [splitInterval_jour (v := v) jour force (by rw [sessions]),
    splitInterval_jour (b := .b1) (v := produceInterval step step stop s.clock.time .b0 v) ?_ ?_ ?_,
    splitInterval_jour (b := .b2)
      (v := produceInterval step step stop s.clock.time .b1 (produceInterval step step stop s.clock.time .b0 v)) ?_ ?_ ?_]
  · rfl
  · rfl
  · rw [second, first]; exact force
  · rw [second, first]
    show s.sessions.get .b2 = v.sessions.get .b2
    rw [sessions]
  · rfl
  · rw [first]; exact force
  · rw [first]
    show s.sessions.get .b1 = v.sessions.get .b1
    rw [sessions]

theorem forBerths_produced (forced step : Bool) (stop time : StationTime) (s : State) :
    s.OnlyQueue (forBerths (produceInterval forced step stop time) s) :=
  ((produceInterval_onlyQueue forced step stop time .b0 s).trans (produceInterval_onlyQueue forced step stop time .b1 _)).trans
    (produceInterval_onlyQueue forced step stop time .b2 _)

theorem produced_clock (forced step : Bool) (stop time : StationTime) (s : State) :
    (forBerths (produceInterval forced step stop time) s).clock = s.clock := by
  rw [(forBerths_produced forced step stop time s).eq]

/-! ## Time sets (R126) -/

/-- R126: the clock that a time set leaves. -/
def Clock.setTo (now : Word) (second : Nat) (c : Clock) : Clock :=
  { c with
    time := ⟨c.stagedDay.getD c.time.day, second⟩, tickInstant := now, timeUnset := false, stagedDay := none
    nextBoundary := nextBoundaryAfter ⟨c.stagedDay.getD c.time.day, second⟩ c.inForce.intervalMin }

/-- R126: the clock has been set and the intervals split, and the EVENT is to tell it. -/
def State.stepped (second : Nat) (s : State) : State :=
  { s with
    clock := s.clock.setTo s.now second
    sessions := s.sessions.map (Option.map (Session.split s.clock.inForce.intervalMin s.clock.time
      ⟨s.clock.stagedDay.getD s.clock.time.day, second⟩ true))
    jour := (forBerths (produceInterval true true s.clock.time ⟨s.clock.stagedDay.getD s.clock.time.day, second⟩)
      { s with clock := s.clock.setTo s.now second }).jour }

theorem timeSet_eq {v : Word} {s : State} (taken : v.toNat < 86400) : timeSet v s =
    emitEvent .timeStep (if s.clock.timeUnset = true then 1 else 0) none
      [s.clock.time.day, put 0 32 s.clock.time.second, s.clock.stagedDay.getD s.clock.time.day, put 0 32 v.toNat,
        put 0 32 s.openSessions] (s.stepped v.toNat) := by
  let u := { s with clock := { s.clock with
    time := ⟨s.clock.stagedDay.getD s.clock.time.day, v.toNat⟩, tickInstant := s.now, timeUnset := false, stagedDay := none } }
  have split := splits_all (s := u) (v := { s with clock := s.clock.setTo s.now v.toNat }) rfl rfl rfl s.clock.time
    ⟨s.clock.stagedDay.getD s.clock.time.day, v.toNat⟩ true
  unfold timeSet
  rw [if_neg (by unfold daySeconds; omega)]
  dsimp only
  rw [split]
  rfl

/-! ## Boundaries (R128, R130, R142) -/

/-- R142: the intervals of carried sessions stay open at a boundary. -/
theorem boundaryInterval_carried {s : State} (h : s.carried.isSome = true) : forBerths boundaryInterval s = s := by
  have stays (b : Berth) : boundaryInterval b s = s := if_pos h
  unfold forBerths
  rw [stays, stays, stays]

theorem boundaryInterval_open {s : State} (h : s.carried = none) (b : Berth) :
    boundaryInterval b s = splitInterval s.clock.time s.clock.time false b s := if_neg (by rw [h]; nofun)

theorem boundaryIntervals_eq {s v : State} (h : s.carried = none) (jour : s.jour = v.jour)
    (force : s.clock.inForce = v.clock.inForce) (sessions : s.sessions = v.sessions) :
    forBerths boundaryInterval s = { s with
      sessions := s.sessions.map (Option.map (Session.split s.clock.inForce.intervalMin s.clock.time s.clock.time false))
      jour := (forBerths (produceInterval false false s.clock.time s.clock.time) v).jour } := by
  rw [← splits_all jour force sessions s.clock.time s.clock.time false]
  have only0 := splitInterval_only s.clock.time s.clock.time false .b0 s
  have only1 := splitInterval_only s.clock.time s.clock.time false .b1 (splitInterval s.clock.time s.clock.time false .b0 s)
  unfold forBerths
  rw [boundaryInterval_open h, boundaryInterval_open (only0.carried.trans h), only0.clock,
    boundaryInterval_open (only1.carried.trans (only0.carried.trans h)), only1.clock, only0.clock]

/-- R130: the sessions whose interval begins with a new metrology set. -/
def Session.marked (x : Session) : Session := { x with acc := { x.acc with metrology := true } }

theorem metrologyIntoForce_eq (s : State) : metrologyIntoForce s = { s with
    clock := { s.clock with inForce := s.clock.pending.getD s.clock.inForce, pending := none }
    sessions := if s.clock.pending.isSome = true ∧ s.carried = none then s.sessions.map (Option.map Session.marked)
      else s.sessions } := by
  have marks (u : State) : forBerths markMetrology u = { u with sessions := u.sessions.map (Option.map Session.marked) } := rfl
  unfold metrologyIntoForce
  cases pending : s.clock.pending with
  | none =>
    rw [if_neg (fun h => nomatch h.1)]
    dsimp only
    rw [Option.getD_none, ← pending]
  | some m =>
    dsimp only
    cases carried : s.carried with
    | none =>
      rw [if_neg nofun, if_pos ⟨rfl, rfl⟩, marks]
      rfl
    | some r =>
      exact (if_pos rfl).trans (by rw [if_neg (fun h => nomatch h.2)]; rfl)

/-- R125: the clock a second later. -/
def Clock.next (c : Clock) : Clock := { c with time := c.time.succ, tickInstant := c.tickInstant + 1000000 }

theorem tick_plain {s : State} (h : s.clock.next.time ≠ s.clock.nextBoundary) :
    tick s = { s with clock := s.clock.next } := if_neg h

theorem tick_boundary {s : State} (h : s.clock.next.time = s.clock.nextBoundary) :
    tick s = boundary { s with clock := s.clock.next } := if_pos h

/-- R128: the clock of a boundary. -/
def Clock.bounded (c : Clock) : Clock :=
  { c with
    inForce := c.pending.getD c.inForce, pending := none
    nextBoundary := nextBoundaryAfter c.time (c.pending.getD c.inForce).intervalMin }

theorem boundary_carried {s : State} (h : s.carried.isSome = true) : boundary s = { s with clock := s.clock.bounded } := by
  unfold boundary
  rw [boundaryInterval_carried h, metrologyIntoForce_eq, if_neg fun both => by rw [both.2] at h; cases h]
  rfl

theorem boundary_open {s v : State} (h : s.carried = none) (jour : s.jour = v.jour)
    (force : s.clock.inForce = v.clock.inForce) (sessions : s.sessions = v.sessions) : ∃ xs, boundary s = { s with
      clock := s.clock.bounded, sessions := xs
      jour := (forBerths (produceInterval false false s.clock.time s.clock.time) v).jour } ∧
    ∀ b, xs.get b = (s.sessions.get b).map fun x =>
      { (closeInterval s.clock.inForce.intervalMin s.clock.time false false x).2 with
        acc :=
          { start := s.clock.time, energy := Energies.zero, gap := false, timeStep := false
            metrology := s.clock.pending.isSome } } := by
  unfold boundary
  rw [boundaryIntervals_eq h jour force sessions, metrologyIntoForce_eq]
  refine ⟨_, rfl, fun b => ?_⟩
  dsimp only
  cases pending : s.clock.pending with
  | none =>
    rw [if_neg (fun both => nomatch both.1), PerBerth.get_map]
    rfl
  | some m =>
    rw [if_pos ⟨rfl, h⟩, PerBerth.get_map, PerBerth.get_map, Option.map_map]
    rfl

/-- Settles O53. -/
theorem timeIsSetAndTicks : Obligations.TimeIsSetAndTicks := by
  refine ⟨fun s before after e schedule started last => band_of_last schedule started last,
    fun forced step stop time b s => ⟨fun none => produceInterval_none none forced step stop time,
      fun x some i is => produceInterval_some some forced step stop time is⟩,
    fun x minutes n pos multiple later near => nextBoundaryAfter_eq pos multiple later near,
    fun d s takes => stationWord_exec takes (by decide) rfl, fun v s takes => ?_, fun s due next c is clock => ?_⟩
  · have runs : exec (.timeSetSecond v) s = .next (passOn (stationItem 228 [v]) (timeSet v s)) :=
      stationWord_exec takes (by decide) rfl
    refine ⟨fun late => ?_, fun taken => ?_⟩
    · have still : timeSet v s = s := if_pos late
      rw [runs, still]
    · have e := timeSet_eq (s := s) taken
      have told := emitEvent_rest .timeStep (if s.clock.timeUnset = true then 1 else 0) none
        [s.clock.time.day, put 0 32 s.clock.time.second, s.clock.stagedDay.getD s.clock.time.day, put 0 32 v.toNat,
          put 0 32 s.openSessions] (s.stepped v.toNat)
      rw [← e] at told
      obtain ⟨l, n, p, rest⟩ := told
      have clock : (timeSet v s).clock = s.clock.setTo s.now v.toNat := congrArg State.clock rest
      let w := forBerths (produceInterval true true s.clock.time ⟨s.clock.stagedDay.getD s.clock.time.day, v.toNat⟩)
        { s with clock := s.clock.setTo s.now v.toNat }
      have clocks : w.clock = s.clock.setTo s.now v.toNat := produced_clock ..
      refine ⟨timeSet v s, runs, clock, fun b => ?_, ?_, ?_, ?_, ?_, ?_, ?_⟩
      · exact (congrArg (fun x => x.sessions.get b) rest).trans (PerBerth.get_map ..)
      · rw [clock, e]
        exact stationEvent_jour (s := w) (t := s.stepped v.toNat) rfl clocks.symm _ _ _
      iterate 5 (rw [rest]; rfl)
  · have counts : isDue s .stationTick = true := decide_eq_true due
    have runs : exec .stationTick s = .next (tick s) := exec_due rfl counts
    have time : next = s.clock.next.time := is
    have step : c = s.clock.next := by rw [clock, time]; rfl
    refine ⟨fun plain => ?_, fun at_ => ?_⟩
    · rw [runs, step, tick_plain (by rw [← time]; exact plain)]
    · rw [tick_boundary (time ▸ at_)] at runs
      have bounded : ({ s with clock := s.clock.next } : State).clock.bounded = { c with
          inForce := s.clock.pending.getD s.clock.inForce, pending := none
          nextBoundary := nextBoundaryAfter next (s.clock.pending.getD s.clock.inForce).intervalMin } := by
        rw [step, time]
        rfl
      rcases Option.eq_none_or_eq_some s.carried with none | ⟨r, carried⟩
      · obtain ⟨xs, e, sessions⟩ := boundary_open (s := { s with clock := s.clock.next }) (v := s) none rfl rfl rfl
        refine ⟨_, runs, ?_, fun b closed => ?_, fun some => ?_, fun _ => ⟨fun b => ?_, ?_⟩, ?_⟩
        · rw [e]; exact bounded
        · have shut : s.sessions.get b = Option.none := closed.resolve_left (by rw [none]; nofun)
          rw [e]
          exact (sessions b).trans ((congrArg (Option.map _) shut).trans shut.symm)
        · rw [none] at some
          cases some
        · rw [e, time]; exact sessions b
        · rw [e, time]
        · rw [e]; exact ⟨rfl, rfl, rfl, rfl, rfl⟩
      · have held : s.carried.isSome = true := by rw [carried]; rfl
        have e := boundary_carried (s := { s with clock := s.clock.next }) held
        refine ⟨_, runs, ?_, fun b _ => ?_, fun _ => ?_, fun none => ?_, ?_⟩
        · rw [e]; exact bounded
        · rw [e]
        · rw [e]
        · rw [carried] at none
          cases none
        · rw [e]; exact ⟨rfl, rfl, rfl, rfl, rfl⟩

end Sys2Proof.Machine
end

section
/-! Proofs: what the range checks of a commit look at (R164, R179). -/

namespace Sys2Proof.Machine

/-! ## The first check that fails -/

theorem firstBad_none_iff (x : Section) (l : List (Nat × Bool)) : firstBad x l = none ↔ ∀ y ∈ l, y.2 = true := by
  refine ⟨firstBad_none, fun h => ?_⟩
  unfold firstBad
  rw [Option.map_eq_none_iff, List.find?_eq_none]
  intro y mem
  rw [h y mem]
  nofun

theorem firstBad_some_iff (x : Section) (l : List (Nat × Bool)) (o : Offence) : firstBad x l = some o ↔
    ∃ before after, l = before ++ (o.index, false) :: after ∧ (∀ y ∈ before, y.2 = true) ∧ o.sect = some x := by
  unfold firstBad
  rw [Option.map_eq_some_iff]
  constructor
  · rintro ⟨⟨n, ok⟩, found, rfl⟩
    obtain ⟨bad, before, after, rfl, first⟩ := List.find?_eq_some_iff_append.mp found
    have fails : ok = false := by simpa using bad
    subst fails
    exact ⟨before, after, rfl, fun y mem => by simpa using first y mem, rfl⟩
  · rintro ⟨before, after, rfl, first, sect⟩
    refine ⟨(o.index, false), List.find?_eq_some_iff_append.mpr ⟨rfl, before, after, rfl, fun y mem => ?_⟩, ?_⟩
    · rw [first y mem]
      rfl
    · rw [← sect]

/-! ## Words of the shadow -/

theorem cfgFlag_iff (s : State) (n : Nat) : s.cfgFlag n = true ↔ s.cfg n ≠ 0 := by
  unfold State.cfgFlag
  exact bne_iff_ne

theorem among_eq (s : State) (n : Nat) (l : List Nat) : s.among n l = (n, decide (s.cfg n ∈ l)) := by
  unfold State.among
  rw [List.contains_eq_mem]

/-- A word whose range begins at 0. -/
theorem within_zero (s : State) (n hi : Nat) : s.within n 0 hi = (n, decide (s.cfg n ≤ hi)) := by
  unfold State.within
  simp

theorem ite_cfgFlag {α : Type} (s : State) (n : Nat) (x y : α) :
    (if s.cfgFlag n = true then x else y) = if s.cfg n = 0 then y else x := by
  by_cases zero : s.cfg n = 0
  · rw [if_pos zero, if_neg fun flag => (cfgFlag_iff s n).mp flag zero]
  · rw [if_neg zero, if_pos ((cfgFlag_iff s n).mpr zero)]

/-! ## The sections (R179) -/

theorem checkBerths_eq (s : State) : s.checkSection .berths = firstBad .berths (Berth.list.flatMap fun b =>
    if s.cfg (48 + 16 * b.num) = 0 then [] else
      [(1, 1, 10), (2, 20, 300), (3, 10, 100), (4, 2, 20), (5, 20, 200), (6, 1, 60), (7, 50, 2000), (8, 50, 1000),
        (9, 30, 600), (10, 10, 300), (11, 1, 20), (12, 10, 1000), (13, 10, 500), (14, 50, 1000), (15, 0, 60)].map
        fun (x : Nat × Nat × Nat) => (48 + 16 * b.num + x.1,
          decide (x.2.1 ≤ s.cfg (48 + 16 * b.num + x.1) ∧ s.cfg (48 + 16 * b.num + x.1) ≤ x.2.2))) := by
  refine congrArg (firstBad .berths) (congrArg (List.flatMap · Berth.list) (funext fun b => ?_))
  rw [ite_cfgFlag]
  cases b <;> rfl

theorem checkPool_eq (s : State) : s.checkSection .pool = firstBad .pool (ModuleId.list.flatMap fun k =>
    if s.cfg (96 + 4 * k.num) = 0 then [] else
      [(97 + 4 * k.num, decide (500 ≤ s.cfg (97 + 4 * k.num) ∧ s.cfg (97 + 4 * k.num) ≤ 2500 ∧
        s.cfg (97 + 4 * k.num) % 100 = 0))]) := by
  refine congrArg (firstBad .pool) (congrArg (List.flatMap · ModuleId.list) (funext fun k => ?_))
  exact ite_cfgFlag ..

theorem checkProtection_eq (s : State) : s.checkSection .protection = firstBad .protection
    [(144, decide (1 ≤ s.cfg 144 ∧ s.cfg 144 ≤ 4)), (145, decide (s.cfg 145 ≤ 500)),
      (146, decide (s.cfg 146 ∈ [500, 1000, 2000, 5000])), (147, decide (s.cfg 147 ≤ 3)),
      (148, decide (s.cfg 148 ∈ [30, 60, 120, 300])), (149, decide (s.cfg 149 ≤ 3)),
      (150, decide (100 ≤ s.cfg 150 ∧ s.cfg 150 ≤ 10000)), (151, decide (500 ≤ s.cfg 151 ∧ s.cfg 151 ≤ 10000)),
      (152, decide (100 ≤ s.cfg 152 ∧ s.cfg 152 ≤ 2000))] := by
  show firstBad _ _ = _
  rw [within_zero, within_zero, within_zero, among_eq, among_eq]
  rfl

theorem checkAttention_eq (s : State) : s.checkSection .attention = firstBad .attention
    [(208, decide (s.cfg 208 ≤ 65535)), (209, decide (1 ≤ s.cfg 209 ∧ s.cfg 209 ≤ 64)),
      (210, decide (10 ≤ s.cfg 210 ∧ s.cfg 210 ≤ 5000))] := by
  show firstBad _ _ = _
  rw [within_zero]
  rfl

/-! ## The schedule (R127) -/

/-- R179: the check of schedule word `161 + i`, by the start seconds of the words. -/
def State.scheduleRow (s : State) (start : Nat → Nat) (i : Nat) : Nat × Bool :=
  (161 + i, if ((List.range (i + 1)).all fun j => start (j + 1) != 0) = true then
      decide ((if i = 0 then 0 else start i) < start (i + 1) ∧ start (i + 1) < 86400)
    else decide (s.cfg (161 + i) = 0))

theorem scheduleChecks_eq {s : State} {start : Nat → Nat}
    (starts : ∀ i, start i = (wordAt s.page.shadow (160 + i)).toNat % 131072) (n i prev : Nat) (used : Bool)
    (going : used = (List.range i).all fun j => start (j + 1) != 0)
    (before : used = true → prev = if i = 0 then 0 else start i) :
    scheduleChecks (161 + i) prev used ((List.range' i n).map fun i => wordAt s.page.shadow (161 + i)) =
      (List.range' i n).map (s.scheduleRow start) := by
  induction n generalizing i prev used with
  | zero => rfl
  | succ n ih =>
    have second : field (wordAt s.page.shadow (161 + i)) 0 17 = start (i + 1) := by
      rw [starts, field_eq, show 160 + (i + 1) = 161 + i by omega, Nat.pow_zero, Nat.div_one]
      rfl
    have all : ((List.range (i + 1)).all fun j => start (j + 1) != 0) = (used && start (i + 1) != 0) := by
      rw [List.range_succ, List.all_append, ← going]
      simp
    have empty : (wordAt s.page.shadow (161 + i) == 0) = decide (s.cfg (161 + i) = 0) := by
      rw [Bool.eq_iff_iff, beq_iff_eq, decide_eq_true_iff]
      exact ⟨fun h => congrArg BitVec.toNat h, fun h => BitVec.eq_of_toNat_eq h⟩
    rw [List.range'_succ, List.map_cons, List.map_cons]
    unfold scheduleChecks State.scheduleRow
    rw [second, all]
    by_cases more : (used && start (i + 1) != 0) = true
    · have on : used = true := (Bool.and_eq_true_iff.mp more).1
      rw [if_pos more, if_pos more, before on]
      refine congrArg _ (ih (i + 1) (start (i + 1)) true ?_ fun _ => (if_neg (Nat.succ_ne_zero i)).symm)
      rw [all, more]
    · rw [if_neg more, if_neg more, empty]
      refine congrArg _ (ih (i + 1) prev false ?_ nofun)
      rw [all]
      exact (Bool.eq_false_iff.mpr more).symm

theorem checkMetrology_eq {s : State} {start : Nat → Nat}
    (starts : ∀ i, start i = (wordAt s.page.shadow (160 + i)).toNat % 131072) :
    s.checkSection .metrology = firstBad .metrology ((160, decide (start 0 = 0)) ::
      ((List.range 7).map (s.scheduleRow start)) ++
      [(168, decide (s.cfg 168 ∈ [5, 10, 15, 20, 30, 60])), (169, decide (10 ≤ s.cfg 169 ∧ s.cfg 169 ≤ 600))]) := by
  have first : (field (wordAt s.page.shadow 160) 0 17 == 0) = decide (start 0 = 0) := by
    rw [starts, field_eq, Nat.pow_zero, Nat.div_one]
    rfl
  have rest := scheduleChecks_eq starts 7 0 0 true rfl fun _ => rfl
  rw [← List.range_eq_range'] at rest
  show firstBad _ _ = _
  rw [first, rest, among_eq]
  rfl

end Sys2Proof.Machine
end

section
/-! Proofs: window entries, ties and conditions of a commit (R164, R179, R180). -/

namespace Sys2Proof.Machine

/-! ## Window entries (R164) -/

theorem rawTable_get {s : State} {n : Nat} (h : n < 12) : s.rawTable[n]? = some (s.rawEntry n) := by
  unfold State.rawTable
  rw [List.getElem?_map, List.getElem?_range h]
  rfl

theorem entryOk_some {l : List RawEntry} {n : Nat} {e : RawEntry} (h : l[n]? = some e) : entryOk l n = true ↔
    e.fieldsOk = true ∧ ∀ k c, k ≠ n → l[k]? = some c → e.clashes c = false := by
  obtain ⟨inside, rfl⟩ := List.getElem?_eq_some_iff.mp h
  rw [entryOk_iff inside]
  refine and_congr_right fun _ => ⟨fun clear k c other at_ => ?_, fun clear k small other => ?_⟩
  · obtain ⟨small, rfl⟩ := List.getElem?_eq_some_iff.mp at_
    exact clear k small other
  · exact clear k _ other (List.getElem?_eq_getElem small)

theorem fieldsOk_iff_all (e : RawEntry) : e.fieldsOk = true ↔ e.kind = 0 ∨
    (e.kind ≤ 5 ∧ e.base % 256 = 0 ∧ e.size % 256 = 0 ∧ 256 ≤ e.size ∧ e.size ≤ 1048576 ∧
      e.base + e.size ≤ 16776192 ∧ (e.kind = 1 ∨ e.kind = 2 → e.berth ≤ 2) ∧
      (e.kind ≠ 1 → e.kind ≠ 2 → e.berth = 0) ∧ (e.kind = 2 ∨ e.kind = 3 ∨ e.kind = 4 → e.size = 256)) := by
  by_cases none : e.kind = 0
  · refine iff_of_true ?_ (.inl none)
    unfold RawEntry.fieldsOk
    rw [if_pos none]
  · rw [RawEntry.fieldsOk_iff none, or_iff_right none]
    have berth : (if e.kind = 1 ∨ e.kind = 2 then decide (e.berth ≤ 2) else e.berth == 0) = true ↔
        (e.kind = 1 ∨ e.kind = 2 → e.berth ≤ 2) ∧ (e.kind ≠ 1 → e.kind ≠ 2 → e.berth = 0) := by
      by_cases paged : e.kind = 1 ∨ e.kind = 2
      · rw [if_pos paged, decide_eq_true_iff]
        exact ⟨fun h => ⟨fun _ => h, fun a b => absurd paged (by omega)⟩, fun h => h.1 paged⟩
      · rw [if_neg paged, beq_iff_eq]
        exact ⟨fun h => ⟨fun p => absurd p paged, fun _ _ => h⟩, fun h => h.2 (by omega) (by omega)⟩
    have size : (if e.kind = 2 ∨ e.kind = 3 ∨ e.kind = 4 then e.size == 256 else true) = true ↔
        (e.kind = 2 ∨ e.kind = 3 ∨ e.kind = 4 → e.size = 256) := by
      by_cases fixed : e.kind = 2 ∨ e.kind = 3 ∨ e.kind = 4
      · rw [if_pos fixed, beq_iff_eq]
        exact ⟨fun h _ => h, fun h => h fixed⟩
      · rw [if_neg fixed]
        exact iff_of_true rfl fun p => absurd p fixed
    rw [berth, size]
    simp only [and_assoc]
    rfl

theorem clashes_iff (e c : RawEntry) : e.clashes c = true ↔
    e.kind ≠ 0 ∧ c.kind ≠ 0 ∧ (∃ n, e.base ≤ n ∧ n < e.base + e.size ∧ c.base ≤ n ∧ n < c.base + c.size) ∨
      e.kind = c.kind ∧ (3 ≤ e.kind ∨ e.kind ≠ 0 ∧ e.berth = c.berth) := by
  have overlap : max e.base c.base < min (e.base + e.size) (c.base + c.size) ↔
      ∃ n, e.base ≤ n ∧ n < e.base + e.size ∧ c.base ≤ n ∧ n < c.base + c.size :=
    ⟨fun h => ⟨max e.base c.base, by omega⟩, fun ⟨n, h⟩ => by omega⟩
  unfold RawEntry.clashes RawEntry.overlaps
  simp only [Bool.or_eq_true, Bool.and_eq_true, bne_iff_ne, decide_eq_true_eq, beq_iff_eq, overlap, and_assoc]

/-! ## Ties (R179) -/

theorem hasWindow_iff (t : List WindowEntry) (k : WindowKind) (b : Berth) :
    hasWindow t k b = true ↔ ∃ e ∈ t, e.kind = k ∧ e.berth = b.num := by
  unfold hasWindow
  simp only [List.any_eq_true, Bool.and_eq_true, beq_iff_eq]

/-- R164, R179: a berth configured after the commit has its windows. -/
def State.Tied (s : State) (m : Word) (b : Berth) : Prop :=
  (if names m .berths = true then s.cfg (48 + 16 * b.num) ≠ 0 else (s.params.get b).configured = true) →
    (∃ e ∈ s.tableAfter m, e.kind = .measure ∧ e.berth = b.num) ∧
      ∃ e ∈ s.tableAfter m, e.kind = .berthPage ∧ e.berth = b.num

/-- R179: the check of that tie. -/
def State.tieRow (s : State) (m : Word) (b : Berth) : Nat × Bool :=
  (48 + 16 * b.num, !s.configuredAfter m b ||
    (hasWindow (s.tableAfter m) .measure b && hasWindow (s.tableAfter m) .berthPage b))

theorem configuredAfter_iff (s : State) (m : Word) (b : Berth) : s.configuredAfter m b = true ↔
    if names m .berths = true then s.cfg (48 + 16 * b.num) ≠ 0 else (s.params.get b).configured = true := by
  unfold State.configuredAfter
  split
  · exact cfgFlag_iff s _
  · rfl

theorem tieRow_iff (s : State) (m : Word) (b : Berth) : (s.tieRow m b).2 = true ↔ s.Tied m b := by
  unfold State.tieRow State.Tied
  rw [← configuredAfter_iff, ← hasWindow_iff, ← hasWindow_iff, ← Bool.and_eq_true]
  cases s.configuredAfter m b <;> simp

theorem covers_false_iff (e : WindowEntry) (a : Nat) : (!e.covers a) = true ↔
    ¬(e.kind ≠ .none ∧ e.base ≤ a ∧ a < e.base + e.size) := by
  rw [← covers_iff, Bool.not_eq_true', Bool.not_eq_true]

theorem ringFits_iff (t : List WindowEntry) (r : Ring) : ringFits t r = true ↔
    ∀ e, findWindow t .journal = some e → r.length * 64 ≤ e.size := by
  unfold ringFits
  cases findWindow t .journal with
  | none => exact iff_of_true rfl nofun
  | some e => exact decide_eq_true_iff.trans ⟨fun h x same => Option.some.inj same ▸ h, fun h => h e rfl⟩

theorem ringApart_iff (t : List WindowEntry) (a : Nat) : (t.all fun e => !e.covers a) = true ↔
    ∀ e ∈ t, ¬(e.kind ≠ .none ∧ e.base ≤ a ∧ a < e.base + e.size) := by
  rw [List.all_eq_true]
  exact forall_congr' fun e => forall_congr' fun _ => covers_false_iff e a

/-- R179: the checks of the ring that the commit leaves. -/
def State.ringRows (s : State) (m : Word) (r : Ring) : List (Nat × Bool) :=
  [(128, ringFits (s.tableAfter m) r), (129, (s.tableAfter m).all fun e => !e.covers r.writeBack)]

theorem checkTies_untied {s : State} {m : Word} {o : Offence} (h : firstBad .berths (Berth.list.map (s.tieRow m)) = some o) :
    s.checkTies m = some o := by
  unfold State.checkTies
  dsimp only
  rw [show (Berth.list.map fun b => (48 + 16 * b.num, !s.configuredAfter m b ||
    (hasWindow (s.tableAfter m) .measure b && hasWindow (s.tableAfter m) .berthPage b))) = Berth.list.map (s.tieRow m) from rfl, h]

theorem checkTies_tied {s : State} {m : Word} (h : ∀ b, s.Tied m b) :
    s.checkTies m = (s.ringAfter m).bind fun r => firstBad .journal (s.ringRows m r) := by
  have tied : firstBad .berths (Berth.list.map (s.tieRow m)) = none := by
    rw [firstBad_none_iff]
    intro y mem
    obtain ⟨b, -, rfl⟩ := List.mem_map.mp mem
    exact (tieRow_iff s m b).mpr (h b)
  unfold State.checkTies
  dsimp only
  rw [show (Berth.list.map fun b => (48 + 16 * b.num, !s.configuredAfter m b ||
    (hasWindow (s.tableAfter m) .measure b && hasWindow (s.tableAfter m) .berthPage b))) = Berth.list.map (s.tieRow m) from rfl, tied]
  cases s.ringAfter m <;> rfl

/-- R179: the first berth that is not tied is reported. -/
theorem checkTies_first {s : State} {m : Word} {b : Berth} (earlier : ∀ c : Berth, c.num < b.num → s.Tied m c)
    (loose : ¬s.Tied m b) : s.checkTies m = some ⟨some .berths, 48 + 16 * b.num⟩ := by
  have bad : s.tieRow m b = (48 + 16 * b.num, false) :=
    Prod.ext rfl (Bool.eq_false_iff.mpr fun ok => loose ((tieRow_iff s m b).mp ok))
  refine checkTies_untied ((firstBad_some_iff ..).mpr
    ⟨(Berth.list.take b.num).map (s.tieRow m), (Berth.list.drop (b.num + 1)).map (s.tieRow m), ?_, fun y mem => ?_, rfl⟩)
  · rw [← bad, ← List.map_cons, ← List.map_append]
    cases b <;> rfl
  · obtain ⟨c, taken, rfl⟩ := List.mem_map.mp mem
    refine (tieRow_iff s m c).mpr (earlier c ?_)
    revert taken
    cases b <;> cases c <;> decide

theorem checkTies_none_iff (s : State) (m : Word) : s.checkTies m = none ↔ (∀ b, s.Tied m b) ∧
    ∀ r, s.ringAfter m = some r →
      (∀ e, findWindow (s.tableAfter m) .journal = some e → r.length * 64 ≤ e.size) ∧
        ∀ e ∈ s.tableAfter m, ¬(e.kind ≠ .none ∧ e.base ≤ r.writeBack ∧ r.writeBack < e.base + e.size) := by
  by_cases tied : ∀ b, s.Tied m b
  · rw [checkTies_tied tied, and_iff_right tied, Option.bind_eq_none_iff]
    refine forall_congr' fun r => forall_congr' fun _ => ?_
    rw [firstBad_none_iff, ← ringFits_iff, ← ringApart_iff]
    unfold State.ringRows
    simp only [List.forall_mem_cons, List.not_mem_nil, false_imp_iff, implies_true, and_true]
  · refine iff_of_false (fun none => ?_) fun h => tied h.1
    have first : ∃ b : Berth, (∀ c : Berth, c.num < b.num → s.Tied m c) ∧ ¬s.Tied m b := by
      by_cases t0 : s.Tied m .b0
      · by_cases t1 : s.Tied m .b1
        · refine ⟨.b2, fun c low => ?_, fun t2 => tied fun b => by cases b <;> assumption⟩
          cases c
          · exact t0
          · exact t1
          · cases Nat.lt_irrefl _ low
        · refine ⟨.b1, fun c low => ?_, t1⟩
          cases c
          · exact t0
          · cases Nat.lt_irrefl _ low
          · cases Nat.not_lt_of_lt (by decide : (Berth.b1).num < (Berth.b2).num) low
      · exact ⟨.b0, fun c low => absurd low (Nat.not_lt_zero _), t0⟩
    obtain ⟨b, earlier, loose⟩ := first
    rw [checkTies_first earlier loose] at none
    cases none

/-! ## Conditions (R180) -/

theorem allIdle_berths (s : State) : s.allIdle = true ↔ ∀ b, (s.seq.get b).state = .idle := allIdle_iff s

theorem windowsReady_iff (s : State) : s.sectionReady .windows = true ↔ (∀ b, (s.seq.get b).state = .idle) ∧ s.claims = [] ∧
    (s.jour.channel = .initial ∨ s.jour.channel = .stopped) := by
  show (s.allIdle && s.claims.isEmpty && s.channelAtRest) = true ↔ _
  rw [Bool.and_eq_true, Bool.and_eq_true, allIdle_berths, List.isEmpty_iff, channelAtRest_iff, and_assoc]

end Sys2Proof.Machine
end

section
/-! Proofs: the checks of a commit in their order (R177 to R180, R183, R148). -/

namespace Sys2Proof.Machine

theorem commitMask_exec {c : Instr} {m : Word} {s : State} (commits : commitMask? c = some m) (takes : s.Takes .supervisor) :
    exec c s = .next (passOn (stationItem 253 [m]) (commit m s)) := by
  have writes : exec c s = acceptTransfer (stationWrite 253 [m]) s := by cases c <;> cases commits <;> rfl
  exact stationWord_exec takes (by decide) writes

/-! ## Sections in ascending word order -/

theorem section_split (x : Section) : Section.list = Section.list.take x.bit ++ x :: Section.list.drop (x.bit + 1) := by
  cases x <;> rfl

theorem bit_of_earlier {x y : Section} (h : y ∈ Section.list.take x.bit) : y.bit < x.bit := by
  revert h
  cases x <;> cases y <;> decide

theorem mem_sections (x : Section) : x ∈ Section.list := by cases x <;> decide

/-! ## The checks (R178 to R180) -/

section
variable {s : State} {m : Word}

theorem checkRanges_mask (h : m = 0 ∨ 128 ≤ m.toNat) : s.checkRanges m = some ⟨none, 253⟩ := if_pos h

theorem checkRanges_first (some_ : m ≠ 0) (known : m.toNat < 128) {x : Section}
    (earlier : ∀ y : Section, y.bit < x.bit → names m y = true → s.checkSection y = none) (named : names m x = true)
    {o : Offence} (bad : s.checkSection x = some o) : s.checkRanges m = some o := by
  unfold State.checkRanges
  rw [if_neg (by rintro (h | h) <;> [exact some_ h; omega])]
  refine List.findSome?_eq_some_iff.mpr ⟨_, x, _, section_split x, by rw [if_pos named, bad], fun y mem => ?_⟩
  split
  next other => exact earlier y (bit_of_earlier mem) other
  next => rfl

theorem checkRanges_good (some_ : m ≠ 0) (known : m.toNat < 128) (good : ∀ x, names m x = true → s.checkSection x = none) :
    s.checkRanges m = none := by
  unfold State.checkRanges
  rw [if_neg (by rintro (h | h) <;> [exact some_ h; omega])]
  refine List.findSome?_eq_none_iff.mpr fun x _ => ?_
  split
  next named => exact good x named
  next => rfl

theorem checkState_first (first : s.bus.firstCommit = true ∨ names m .windows = true) {x : Section}
    (earlier : ∀ y : Section, y.bit < x.bit → names m y = true → s.sectionReady y = true) (named : names m x = true)
    (busy : s.sectionReady x = false) : s.checkState m = some x := by
  unfold State.checkState
  rw [if_neg (by rcases first with h | h <;> rw [h] <;> simp)]
  refine List.find?_eq_some_iff_append.mpr ⟨by rw [named, busy]; rfl, _, _, section_split x, fun y mem => ?_⟩
  cases other : names m y with
  | false => rfl
  | true => rw [earlier y (bit_of_earlier mem) other]; rfl

theorem checkState_good (first : s.bus.firstCommit = true ∨ names m .windows = true)
    (ready : ∀ x, names m x = true → s.sectionReady x = true) : s.checkState m = none := by
  unfold State.checkState
  rw [if_neg (by rcases first with h | h <;> rw [h] <;> simp)]
  refine List.find?_eq_none.mpr fun x _ => ?_
  cases named : names m x with
  | false => nofun
  | true => rw [ready x named]; nofun

theorem journalRoom_iff (s : State) : s.journalRoom = true ↔
    ¬(metrologyHeld s.jour.queue ≠ 0 ∨ ∃ r ∈ s.jour.queue, r.isInterval = true) := by
  unfold State.journalRoom
  rw [Bool.and_eq_true, beq_iff_eq, List.all_eq_true, not_or, not_not]
  refine and_congr_right fun _ => ?_
  simp

/-! ## What is judged (R177) -/

theorem crcOk_iff (s : State) : s.crcOk = true ↔ crc32 s.page.shadow = s.page.shadowCrc := beq_iff_eq

theorem judge_badCrc (h : crc32 s.page.shadow ≠ s.page.shadowCrc) : s.judgeCommit m = (.badCrc, ⟨none, 0⟩) := by
  have bad : s.crcOk = false := Bool.eq_false_iff.mpr fun ok => h ((crcOk_iff s).mp ok)
  unfold State.judgeCommit
  rw [bad]
  rfl

theorem judge_badRange {o : Offence} (crc : s.crcOk = true) (ranges : s.checkRanges m = some o) :
    s.judgeCommit m = (.badRange, o) := by
  unfold State.judgeCommit
  rw [crc, ranges]
  rfl

theorem judge_badTies {o : Offence} (crc : s.crcOk = true) (ranges : s.checkRanges m = none)
    (ties : s.checkTies m = some o) : s.judgeCommit m = (.badRange, o) := by
  unfold State.judgeCommit
  rw [crc, ranges, ties]
  rfl

theorem judge_badState {x : Section} (crc : s.crcOk = true) (ranges : s.checkRanges m = none)
    (ties : s.checkTies m = none) (state : s.checkState m = some x) : s.judgeCommit m = (.badState, ⟨some x, 0⟩) := by
  unfold State.judgeCommit
  rw [crc, ranges, ties, state]
  rfl

/-- R183, R148: what is judged once the sections may be committed. -/
theorem judge_ready (crc : s.crcOk = true) (ranges : s.checkRanges m = none) (ties : s.checkTies m = none)
    (state : s.checkState m = none) : s.judgeCommit m =
      if names m .metrology && s.page.unlock != .opened then (.locked, ⟨none, 0⟩)
      else if names m .metrology && !s.journalRoom then (.noJournalRoom, ⟨none, 0⟩)
      else (.accepted, ⟨none, 0⟩) := by
  unfold State.judgeCommit
  rw [crc, ranges, ties, state]
  rfl

/-- R177: a refused commit. -/
theorem commit_refused {o : CommitOutcome} {f : Offence} (h : s.judgeCommit m = (o, f)) (refused : o ≠ .accepted) :
    commit m s = setSummary .configDone { s with page := { s.page with
      result := { outcome := o, mask := m, sect := f.sect, index := f.index, count := s.page.result.count + 1 } } } := by
  unfold commit
  rw [h]
  exact congrArg (recordCommit m (o, f)) (if_neg refused)

end

/-- Settles O55. -/
theorem commitsRefusedInOrder : Obligations.CommitsRefusedInOrder := by
  refine ⟨fun x l => ⟨firstBad_none_iff x l, firstBad_some_iff x l⟩, fun s => ⟨?_, ⟨rawTable_length s, fun n => rawTable_get⟩,
    checkBerths_eq s, checkPool_eq s, rfl, checkProtection_eq s, fun start starts => checkMetrology_eq starts,
    checkAttention_eq s, checkTies_none_iff s, fun m tie fits apart tied rings => ?_, fun m => ⟨rfl, rfl⟩, windowsReady_iff s,
    allIdle_berths s, channelAtRest_iff s, fun x mem => ?_⟩, fun s n => ⟨rfl, rfl, cfgFlag_iff s n⟩, fun e => rfl, rfl,
    fun l n e => entryOk_some, fieldsOk_iff_all, clashes_iff, fun c m s commits takes => ?_⟩
  · rfl
  · have is (b : Berth) : tie b ↔ s.Tied m b := tied b
    refine ⟨fun b earlier loose => ?_, fun all r ring => ⟨fun unfit => ?_, fun fit near => ?_⟩⟩
    · exact checkTies_first (fun c low => (is c).mp (earlier c low)) fun t => loose ((is b).mpr t)
    · have bad : ringFits (s.tableAfter m) r = false :=
        Bool.eq_false_iff.mpr fun ok => unfit ((rings r).1.mpr ((ringFits_iff ..).mp ok))
      rw [checkTies_tied fun b => (is b).mp (all b), ring]
      refine (firstBad_some_iff ..).mpr ⟨[], [(129, (s.tableAfter m).all fun e => !e.covers r.writeBack)], ?_, nofun, rfl⟩
      unfold State.ringRows
      rw [bad]
      rfl
    · have good : ringFits (s.tableAfter m) r = true := (ringFits_iff ..).mpr ((rings r).1.mp fit)
      have bad : ((s.tableAfter m).all fun e => !e.covers r.writeBack) = false :=
        Bool.eq_false_iff.mpr fun ok => near ((rings r).2.mpr ((ringApart_iff ..).mp ok))
      rw [checkTies_tied fun b => (is b).mp (all b), ring]
      refine (firstBad_some_iff ..).mpr ⟨[(128, true)], [], ?_, by simp, rfl⟩
      unfold State.ringRows
      rw [good, bad]
      rfl
  · rcases (by simpa using mem : x = .berths ∨ x = .protection ∨ x = .metrology ∨ x = .attention) with rfl | rfl | rfl | rfl <;> rfl
  · intro ends
    have refused {o : CommitOutcome} {f : Offence} (h : s.judgeCommit m = (o, f)) (not : o ≠ .accepted) :
        ends o f.sect f.index := by
      show exec c s = _
      rw [commitMask_exec commits takes, commit_refused h not]
    refine ⟨fun bad => refused (judge_badCrc bad) nofun, fun crc => ?_⟩
    have crc := (crcOk_iff s).mpr crc
    refine ⟨fun mask => refused (judge_badRange crc (checkRanges_mask mask)) nofun, fun some known =>
      ⟨fun x earlier named o bad => refused (judge_badRange crc (checkRanges_first some known earlier named bad)) nofun,
        fun good => ?_⟩⟩
    have ranges := checkRanges_good some known good
    refine ⟨fun o ties => refused (judge_badTies crc ranges ties) nofun, fun ties => ⟨fun unset other => ?_, fun first =>
      ⟨fun x earlier named busy => refused (judge_badState crc ranges ties (checkState_first first earlier named busy)) nofun,
        fun ready metrology => ?_⟩⟩⟩
    · refine refused (judge_badState crc ranges ties ?_) nofun
      unfold State.checkState
      rw [unset, other]
      rfl
    · have judged := judge_ready crc ranges ties (checkState_good first ready)
      rw [metrology, Bool.true_and, Bool.true_and] at judged
      refine ⟨fun locked => ?_, fun unlocked full => ?_⟩
      · rw [if_pos (bne_iff_ne.mpr locked)] at judged
        exact refused judged nofun
      · have room : s.journalRoom = false := Bool.eq_false_iff.mpr fun free => (journalRoom_iff s).mp free full
        rw [if_neg (by rw [unlocked]; nofun), room] at judged
        exact refused (judged.trans (if_pos rfl)) nofun

end Sys2Proof.Machine
end

section
/-! Proofs: a try of the pool where no berth watches, and what METROLOGY's words hold (R10, R129, 11.6). -/

namespace Sys2Proof.Machine

/-! ## A try of the pool (R10) -/

/-- No berth is in MATCHING or ARMED. -/
def State.Unwatched (s : State) : Prop := ∀ b, (s.seq.get b).state.isWatching = false

/-- Only modules, oscillators, contexts, sessions and claims differ, and the modules' reports do not. -/
structure State.Tried (s t : State) : Prop where
  rest : t = { s with mods := t.mods, osc := t.osc, seq := t.seq, sessions := t.sessions, claims := t.claims }
  reports : s.SameReports t
  unwatched : t.Unwatched

theorem State.Tried.trans {s t u : State} (h : s.Tried t) (k : t.Tried u) : s.Tried u :=
  ⟨by rw [k.rest, h.rest], h.reports.trans k.reports, k.unwatched⟩

theorem tried_of_modsOnly {s t : State} (only : s.ModsOnly t) (reports : s.SameReports t) (calm : s.Unwatched) :
    s.Tried t := by
  refine ⟨?_, reports, fun b => ?_⟩
  · rw [only]
  · rw [only]
    exact calm b

theorem enterState_tried {b : Berth} {new : BerthState} {s : State} (calm : s.Unwatched) (away : new.isWatching = false) :
    s.Tried (enterState b new s) := by
  obtain ⟨ms, driven, e⟩ := enterState_spec b new s
  have sync : s.sync.set b (enteredSync b new s) = s.sync := by
    rw [enteredSync_not b new s (calm b)]
    exact PerBerth.set_get ..
  rw [sync] at e
  refine ⟨by rw [e], ?_, fun c => ?_⟩
  · rw [e]
    exact driven.reports (t := { s with mods := ms })
  · by_cases same : c = b
    · rw [same, enterState_state]
      exact away
    · rw [(enterState_only b new s).seq c same]
      exact calm c

theorem energiseWith_tried {b : Berth} {s : State} (ms : List ModuleId) (calm : s.Unwatched) : s.Tried (energiseWith b ms s) :=
  have given : s.Tried (assignAll b ms s) := tried_of_modsOnly (assignAll_modsOnly b ms s) (assignAll_reports b ms s) calm
  given.trans (enterState_tried given.unwatched rfl)

theorem serveClaims_tried {s : State} (cs : List Claim) (calm : s.Unwatched) : s.Tried (serveClaims cs s) := by
  induction cs generalizing s with
  | nil => exact ⟨rfl, .refl s, calm⟩
  | cons c cs ih =>
    unfold serveClaims
    split
    · exact ⟨rfl, .refl s, calm⟩
    next ms _ =>
      have taken : s.Tried { s with claims := cs } := ⟨rfl, .refl s, calm⟩
      have served := energiseWith_tried (b := c.berth) ms taken.unwatched
      exact (taken.trans served).trans (ih served.unwatched)

theorem tryPool_tried {s : State} (calm : s.Unwatched) : s.Tried (tryPool s) :=
  have needs : s.Tried (serveNeeds none s) := tried_of_modsOnly (serveNeeds_modsOnly none s) (serveNeeds_reports none s) calm
  needs.trans (serveClaims_tried _ needs.unwatched)

/-! ## The schedule (R179, R190) -/

theorem takeWhile_get (p : Word → Bool) (l : List Word) (i : Nat) : (l.takeWhile p)[i]? =
    if ∀ j ≤ i, ∀ y, l[j]? = some y → p y = true then l[i]? else none := by
  induction l generalizing i with
  | nil => simp
  | cons a l ih =>
    by_cases first : p a = true
    · rw [List.takeWhile_cons_of_pos first]
      cases i with
      | zero =>
        rw [if_pos]
        · rfl
        · intro j le y at_
          rw [Nat.le_zero.mp le] at at_
          exact Option.some.inj at_ ▸ first
      | succ i =>
        rw [List.getElem?_cons_succ, List.getElem?_cons_succ, ih]
        refine if_congr ⟨fun h j le y at_ => ?_, fun h j le y at_ => h (j + 1) (by omega) y at_⟩ rfl rfl
        cases j with
        | zero => exact Option.some.inj at_ ▸ first
        | succ j => exact h j (by omega) y at_
    · rw [List.takeWhile_cons_of_neg first, if_neg fun h => first (h 0 (Nat.zero_le _) a rfl)]
      rfl

theorem cfgMetrology_schedule (s : State) (i : Nat) (small : i < 8) : s.cfgMetrology.schedule[i]? =
    if ∀ j, j < i → field (wordAt s.page.shadow (161 + j)) 0 17 ≠ 0 then
      some ⟨field (wordAt s.page.shadow (160 + i)) 0 17, field (wordAt s.page.shadow (160 + i)) 24 2⟩ else none := by
  let rest := (List.range 7).map fun k => wordAt s.page.shadow (161 + k)
  have schedule : s.cfgMetrology.schedule =
      (wordAt s.page.shadow 160 :: rest.takeWhile fun x => field x 0 17 != 0).map scheduleEntry := rfl
  have at_ (j : Nat) (h : j < 7) : rest[j]? = some (wordAt s.page.shadow (161 + j)) := by
    rw [List.getElem?_map, List.getElem?_range h]
    rfl
  rw [schedule, List.getElem?_map]
  cases i with
  | zero =>
    rw [if_pos fun j low => absurd low (Nat.not_lt_zero j)]
    rfl
  | succ i =>
    have goes : (∀ j ≤ i, ∀ y, rest[j]? = some y → (field y 0 17 != 0) = true) ↔
        ∀ j, j < i + 1 → field (wordAt s.page.shadow (161 + j)) 0 17 ≠ 0 :=
      ⟨fun h j low => bne_iff_ne.mp (h j (by omega) _ (at_ j (by omega))), fun h j le y word => by
        rw [at_ j (by omega)] at word
        exact Option.some.inj word ▸ bne_iff_ne.mpr (h j (by omega))⟩
    rw [List.getElem?_cons_succ, takeWhile_get]
    by_cases all : ∀ j, j < i + 1 → field (wordAt s.page.shadow (161 + j)) 0 17 ≠ 0
    · rw [if_pos (goes.mpr all), if_pos all, at_ i (by omega), show 160 + (i + 1) = 161 + i by omega]
      rfl
    · rw [if_neg fun h => all (goes.mp h), if_neg all]
      rfl

/-! ## CONFIG_CHANGE (11.6) -/

theorem packedWord_eq (p i : Nat) : packedWord p i = BitVec.ofNat 32 (p / 2 ^ (32 * i)) := by
  unfold packedWord
  rw [put_word, Nat.pow_mul, show 2 ^ 32 = 4294967296 by decide]

theorem bits_lt (e : TariffEntry) : e.bits < 2 ^ 19 := by
  unfold TariffEntry.bits
  omega

/-- 11.6: the entries stand one after the other, 19 bits each. -/
theorem packSchedule_get (l : List TariffEntry) (i : Nat) :
    packSchedule l / 2 ^ (19 * i) % 2 ^ 19 = ((l[i]?).map TariffEntry.bits).getD 0 := by
  induction l generalizing i with
  | nil => simp [packSchedule]
  | cons e l ih =>
    have step : packSchedule (e :: l) = e.bits + packSchedule l * 2 ^ 19 := by
      unfold packSchedule
      rw [List.foldr_cons, show 2 ^ 19 = 524288 by decide]
    have small := bits_lt e
    cases i with
    | zero =>
      rw [step, Nat.mul_zero, Nat.pow_zero, Nat.div_one, Nat.add_mul_mod_self_right, Nat.mod_eq_of_lt small,
        List.getElem?_cons_zero, Option.map_some, Option.getD_some]
    | succ i =>
      rw [step, Nat.mul_succ, Nat.add_comm (19 * i), Nat.pow_add, ← Nat.div_div_eq_div_mul,
        Nat.add_mul_div_right _ _ (by decide), Nat.div_eq_of_lt small, Nat.zero_add, ih, List.getElem?_cons_succ]

end Sys2Proof.Machine
end

section
/-! Proofs: a commit takes effect (R181). -/

namespace Sys2Proof.Machine

/-! ## What each section changes (R163, R182, R3, R149, R36, R129, R185) -/

section
variable (m : Word) (s : State)

theorem rebaseIntake_eq :
    rebaseIntake s = { s with meas := s.meas.map Meas.rebase, sync := s.sync.map forgetShipPhasor } := by
  have one (b : Berth) (u : State) : (u.updMeas b Meas.rebase).updSync b forgetShipPhasor =
      { u with
        meas := u.meas.set b (u.meas.get b).rebase, sync := u.sync.set b (forgetShipPhasor (u.sync.get b)) } := rfl
  have all {α : Type} (p : PerBerth α) (f : α → α) : ((p.set .b0 (f (p.get .b0))).set .b1
      (f ((p.set .b0 (f (p.get .b0))).get .b1))).set .b2
        (f (((p.set .b0 (f (p.get .b0))).set .b1 (f ((p.set .b0 (f (p.get .b0))).get .b1))).get .b2)) = p.map f := rfl
  unfold rebaseIntake forBerths
  beta_reduce
  rw [one .b0, one .b1, one .b2]
  dsimp only
  rw [all, all]

theorem windows_applied : applyNamed m .windows s = { s with
    bus := if names m .windows = true then
      { s.bus with table := s.rawTable.map RawEntry.entry, firstCommit := true } else s.bus
    meas := if names m .windows = true then s.meas.map Meas.rebase else s.meas
    sync := if names m .windows = true then s.sync.map forgetShipPhasor else s.sync } := by
  unfold applyNamed
  by_cases named : names m .windows = true
  · rw [if_pos named, if_pos named, if_pos named, if_pos named]
    exact rebaseIntake_eq _
  · rw [if_neg named, if_neg named, if_neg named, if_neg named]

/-- The sets of berth `b` are the same. -/
structure State.KeepsSets (b : Berth) (s t : State) : Prop where
  params : t.params.get b = s.params.get b
  pending : t.pendingParams.get b = s.pendingParams.get b

theorem commitBerth_own (b : Berth) (u : State) :
    ((commitBerth b u).params.get b = if (u.seq.get b).state = .idle then u.cfgParams b else u.params.get b) ∧
      (commitBerth b u).pendingParams.get b = if (u.seq.get b).state = .idle then none else some (u.cfgParams b) := by
  unfold commitBerth
  split
  · exact ⟨PerBerth.get_set_self .., PerBerth.get_set_self ..⟩
  · exact ⟨rfl, PerBerth.get_set_self ..⟩

theorem commitBerth_keeps {b c : Berth} (ne : c ≠ b) (u : State) : u.KeepsSets b (commitBerth c u) := by
  unfold commitBerth
  split
  · exact ⟨PerBerth.get_set_ne _ _ _ _ ne.symm, PerBerth.get_set_ne _ _ _ _ ne.symm⟩
  · exact ⟨rfl, PerBerth.get_set_ne _ _ _ _ ne.symm⟩

theorem commitBerths_get (b : Berth) :
    ((commitBerths s).params.get b =
      if (s.seq.get b).state = .idle then s.cfgParams b else s.params.get b) ∧
      (commitBerths s).pendingParams.get b =
        if (s.seq.get b).state = .idle then none else some (s.cfgParams b) := by
  obtain ⟨u, ⟨seq, page⟩, before, after⟩ := forBerths_turn (f := commitBerth) (P := fun u => u.seq = s.seq ∧ u.page = s.page)
    (R := State.KeepsSets b) b (fun _ => ⟨rfl, rfl⟩) (fun h k => ⟨k.params.trans h.params, k.pending.trans h.pending⟩)
    (fun c u same => by unfold commitBerth; split <;> exact same) (fun c u _ ne => commitBerth_keeps ne u) (s := s) ⟨rfl, rfl⟩
  have set : u.cfgParams b = s.cfgParams b := by
    unfold State.cfgParams State.cfgFlag State.cfg
    rw [page]
  obtain ⟨params, pending⟩ := commitBerth_own b u
  rw [seq, set] at params pending
  rw [before.params] at params
  exact ⟨after.params.trans params, after.pending.trans pending⟩

theorem commitBerths_rest : commitBerths s =
    { s with params := (commitBerths s).params, pendingParams := (commitBerths s).pendingParams } := by
  have one (b : Berth) (u : State) : commitBerth b u =
      { u with params := (commitBerth b u).params, pendingParams := (commitBerth b u).pendingParams } := by
    unfold commitBerth
    split <;> rfl
  unfold commitBerths forBerths
  rw [one .b2, one .b1, one .b0]

theorem journal_applied : applyNamed m .journal s = { s with jour := { s.jour with ring := s.ringAfter m } } := by
  unfold applyNamed State.ringAfter
  cases names m .journal <;> rfl

theorem protection_applied : applyNamed m .protection s = { s with
    prot := if names m .protection = true then s.cfgProtection else s.prot
    page := { s.page with
      presence := if names m .protection = true then
        if s.page.presence = .inactive then .awaiting else s.page.presence else s.page.presence } } := by
  unfold applyNamed
  cases names m .protection <;> rfl

/-- R129: the CONFIG_CHANGE of a commit. -/
def State.configRecord (s : State) : Record :=
  { berth := none, session := 0, time := s.clock.time
    body := .configChange (configWords s.cfgMetrology s.clock.inForce s.clock.pending.isSome) }

theorem metrology_applied (room : names m .metrology = true → metrologyHeld s.jour.queue = 0) :
    applyNamed m .metrology s = { s with
      clock := { s.clock with pending := if names m .metrology = true then some s.cfgMetrology else s.clock.pending }
      jour := { s.jour with
        queue := if names m .metrology = true then s.jour.queue ++ [s.configRecord] else s.jour.queue }
      page := { s.page with
        unlock := if names m .metrology = true then .closed else s.page.unlock
        unlockTimer := if names m .metrology = true then .stopped else s.page.unlockTimer } } := by
  unfold applyNamed
  cases named : names m .metrology with
  | false => rfl
  | true =>
    have admits : admitConfig s.configRecord s = s.withQueue (s.jour.queue ++ [s.configRecord]) := if_pos (room named)
    show commitMetrology s = _
    unfold commitMetrology metrologyCommitted
    rw [show ({ berth := none, session := 0, time := s.clock.time
                body := .configChange (configWords s.cfgMetrology s.clock.inForce s.clock.pending.isSome) } : Record) =
        s.configRecord from rfl, admits]
    rfl

theorem attention_applied : applyNamed m .attention s = { s with
    page := { s.page with enable := if names m .attention = true then BitVec.ofNat 16 (s.cfg 208) else s.page.enable }
    jour := { s.jour with
      threshold := if names m .attention = true then s.cfg 209 else s.jour.threshold
      coalTimeMs := if names m .attention = true then s.cfg 210 else s.jour.coalTimeMs } } := by
  unfold applyNamed
  cases names m .attention <;> rfl

/-- R3: presence and ratings as the shadow tells them. -/
def State.rated (s : State) : State := forModules
  (fun k s => s.updMod k fun r => { r with present := s.cfgFlag (96 + 4 * k.num), rating := s.cfg (97 + 4 * k.num) }) s

theorem rated_modsOnly : s.ModsOnly s.rated := forModules_modsOnly (fun k u => updMod_modsOnly k _ u) s

theorem rated_get (k : ModuleId) : (s.rated.mods.get k).present = s.cfgFlag (96 + 4 * k.num) ∧
    (s.rated.mods.get k).rating = s.cfg (97 + 4 * k.num) := by
  have get := forModules_get (f := fun k s => s.updMod k fun r =>
      { r with present := s.cfgFlag (96 + 4 * k.num), rating := s.cfg (97 + 4 * k.num) })
    (h := fun s k r => { r with present := s.cfgFlag (96 + 4 * k.num), rating := s.cfg (97 + 4 * k.num) })
    (fun _ _ => rfl) (fun _ _ => rfl) s k
  unfold State.rated
  rw [get]
  exact ⟨rfl, rfl⟩

theorem commitPool_eq : commitPool s = tryPool s.rated := rfl

/-- R3, R180: POOL is accepted only where every berth is IDLE. -/
theorem commitPool_spec (idle : ∀ b, (s.seq.get b).state = .idle) : ∃ t, commitPool s = t ∧
    t = { s with mods := t.mods, osc := t.osc, seq := t.seq, sessions := t.sessions, claims := t.claims } ∧
    ∀ k, (t.mods.get k).present = s.cfgFlag (96 + 4 * k.num) ∧ (t.mods.get k).rating = s.cfg (97 + 4 * k.num) := by
  have only := rated_modsOnly s
  have calm : s.rated.Unwatched := fun b => by
    rw [only]
    exact congrArg BerthState.isWatching (idle b)
  have tried := tryPool_tried calm
  refine ⟨tryPool s.rated, commitPool_eq s, ?_, fun k => ?_⟩
  · have rest := tried.rest
    generalize tryPool s.rated = t at rest ⊢
    generalize s.rated = r at only rest
    rw [rest, only]
  · obtain ⟨present, rating⟩ := rated_get s k
    exact ⟨(tried.reports k).present.trans present, (tried.reports k).rating.trans rating⟩

/-- POOL, named or not. -/
theorem pool_applied (idle : names m .pool = true → ∀ b, (s.seq.get b).state = .idle) : ∃ ms os qs xs cl,
    applyNamed m .pool s = { s with mods := ms, osc := os, seq := qs, sessions := xs, claims := cl } ∧
    (names m .pool = true → ∀ k, (ms.get k).present = s.cfgFlag (96 + 4 * k.num) ∧
      (ms.get k).rating = s.cfg (97 + 4 * k.num)) ∧
    (names m .pool = false → ms = s.mods ∧ qs = s.seq ∧ cl = s.claims) := by
  unfold applyNamed
  by_cases named : names m .pool = true
  · obtain ⟨t, is, rest, told⟩ := commitPool_spec s (idle named)
    rw [if_pos named]
    exact ⟨_, _, _, _, _, is.trans rest, fun _ => told, fun unnamed => nomatch named.symm.trans unnamed⟩
  · rw [if_neg named]
    exact ⟨_, _, _, _, _, rfl, fun at_ => absurd at_ named, fun _ => ⟨rfl, rfl, rfl⟩⟩

theorem berths_applied : ∃ x y, applyNamed m .berths s = { s with params := x, pendingParams := y } ∧
    (∀ b, names m .berths = true → (s.seq.get b).state = .idle → x.get b = s.cfgParams b ∧ y.get b = none) ∧
    (∀ b, names m .berths = true → (s.seq.get b).state ≠ .idle →
      x.get b = s.params.get b ∧ y.get b = some (s.cfgParams b)) ∧
    (names m .berths = false → x = s.params ∧ y = s.pendingParams) := by
  unfold applyNamed
  by_cases named : names m .berths = true
  · rw [if_pos named]
    refine ⟨_, _, commitBerths_rest s, fun b _ idle => ?_, fun b _ busy => ?_, fun unnamed => nomatch named.symm.trans unnamed⟩
    · obtain ⟨params, pending⟩ := commitBerths_get s b
      rw [if_pos idle] at params pending
      exact ⟨params, pending⟩
    · obtain ⟨params, pending⟩ := commitBerths_get s b
      rw [if_neg busy] at params pending
      exact ⟨params, pending⟩
  · rw [if_neg named]
    exact ⟨_, _, rfl, fun _ at_ => absurd at_ named, fun _ at_ => absurd at_ named, fun _ => ⟨rfl, rfl⟩⟩

end

/-! ## The shadow stays (R181) -/

section
variable {s t : State} (h : t.page.shadow = s.page.shadow)
include h

theorem cfg_congr (n : Nat) : t.cfg n = s.cfg n := by
  unfold State.cfg
  rw [h]

theorem cfgFlag_congr (n : Nat) : t.cfgFlag n = s.cfgFlag n := congrArg (· != 0) (cfg_congr h n)

theorem cfgParams_congr (b : Berth) : t.cfgParams b = s.cfgParams b := by
  unfold State.cfgParams
  simp only [cfg_congr h, cfgFlag_congr h]

theorem cfgProtection_congr : t.cfgProtection = s.cfgProtection := by
  unfold State.cfgProtection
  simp only [cfg_congr h]

theorem cfgMetrology_congr : t.cfgMetrology = s.cfgMetrology := by
  unfold State.cfgMetrology
  simp only [cfg_congr h, h]

end

end Sys2Proof.Machine
end

section
/-! Proofs: a commit takes effect, all its sections together (R181). -/

namespace Sys2Proof.Machine

/-- R181: what the named sections leave, but for what WINDOWS, BERTHS and POOL make of the berths and the pool. -/
def State.committed (m : Word) (params : PerBerth BerthParams) (pending : PerBerth (Option BerthParams))
    (mods : PerModule Module) (osc : PerBerth Osc) (seq : PerBerth Seq) (sessions : PerBerth (Option Session))
    (claims : List Claim) (s : State) : State :=
  { s with
    params := params, pendingParams := pending, mods := mods, osc := osc, seq := seq, sessions := sessions, claims := claims
    bus := if names m .windows = true then
      { s.bus with table := s.rawTable.map RawEntry.entry, firstCommit := true } else s.bus
    meas := if names m .windows = true then s.meas.map Meas.rebase else s.meas
    sync := if names m .windows = true then s.sync.map forgetShipPhasor else s.sync
    prot := if names m .protection = true then s.cfgProtection else s.prot
    clock := { s.clock with pending := if names m .metrology = true then some s.cfgMetrology else s.clock.pending }
    jour := { s.jour with
      ring := s.ringAfter m
      queue := if names m .metrology = true then s.jour.queue ++ [s.configRecord] else s.jour.queue
      threshold := if names m .attention = true then s.cfg 209 else s.jour.threshold
      coalTimeMs := if names m .attention = true then s.cfg 210 else s.jour.coalTimeMs }
    page := { s.page with
      presence := if names m .protection = true then
        if s.page.presence = .inactive then .awaiting else s.page.presence else s.page.presence
      unlock := if names m .metrology = true then .closed else s.page.unlock
      unlockTimer := if names m .metrology = true then .stopped else s.page.unlockTimer
      enable := if names m .attention = true then BitVec.ofNat 16 (s.cfg 208) else s.page.enable } }

theorem namedApplied_spec {m : Word} {s : State} (idle : names m .pool = true → ∀ b, (s.seq.get b).state = .idle)
    (room : names m .metrology = true → metrologyHeld s.jour.queue = 0) : ∃ x y ms os qs xs cl,
    namedApplied m s = s.committed m x y ms os qs xs cl ∧
    (∀ b, names m .berths = true → (s.seq.get b).state = .idle → x.get b = s.cfgParams b ∧ y.get b = none) ∧
    (∀ b, names m .berths = true → (s.seq.get b).state ≠ .idle →
      x.get b = s.params.get b ∧ y.get b = some (s.cfgParams b)) ∧
    (names m .berths = false → x = s.params ∧ y = s.pendingParams) ∧
    (names m .pool = true → ∀ k, (ms.get k).present = s.cfgFlag (96 + 4 * k.num) ∧
      (ms.get k).rating = s.cfg (97 + 4 * k.num)) ∧
    (names m .pool = false → ms = s.mods ∧ qs = s.seq ∧ cl = s.claims) := by
  have named := namedApplied_eq m s
  have e1 := windows_applied m s
  have h1 := applyNamed_shadow m .windows s
  generalize applyNamed m .windows s = w at *
  obtain ⟨x, y, e2, now, later, unset⟩ := berths_applied m w
  have h2 := (applyNamed_shadow m .berths w).trans h1
  generalize applyNamed m .berths w = b at *
  have idle' : names m .pool = true → ∀ c, (b.seq.get c).state = .idle := by
    rw [e2, e1]
    exact idle
  obtain ⟨ms, os, qs, xs, cl, e3, rated, kept⟩ := pool_applied m b idle'
  have h3 := (applyNamed_shadow m .pool b).trans h2
  generalize applyNamed m .pool b = p at *
  have e4 := journal_applied m p
  have h4 := (applyNamed_shadow m .journal p).trans h3
  have ring : p.ringAfter m = s.ringAfter m := ringAfter_congr m h3 (by rw [e3, e2, e1])
  rw [ring] at e4
  generalize applyNamed m .journal p = j at *
  have e5 := protection_applied m j
  have h5 := (applyNamed_shadow m .protection j).trans h4
  rw [cfgProtection_congr h4] at e5
  generalize applyNamed m .protection j = r at *
  have queue : r.jour.queue = s.jour.queue := by rw [e5, e4, e3, e2, e1]
  have clock : r.clock = s.clock := by rw [e5, e4, e3, e2, e1]
  have e6 := metrology_applied m r (by rw [queue]; exact room)
  have h6 := (applyNamed_shadow m .metrology r).trans h5
  have record : r.configRecord = s.configRecord := by
    unfold State.configRecord
    rw [cfgMetrology_congr h5, clock]
  rw [record, cfgMetrology_congr h5] at e6
  generalize applyNamed m .metrology r = t at *
  have e7 := attention_applied m t
  rw [cfg_congr h6, cfg_congr h6, cfg_congr h6] at e7
  have params (c : Berth) : w.cfgParams c = s.cfgParams c := cfgParams_congr h1 c
  have seq : w.seq = s.seq := by rw [e1]
  have old : w.params = s.params := by rw [e1]
  simp only [params, seq, old] at now later
  simp only [cfg_congr h2, cfgFlag_congr h2] at rated
  refine ⟨x, y, ms, os, qs, xs, cl, ?_, now, later, fun other => ?_, rated, fun other => ?_⟩
  · rw [named, e7, e6, e5, e4, e3, e2, e1]
    rfl
  · have same := unset other
    rw [e1] at same
    exact same
  · have same := kept other
    rw [e2, e1] at same
    exact same

end Sys2Proof.Machine
end

section
/-! Proofs: what an ACCEPTED commit leaves, and the words it reads and tells (R181, 11.6). -/

namespace Sys2Proof.Machine

/-! ## The words (section 12, 11.6) -/

theorem cfgParams_eq (s : State) (b : Berth) : s.cfgParams b =
    { configured := decide (s.cfg (48 + 16 * b.num) ≠ 0), voltMax := s.cfg (48 + 16 * b.num + 1)
      slipTarget := s.cfg (48 + 16 * b.num + 2), slipTolerance := s.cfg (48 + 16 * b.num + 3)
      angleMax := s.cfg (48 + 16 * b.num + 4), closeTimeMs := s.cfg (48 + 16 * b.num + 5)
      deadTimeS := s.cfg (48 + 16 * b.num + 6), rampRate := s.cfg (48 + 16 * b.num + 7)
      releaseKw := s.cfg (48 + 16 * b.num + 8), parallelS := s.cfg (48 + 16 * b.num + 9)
      syncTimeoutS := s.cfg (48 + 16 * b.num + 10), energiseRampS := s.cfg (48 + 16 * b.num + 11)
      slew := s.cfg (48 + 16 * b.num + 12), islandSlew := s.cfg (48 + 16 * b.num + 13)
      stalenessMs := s.cfg (48 + 16 * b.num + 14), claimTimeoutMin := s.cfg (48 + 16 * b.num + 15) } := by
  have flag : s.cfgFlag (48 + 16 * b.num) = decide (s.cfg (48 + 16 * b.num) ≠ 0) := by
    rw [Bool.eq_iff_iff, cfgFlag_iff, decide_eq_true_iff]
  unfold State.cfgParams
  rw [flag]

theorem configWords_eq (new old : Metrology) (replaced : Bool) (p q : Nat) (hp : packSchedule new.schedule = p)
    (hq : packSchedule old.schedule = q) : configWords new old replaced =
      [BitVec.ofNat 32 p, BitVec.ofNat 32 (p / 2 ^ 32), BitVec.ofNat 32 (p / 2 ^ 64), BitVec.ofNat 32 (p / 2 ^ 96),
        fields [BitVec.ofNat 32 (p / 2 ^ 128), put 24 3 (intervalCode new.intervalMin), putBit 31 replaced],
        fields [put 0 10 new.bridgeS, put 12 3 (intervalCode old.intervalMin), put 16 10 old.bridgeS],
        BitVec.ofNat 32 q, BitVec.ofNat 32 (q / 2 ^ 32), BitVec.ofNat 32 (q / 2 ^ 64), BitVec.ofNat 32 (q / 2 ^ 96),
        BitVec.ofNat 32 (q / 2 ^ 128)] := by
  have zero (n : Nat) : packedWord n 0 = BitVec.ofNat 32 n := by
    rw [packedWord_eq, Nat.mul_zero, Nat.pow_zero, Nat.div_one]
  unfold configWords
  dsimp only
  rw [hp, hq, zero, zero]
  simp only [packedWord_eq]

/-! ## The commit (R181, R182) -/

section
variable {m : Word} {s : State}

/-- R177, R178: what an ACCEPTED commit has passed. -/
structure State.Passed (m : Word) (s : State) : Prop where
  crc : crc32 s.page.shadow = s.page.shadowCrc
  some_ : m ≠ 0
  known : m.toNat < 128
  sections : ∀ x, names m x = true → s.checkSection x = none ∧ s.sectionReady x = true
  ties : s.checkTies m = none
  first : s.bus.firstCommit = true ∨ names m .windows = true
  metrology : names m .metrology = true → s.page.unlock = .opened ∧ metrologyHeld s.jour.queue = 0 ∧
    ∀ r ∈ s.jour.queue, r.isInterval = false

theorem State.Passed.judged (h : s.Passed m) : s.judgeCommit m = (.accepted, ⟨none, 0⟩) := by
  rw [judge_ready ((crcOk_iff s).mpr h.crc)
    (checkRanges_good h.some_ h.known fun x named => (h.sections x named).1) h.ties
    (checkState_good h.first fun x named => (h.sections x named).2)]
  cases named : names m .metrology with
  | false => rfl
  | true =>
    obtain ⟨opened, free, none_⟩ := h.metrology named
    have room : s.journalRoom = true := (journalRoom_iff s).mpr (by
      rintro (held | ⟨r, mem, is⟩)
      · exact held free
      · exact nomatch (none_ r mem).symm.trans is)
    rw [opened, room]
    rfl

theorem State.Passed.idle (h : s.Passed m) (named : names m .pool = true) (b : Berth) : (s.seq.get b).state = .idle :=
  (allIdle_berths s).mp (h.sections .pool named).2 b

/-- R181: the sections, then the ring's rewind, then the record of the commit. -/
theorem commit_accepted (judged : s.judgeCommit m = (.accepted, ⟨none, 0⟩)) : commit m s =
    recordCommit m (.accepted, ⟨none, 0⟩) (applySections m s) := by
  unfold commit
  rw [judged]
  exact congrArg (recordCommit m (.accepted, ⟨none, 0⟩)) (if_pos rfl)

theorem applySections_eq (m : Word) (s : State) : applySections m s =
    { rewindRing s (namedApplied m s) with page := { (rewindRing s (namedApplied m s)).page with
      accepted := (rewindRing s (namedApplied m s)).page.accepted ||| m.setWidth 7 } } := rfl

/-- R182: P and C stay where the ring's base and length do, and start again elsewhere. -/
theorem rewindRing_eq (old new : State) : ∃ p c, rewindRing old new =
      { new with jour := { new.jour with produce := p, consume := c } } ∧
    (old.journalBase = new.journalBase ∧ old.jour.len = new.jour.len → p = new.jour.produce ∧ c = new.jour.consume) ∧
    (old.journalBase ≠ new.journalBase ∨ old.jour.len ≠ new.jour.len → p = 0 ∧ c = 0) := by
  unfold rewindRing
  split
  next same => exact ⟨_, _, rfl, fun _ => ⟨rfl, rfl⟩, fun moved => absurd same (not_and_or.mpr moved)⟩
  next moved => exact ⟨_, _, rfl, fun same => absurd same moved, fun _ => ⟨rfl, rfl⟩⟩

end

/-- Settles O56. -/
theorem commitTakesEffect : Obligations.CommitTakesEffect := by
  refine ⟨fun s => ⟨?_, rfl, rfl, rfl, cfgMetrology_schedule s⟩, rfl, fun new old replaced => ?_,
    fun c m s commits takes crc some_ known sections ties first metrology => ?_⟩
  · rintro b n rfl
    exact cfgParams_eq s b
  · exact ⟨_, _, configWords_eq new old replaced _ _ rfl rfl, packSchedule_get new.schedule, packSchedule_get old.schedule⟩
  · have passed : s.Passed m := ⟨crc, some_, known, sections, ties, first, metrology⟩
    obtain ⟨x, y, ms, os, qs, xs, cl, all, now, later, unset, rated, kept⟩ :=
      namedApplied_spec passed.idle fun named => (metrology named).2.1
    obtain ⟨p, k, rewound, stays, restarts⟩ := rewindRing_eq s (namedApplied m s)
    refine ⟨commit m s, commitMask_exec commits takes, ?_⟩
    rw [commit_accepted passed.judged, applySections_eq, rewound]
    rw [all] at stays restarts ⊢
    refine ⟨rfl, rfl, setSummary_bit .., rfl, rfl, rfl, fun named => ?_, fun other => ?_, now, later, unset, rated, kept,
      rfl, stays, restarts, fun named => ?_, fun other => ?_, fun named => ?_, fun other => ?_, fun named => ?_,
      fun other => ?_⟩
    · refine ⟨if_pos named, fun b => ⟨?_, ?_⟩⟩
      · refine (congrArg (PerBerth.get · b) (if_pos named)).trans ((PerBerth.get_map ..).trans rfl)
      · refine (congrArg (PerBerth.get · b) (if_pos named)).trans (PerBerth.get_map ..)
    · have no : ¬names m .windows = true := Bool.eq_false_iff.mp other
      exact ⟨if_neg no, if_neg no, if_neg no⟩
    · exact ⟨if_pos named, if_pos named⟩
    · have no : ¬names m .protection = true := Bool.eq_false_iff.mp other
      exact ⟨if_neg no, if_neg no⟩
    · exact ⟨if_pos named, if_pos named, if_pos named, if_pos named⟩
    · have no : ¬names m .metrology = true := Bool.eq_false_iff.mp other
      refine ⟨?_, if_neg no, if_neg no⟩
      show ({ s.clock with pending := if names m .metrology = true then some s.cfgMetrology else s.clock.pending } : Clock) = _
      rw [if_neg no]
    · exact ⟨if_pos named, if_pos named, if_pos named⟩
    · have no : ¬names m .attention = true := Bool.eq_false_iff.mp other
      exact ⟨if_neg no, if_neg no, if_neg no⟩

end Sys2Proof.Machine
end

section
/-! Proofs: admission to the holding queue (R145 to R148). -/

namespace Sys2Proof.Machine

/-! ## Classes of record (R144, R145) -/

theorem isBilling_iff (b : Berth) (r : Record) : r.isBilling b = true ↔ r.berth = some b ∧
    ((∃ ws, r.body = .sessionOpen ws ∨ r.body = .sessionClose ws) ∨ ∃ i, r.body = .interval i) := by
  unfold Record.isBilling
  rw [Bool.and_eq_true, beq_iff_eq]
  refine and_congr_right fun _ => ?_
  cases r.body <;> simp

theorem isInterval_iff (r : Record) : r.isInterval = true ↔ ∃ i, r.body = .interval i := by
  unfold Record.isInterval
  cases r.body <;> simp

theorem isMetrology_iff (r : Record) : r.isMetrology = true ↔ ∃ ws, r.body = .configChange ws := by
  unfold Record.isMetrology
  cases r.body <;> simp

/-! ## Where an INTERVAL merges (R146) -/

section
variable {b : Berth} {time : StationTime} {new : IntervalBody}

theorem mergeNewest_none {l : List Record} (absent : ∀ x ∈ l, x.isInterval = true → x.berth ≠ some b) :
    mergeNewest b time new l = none := by
  induction l with
  | nil => rfl
  | cons x l ih =>
    have away := absent x List.mem_cons_self
    unfold mergeNewest
    rw [ih fun y mem => absent y (List.mem_cons_of_mem _ mem)]
    dsimp only
    split
    next old body => exact if_neg (away ((isInterval_iff x).mpr ⟨old, body⟩))
    next => rfl

theorem mergeNewest_head {x : Record} {old : IntervalBody} {post : List Record} (body : x.body = .interval old)
    (berth : x.berth = some b) (last : ∀ y ∈ post, y.isInterval = true → y.berth ≠ some b) :
    mergeNewest b time new (x :: post) = some ({ x with time := time, body := .interval (old.merge new) } :: post) := by
  unfold mergeNewest
  rw [mergeNewest_none last]
  dsimp only
  rw [body]
  exact if_pos berth

/-- What stands before the newest INTERVAL of the berth stays. -/
theorem mergeNewest_append {l l' : List Record} (merged : mergeNewest b time new l = some l') (pre : List Record) :
    mergeNewest b time new (pre ++ l) = some (pre ++ l') := by
  induction pre with
  | nil => exact merged
  | cons x pre ih =>
    rw [List.cons_append]
    unfold mergeNewest
    rw [ih]
    rfl

theorem mergeInto_idle (l : List Record) : mergeInto false b time new l = mergeNewest b time new l := rfl

theorem mergeInto_writing (x : Record) (l : List Record) :
    mergeInto true b time new (x :: l) = (mergeNewest b time new l).map (x :: ·) := rfl

theorem mergeInto_absent {l : List Record} (writing : Bool) (absent : ∀ x ∈ l, x.isInterval = true → x.berth ≠ some b) :
    mergeInto writing b time new l = none := by
  cases writing with
  | false => exact mergeNewest_none absent
  | true =>
    cases l with
    | nil => rfl
    | cons x l => rw [mergeInto_writing, mergeNewest_none fun y mem => absent y (List.mem_cons_of_mem _ mem)]; rfl

/-- R146: a record that is not being written takes the merge. -/
theorem mergeInto_newest {x x' : Record} {pre post : List Record} (writing : Bool)
    (merged : mergeNewest b time new (x :: post) = some (x' :: post)) (free : writing = false ∨ pre ≠ []) :
    mergeInto writing b time new (pre ++ x :: post) = some (pre ++ x' :: post) := by
  cases writing with
  | false => exact mergeNewest_append merged pre
  | true =>
    cases pre with
    | nil => exact absurd rfl (free.resolve_left nofun)
    | cons y pre => rw [List.cons_append, mergeInto_writing, mergeNewest_append merged pre]; rfl

/-! ## Admission (R145 to R148) -/

variable {r : Record} {s : State}

theorem admitInterval_apart (apart : mergeInto s.jour.writing.isSome b r.time new s.jour.queue = none) :
    admitInterval b r new s = admitBilling b r s := by
  unfold admitInterval
  rw [apart]

theorem admitInterval_merged {q : List Record}
    (merged : mergeInto s.jour.writing.isSome b r.time new s.jour.queue = some q) :
    admitInterval b r new s = s.withQueue q := by
  unfold admitInterval
  rw [merged]

end

/-- Settles O57. -/
theorem queueAdmitsByClass : Obligations.QueueAdmitsByClass := by
  refine ⟨fun b x l => ⟨rfl, rfl, rfl, List.countP_cons, List.countP_cons, List.countP_cons, isBilling_iff b x,
    isInterval_iff x, isMetrology_iff x⟩, fun b r s => ⟨fun room => if_pos room, fun room => if_pos room,
    fun full => if_neg (Nat.not_lt.mpr full),
    fun room => if_pos room, fun code q o ws => ?_, fun i => ⟨fun x post writing queue absent => ?_,
      fun absent => admitInterval_apart (mergeInto_absent _ absent),
      fun pre post x o queue body berth last free => ?_⟩⟩⟩
  · unfold emitEvent
    refine congrArg (fun n => admitEvent { berth := o, session := n, time := s.clock.time, body := .event code q ws } s) ?_
    cases o with
    | none => rfl
    | some x =>
      show s.sessionNumber x = ((s.sessions.get x).map (·.number)).getD 0
      unfold State.sessionNumber
      cases s.sessions.get x <;> rfl
  · refine admitInterval_apart ?_
    rw [writing, queue, mergeInto_writing, mergeNewest_none absent]
    rfl
  · have merged := mergeInto_newest s.jour.writing.isSome (pre := pre)
      (mergeNewest_head (time := r.time) (new := i) body berth last)
      (free.imp_left fun none_ => by rw [none_]; rfl)
    rw [← queue] at merged
    exact admitInterval_merged merged

end Sys2Proof.Machine
end
